-- ==== Sys2Proof/Word.lean ====
section
/-!
DEFINITION. The word types, the sparse tables that the state is made of, and the small record types that operands of
instructions and arguments of events have.
-/

namespace Sys2Proof

/-- A byte. -/
abbrev Byte := BitVec 8
/-- An instruction word or a value of an s-register (R122). -/
abbrev W32 := BitVec 32
/-- A memory word, an address or a value of an a-register (R98, R122). -/
abbrev W64 := BitVec 64
/-- The bits of a vector register or of a queue entry: 2 KiB (R122, R33); byte i is bits 8i+7 to 8i. -/
abbrev VReg := BitVec 16384
/-- The bits of a mask register (R122). -/
abbrev KReg := BitVec 2048
/-- The six arithmetic flags in the order of R92: SAT, INX, UNF, OVF, DZ, INV from bit 5 down. -/
abbrev Flags := BitVec 6

/-- A sparse table: keys strictly rising, looked up with a default for the keys that are not listed. -/
abbrev SMap (α : Type) := List (Nat × α)

/-- The token bits of an A- or X-space word (R117): pop-before and push-after. -/
structure Tok where
  wt : Bool
  ps : Bool
  deriving DecidableEq, Repr

/-- The fields of the vector extension word that R125 gives every V and VS instruction: TYPE as coded, MASK, MZ. -/
structure VHdr where
  ty : BitVec 4
  mask : BitVec 3
  mz : BitVec 1
  deriving DecidableEq, Repr

/-- A control flit's fields (R290) but for its kind, with the reserved bit, the CRC and the bytes of the data flits that follow it. -/
structure Flit where
  speer : BitVec 12
  dpeer : BitVec 12
  lseq : BitVec 16
  rtag : BitVec 16
  addr : BitVec 48
  stream : BitVec 4
  lenM1 : BitVec 11
  opa : BitVec 64
  sseq : BitVec 16
  status : BitVec 8
  aop : BitVec 8
  reserved : BitVec 1 := 0
  crc : BitVec 32 := 0
  data : List (BitVec 8)
  deriving DecidableEq, Repr

/-- A data flit (R288, R291): the fields of its tag, the wavelength whose line code failed if one did, and its 512 bytes, of which
those behind the list are zero. -/
structure DataFlit where
  dseq : BitVec 16
  rtag : BitVec 16
  speer : BitVec 12
  index : BitVec 4
  last : Bool
  reserved : BitVec 47 := 0
  crc : BitVec 32 := 0
  badWave : Option Nat := none
  data : List (BitVec 8)
  deriving DecidableEq, Repr

/-- What every request of the host carries (R299, R301, R314): its request ID, the endpoint that it came on, and the fields that its
layout gives as zero, as one number. -/
structure HostReq where
  id : BitVec 32
  endpoint : Nat := 0
  zeros : Nat := 0
  deriving DecidableEq, Repr

/-- What IMAGE_WRITE carries beside its address (R300, R301): its request and the bytes. -/
structure ImageData where
  req : HostReq
  bytes : List (BitVec 8)
  deriving DecidableEq, Repr

/-- What an attestation request carries (R329): its request and the nonce. -/
structure AttestArgs where
  req : HostReq
  nonce : BitVec 256
  deriving DecidableEq, Repr

/-- What COUNTER makes (R20, R22): a counter of a level, and for a job the timing mode that it runs in (R15; DESIGN CHOICE, log 152). -/
structure CounterLevel where
  level : Nat
  determinate : Bool := false
  deriving DecidableEq, Repr

/-- An access of a context and how much of it an event performs (R98): all of it at 0, else one word by its place. -/
structure AccPart where
  acc : Nat
  part : Nat := 0
  deriving DecidableEq, Repr

/-- What a bolt's decoder does in an event (R320): it decodes a block, or writes the next bytes of one. -/
structure DecoderStep where
  bolt : Nat
  write : Bool := false
  deriving DecidableEq, Repr

/-- The arguments of FORM (R314). Lists are by panel; a pair is a base address and a size. -/
structure FormArgs where
  panels : Nat
  peer : Nat
  level0 : Nat
  counterTable : Nat
  counterSize : Nat
  ctxPool : List (Nat × Nat)
  stashHbm : List (Nat × (Nat × Nat))
  stashLp : List (Nat × (Nat × Nat))
  overflow : List (Nat × (Nat × Nat))
  accCount : Nat
  barrierLimit : Nat
  suspLimit : Nat
  stallLimit : Nat
  determinate : Bool
  macs : List Nat
  ips : List Nat
  udps : List Nat
  deriving DecidableEq, Repr

/-- The arguments of ARM and LAUNCH (R301, R314): stage, the bolts of each gang, the step counter. -/
structure ArmArgs where
  panel : Nat
  stage : Nat
  gangs : List (List Nat)
  step : Nat
  deriving DecidableEq, Repr

/-- Who meets a suspended line (R110): an access of a context, a copy command of it, or a request from a peer. -/
inductive Loader where
  | acc (id : Nat)
  | copy (cmd : Nat)
  | remote (port : Nat) (rtag : Nat)
  | stash (op : Nat)
  deriving DecidableEq, Repr

end Sys2Proof
end

