-- ==== Sys2Proof/Config.lean ====
section
/-!
DEFINITION. What an implementation fixes and what the spec leaves open, as constants without a body: a statement holds for
every value that they may have.
-/

namespace Sys2Proof.Config

/-- TIME of a record (R335), in nanoseconds since module reset: the model keeps no clock (DESIGN CHOICE, log 13), so each record takes the
next free value. -/
opaque time : Nat → BitVec 64

/-- The attestation key of a partition, derived afresh at each FORM (R329; DESIGN CHOICE, log 8). -/
opaque attestKey : Nat → BitVec 384

/-- The ECDSA signature by a key over a SHA-384 value, with the random number that it takes (R329): the scheme is named and not defined
(DESIGN CHOICE, log 8). -/
opaque signature : BitVec 384 → BitVec 384 → Nat → BitVec 768

/-- SHA-384 of the firmware image at 0 and of the configuration image at 1 (R329), whose bytes the spec does not give (DESIGN CHOICE,
log 8). -/
opaque digest : Nat → BitVec 384

/-- The certificate of an attestation key, which accompanies the first report after each FORM (R329; DESIGN CHOICE, log 8). -/
opaque certificate : BitVec 384 → List (BitVec 8)

/-- The module's serial number (R329; DESIGN CHOICE, log 8). -/
opaque serial : BitVec 64

/-- The firmware's version (R329; DESIGN CHOICE, log 8). -/
opaque version : BitVec 32

/-- How many earlier panel faults of a panel lie within 24 hours of a new one (R409), by the place in the order of such questions: the
model keeps no clock (DESIGN CHOICE, log 13). -/
opaque recentFaults : Nat → Nat

/-- Whether a channel or a bridge that failed still fails after a reset has retrained it (R372, R410), by the place in the order of such
questions (DESIGN CHOICE, log 39). -/
opaque stillFails : Nat → Bool

/-- Bytes that no rule fixes, by the place in the order of such bytes (DESIGN CHOICE, log 28). -/
opaque freeByte : Nat → BitVec 8

/-- Which line a full L1 set or a full instruction cache gives up, by the place in the order of such choices (DESIGN CHOICE, log 142). -/
opaque evicted : Nat → Nat

/-- Entries of the combining table of a switch, which R166 and R388 name and no rule sizes (DESIGN CHOICE, log 37). -/
opaque combiningRoom : Nat

/-- Whether a new second has begun since the last link error of a port (R396) or the last correction of a channel (R369), by the place in the order of such questions: the model
keeps no clock (DESIGN CHOICE, log 13). -/
opaque newSecond : Nat → Bool
/-- Whether 1,024 cycles have passed since a port sent its last congestion notices (R297) (DESIGN CHOICE, log 13). -/
opaque newWindow : Nat → Bool

/-- Which command a reduction from a peer belongs to, as the loom, context and sequence number of its key, and whether it is the last of
its contribution, by the place in the order of such requests: no field of the flit holds them (DESIGN CHOICE, log 31). -/
opaque reduceKey : Nat → Nat × Bool × BitVec 16 × Bool

/-- SSEQ of a request on the module's own channels (R375), by the place in the order of such values (DESIGN CHOICE, log 38). -/
opaque localSseq : Nat → BitVec 16

/-- Class and cause of the record of a panel that enters FAILED (R324), which no rule names (DESIGN CHOICE, log 40). -/
opaque failedCause : BitVec 16

/-- Class and cause of the record of a failed module power input (R409), which no rule names (DESIGN CHOICE, log 40). -/
opaque inputCause : BitVec 16

end Sys2Proof.Config
end

