-- ==== Sys2Proof/Machine/Store.lean ====
section
/-!
DEFINITION. The sparse tables and the memory: reading, writing, and the canonical form that equal memories share.
-/

namespace Sys2Proof.Machine

/-- Looks a key up. -/
def SMap.find? {α : Type} (m : SMap α) (k : Nat) : Option α :=
  match m with
  | [] => none
  | (k', v) :: r => if k = k' then some v else if k < k' then none else SMap.find? r k

/-- Looks a key up with the value that unlisted keys have. -/
def SMap.getD {α : Type} (m : SMap α) (k : Nat) (d : α) : α := (SMap.find? m k).getD d

/-- Lists a key with a value, keeping the keys rising. -/
def SMap.set {α : Type} (m : SMap α) (k : Nat) (v : α) : SMap α :=
  match m with
  | [] => [(k, v)]
  | (k', v') :: r => if k = k' then (k, v) :: r else if k < k' then (k, v) :: (k', v') :: r else (k', v') :: SMap.set r k v

/-- Removes a key. -/
def SMap.erase {α : Type} (m : SMap α) (k : Nat) : SMap α :=
  match m with
  | [] => []
  | (k', v') :: r => if k = k' then r else if k < k' then (k', v') :: r else (k', v') :: SMap.erase r k

/-- The keys rise strictly, all above the bound. -/
def SMap.risingFrom {α : Type} (b : Nat) : SMap α → Bool
  | [] => true
  | (k, _) :: r => Nat.ble b k && SMap.risingFrom (k + 1) r

/-- The machine's bytes: physical addresses of R61, and above them the scratchpads, which no physical address names. -/
abbrev Memory := List Host.Cell

/-- What a byte that nothing has written reads as: the scrub of R324 leaves HBM and LPDDR zero; for the scratchpads and
accumulator tiles it is the model's choice (DESIGN CHOICE, log 5). -/
def Memory.unlisted : Byte := 0

/-- Reads one byte. -/
def Memory.read (m : Memory) (a : Nat) : Byte := SMap.getD m a Memory.unlisted

/-- Writes one byte; the value that an unlisted byte reads as is not listed. -/
def Memory.write (m : Memory) (a : Nat) (v : Byte) : Memory :=
  if v = Memory.unlisted then SMap.erase m a else SMap.set m a v

/-- The canonical form: addresses strictly rising and no entry that an unlisted address would read as. -/
def Memory.wf (m : Memory) : Bool := SMap.risingFrom 0 m && m.all (fun c => c.2 != Memory.unlisted)

/-- Reads n bytes from a, lowest first. -/
def Memory.readN (m : Memory) (a : Nat) : (n : Nat) → List Byte
  | 0 => []
  | n + 1 => Memory.read m a :: Memory.readN m (a + 1) n

/-- Writes bytes from a upwards. -/
def Memory.writeN (m : Memory) (a : Nat) : List Byte → Memory
  | [] => m
  | b :: r => Memory.writeN (Memory.write m a b) (a + 1) r

/-- The number that bytes hold, lowest first (R4). -/
def leNat : List Byte → Nat
  | [] => 0
  | b :: r => b.toNat + 256 * leNat r

/-- The n low bytes of a number, lowest first (R4). -/
def leBytes : (n : Nat) → Nat → List Byte
  | 0, _ => []
  | n + 1, x => BitVec.ofNat 8 x :: leBytes n (x / 256)

/-- The number in n bytes from a. -/
def Memory.readLE (m : Memory) (a n : Nat) : Nat := leNat (Memory.readN m a n)

/-- Writes the n low bytes of a number from a. -/
def Memory.writeLE (m : Memory) (a n x : Nat) : Memory := Memory.writeN m a (leBytes n x)

/-- Where a loom scratchpad lies in the memory list. -/
def loomPad (loom off : Nat) : Nat := 2 ^ 43 + loom * 2 ^ 20 + off
/-- Where a bolt scratchpad lies in the memory list. -/
def boltPad (bolt off : Nat) : Nat := 2 ^ 44 + bolt * 2 ^ 23 + off

/-- Replaces element n of a list, if it has one. -/
def modNth {α : Type} (l : List α) (n : Nat) (f : α → α) : List α :=
  match l, n with
  | [], _ => []
  | x :: r, 0 => f x :: r
  | x :: r, n + 1 => x :: modNth r n f

end Sys2Proof.Machine
end

