-- ==== Sys2Proof/Machine/Crc.lean ====
section
/-!
DEFINITION. CRC-32C as R201 gives it: polynomial 0x1EDC_6F41, reflected, initial value and final XOR all ones.
-/

namespace Sys2Proof.Machine

/-- One bit of the register. -/
def crcBit (c : Nat) : Nat := if c % 2 = 1 then (c / 2) ^^^ 0x82F63B78 else c / 2

/-- One byte. -/
def crcByte (c b : Nat) : Nat :=
  crcBit (crcBit (crcBit (crcBit (crcBit (crcBit (crcBit (crcBit (c ^^^ b))))))))

/-- The register after bytes. -/
def crcRun (c : Nat) : List Byte → Nat
  | [] => c
  | b :: r => crcRun (crcByte c b.toNat) r

/-- CRC-32C of bytes (R201). -/
def crc32c (bs : List Byte) : Nat := crcRun 0xFFFFFFFF bs ^^^ 0xFFFFFFFF

end Sys2Proof.Machine
end

