-- ==== Sys2Proof/Syntax.lean ====
section
/-!
DEFINITION. The syntax: one constructor of `Instr` per row of spec/opcode_table.json. The first 222 rows are
instructions with encodings (06, 07, 08, 09, 10, 11, 13); the other 106 are the device's own events and the messages
and signals that reach it, whose arguments carry what the message or signal carries.
-/

namespace Sys2Proof

/-- One constructor per row of spec/opcode_table.json. -/
inductive Instr where
  /-- ADD (R143): Writes rd := a[rs1] + a[rs2] modulo 2^64. -/
  | add (t : Tok) (rd : BitVec 6) (rs1 : BitVec 6) (rs2 : BitVec 6)
  /-- SUB (R143): Writes rd := a[rs1] - a[rs2] modulo 2^64. -/
  | sub (t : Tok) (rd : BitVec 6) (rs1 : BitVec 6) (rs2 : BitVec 6)
  /-- AND (R143): Writes the bitwise AND of two a-registers. -/
  | and (t : Tok) (rd : BitVec 6) (rs1 : BitVec 6) (rs2 : BitVec 6)
  /-- OR (R143): Writes the bitwise OR of two a-registers. -/
  | or (t : Tok) (rd : BitVec 6) (rs1 : BitVec 6) (rs2 : BitVec 6)
  /-- XOR (R143): Writes the bitwise XOR of two a-registers. -/
  | xor (t : Tok) (rd : BitVec 6) (rs1 : BitVec 6) (rs2 : BitVec 6)
  /-- ANDN (R143): Writes x AND NOT y. -/
  | andn (t : Tok) (rd : BitVec 6) (rs1 : BitVec 6) (rs2 : BitVec 6)
  /-- SHL (R143): Shifts left by y[5:0]. -/
  | shl (t : Tok) (rd : BitVec 6) (rs1 : BitVec 6) (rs2 : BitVec 6)
  /-- SHR (R143): Shifts right logically by y[5:0]. -/
  | shr (t : Tok) (rd : BitVec 6) (rs1 : BitVec 6) (rs2 : BitVec 6)
  /-- SAR (R143): Shifts right arithmetically by y[5:0]. -/
  | sar (t : Tok) (rd : BitVec 6) (rs1 : BitVec 6) (rs2 : BitVec 6)
  /-- MUL (R143): Writes the low 64 bits of the product, latency 3. -/
  | mul (t : Tok) (rd : BitVec 6) (rs1 : BitVec 6) (rs2 : BitVec 6)
  /-- MULH (R143): Writes the high 64 bits of the signed product. -/
  | mulh (t : Tok) (rd : BitVec 6) (rs1 : BitVec 6) (rs2 : BitVec 6)
  /-- MULHU (R143): Writes the high 64 bits of the unsigned product. -/
  | mulhu (t : Tok) (rd : BitVec 6) (rs1 : BitVec 6) (rs2 : BitVec 6)
  /-- MIN (R143): Writes the signed lesser value. -/
  | min (t : Tok) (rd : BitVec 6) (rs1 : BitVec 6) (rs2 : BitVec 6)
  /-- MAX (R143): Writes the signed greater value. -/
  | max (t : Tok) (rd : BitVec 6) (rs1 : BitVec 6) (rs2 : BitVec 6)
  /-- MINU (R143): Writes the unsigned lesser value. -/
  | minu (t : Tok) (rd : BitVec 6) (rs1 : BitVec 6) (rs2 : BitVec 6)
  /-- MAXU (R143): Writes the unsigned greater value. -/
  | maxu (t : Tok) (rd : BitVec 6) (rs1 : BitVec 6) (rs2 : BitVec 6)
  /-- SLT (R143): Writes 1 if x < y signed, else 0. -/
  | slt (t : Tok) (rd : BitVec 6) (rs1 : BitVec 6) (rs2 : BitVec 6)
  /-- SLTU (R143): Writes 1 if x < y unsigned, else 0. -/
  | sltu (t : Tok) (rd : BitVec 6) (rs1 : BitVec 6) (rs2 : BitVec 6)
  /-- SEQ (R143): Writes 1 if x = y, else 0. -/
  | seq (t : Tok) (rd : BitVec 6) (rs1 : BitVec 6) (rs2 : BitVec 6)
  /-- SNE (R143): Writes 1 if x differs from y, else 0. -/
  | sne (t : Tok) (rd : BitVec 6) (rs1 : BitVec 6) (rs2 : BitVec 6)
  /-- CLZ (R143): Counts leading zero bits of x. -/
  | clz (t : Tok) (rd : BitVec 6) (rs1 : BitVec 6)
  /-- CTZ (R143): Counts trailing zero bits of x. -/
  | ctz (t : Tok) (rd : BitVec 6) (rs1 : BitVec 6)
  /-- POPC (R143): Counts one bits of x. -/
  | popc (t : Tok) (rd : BitVec 6) (rs1 : BitVec 6)
  /-- ADDI (R144): Adds a sign-extended 12-bit immediate. -/
  | addi (t : Tok) (rd : BitVec 6) (rs1 : BitVec 6) (imm : BitVec 12)
  /-- ANDI (R144): ANDs with a sign-extended immediate. -/
  | andi (t : Tok) (rd : BitVec 6) (rs1 : BitVec 6) (imm : BitVec 12)
  /-- ORI (R144): ORs with a sign-extended immediate. -/
  | ori (t : Tok) (rd : BitVec 6) (rs1 : BitVec 6) (imm : BitVec 12)
  /-- XORI (R144): XORs with a sign-extended immediate. -/
  | xori (t : Tok) (rd : BitVec 6) (rs1 : BitVec 6) (imm : BitVec 12)
  /-- SHLI (R144): Shifts left by an unsigned immediate 0 to 63. -/
  | shli (t : Tok) (rd : BitVec 6) (rs1 : BitVec 6) (sh : BitVec 6)
  /-- SHRI (R144): Shifts right logically by an immediate. -/
  | shri (t : Tok) (rd : BitVec 6) (rs1 : BitVec 6) (sh : BitVec 6)
  /-- SARI (R144): Shifts right arithmetically by an immediate. -/
  | sari (t : Tok) (rd : BitVec 6) (rs1 : BitVec 6) (sh : BitVec 6)
  /-- SLTI (R144): Sets rd to 1 if x is below the immediate, signed. -/
  | slti (t : Tok) (rd : BitVec 6) (rs1 : BitVec 6) (imm : BitVec 12)
  /-- LUI (R145): Writes sext(imm18) shifted left by 12. -/
  | lui (t : Tok) (rd : BitVec 6) (imm : BitVec 18)
  /-- LIW (R146): Writes a 64-bit constant from two extension words. -/
  | liw (t : Tok) (rd : BitVec 6) (value : BitVec 64)
  /-- BFX (R147): Extracts a zero-extended bitfield. -/
  | bfx (t : Tok) (rd : BitVec 6) (rs1 : BitVec 6) (pos : BitVec 6) (len1 : BitVec 6)
  /-- BFI (R147): Inserts a bitfield into rd. -/
  | bfi (t : Tok) (rd : BitVec 6) (rs1 : BitVec 6) (pos : BitVec 6) (len1 : BitVec 6)
  /-- SEL (R148): Selects x or y on a condition register. -/
  | sel (t : Tok) (rd : BitVec 6) (rs1 : BitVec 6) (rs2 : BitVec 6) (ac : BitVec 6)
  /-- AGEN (R149): Adds a shifted offset within the 48-bit address field. -/
  | agen (t : Tok) (rd : BitVec 6) (rs1 : BitVec 6) (rs2 : BitVec 6) (k : BitVec 6)
  /-- ASTEP (R150): Adds loop-counter-scaled row and column steps to an address. -/
  | astep (t : Tok) (rd : BitVec 6) (rs1 : BitVec 6) (rs2 : BitVec 6) (i : BitVec 2) (j : BitVec 2)
  /-- BR (R151): Unconditional branch, paired with BRX ALWAYS. -/
  | br (t : Tok) (off : BitVec 24)
  /-- BEQ (R151): Branches if x = y, paired with BRQ. -/
  | beq (t : Tok) (rs1 : BitVec 6) (rs2 : BitVec 6) (off : BitVec 12)
  /-- BNE (R151): Branches if x differs from y. -/
  | bne (t : Tok) (rs1 : BitVec 6) (rs2 : BitVec 6) (off : BitVec 12)
  /-- BLT (R151): Branches if x < y signed. -/
  | blt (t : Tok) (rs1 : BitVec 6) (rs2 : BitVec 6) (off : BitVec 12)
  /-- BGE (R151): Branches if x >= y signed. -/
  | bge (t : Tok) (rs1 : BitVec 6) (rs2 : BitVec 6) (off : BitVec 12)
  /-- BLTU (R151): Branches if x < y unsigned. -/
  | bltu (t : Tok) (rs1 : BitVec 6) (rs2 : BitVec 6) (off : BitVec 12)
  /-- BGEU (R151): Branches if x >= y unsigned. -/
  | bgeu (t : Tok) (rs1 : BitVec 6) (rs2 : BitVec 6) (off : BitVec 12)
  /-- CALL (R151): Branches, writes the return line to a63 and pushes a redirect entry to bq. -/
  | call (t : Tok) (off : BitVec 24)
  /-- JR (R151): Jumps to a register plus line offset and pushes a redirect entry. -/
  | jr (t : Tok) (rs1 : BitVec 6) (imm : BitVec 12)
  /-- BQP (R153): Pushes an outcome entry (x != 0) to bq. -/
  | bqp (t : Tok) (rs1 : BitVec 6)
  /-- LDA (R157): Loads an 8-byte word into an a-register. -/
  | lda (t : Tok) (reg : BitVec 6) (base : BitVec 6) (st : BitVec 4) (off : BitVec 8)
  /-- STA (R157): Stores an a-register to an 8-byte word. -/
  | sta (t : Tok) (reg : BitVec 6) (base : BitVec 6) (st : BitVec 4) (off : BitVec 8)
  /-- LDQ (R160): Loads up to 2,048 bytes into a load-queue entry. -/
  | ldq (t : Tok) (q : BitVec 6) (base : BitVec 6) (st : BitVec 4) (off : BitVec 8)
  /-- LDQ_2D (R161): Loads a 2-D block of rows into one load-queue entry. -/
  | ldq2d (t : Tok) (q : BitVec 6) (base : BitVec 6) (st : BitVec 4) (off : BitVec 8) (rows : BitVec 6) (rowBytes : BitVec 11)
  /-- STQ (R160): Pops a store-queue entry and writes it to memory. -/
  | stq (t : Tok) (q : BitVec 6) (base : BitVec 6) (st : BitVec 4) (off : BitVec 8)
  /-- STQ_2D (R161): Writes a store-queue entry as a 2-D block of rows. -/
  | stq2d (t : Tok) (q : BitVec 6) (base : BitVec 6) (st : BitVec 4) (off : BitVec 8) (rows : BitVec 6) (rowBytes : BitVec 11)
  /-- GATHQ (R162): Gathers indexed elements into a load-queue entry. -/
  | gathq (t : Tok) (q : BitVec 6) (base : BitVec 6) (st : BitVec 4) (off : BitVec 8) (esz : BitVec 2) (isq : BitVec 1) (shift : BitVec 5)
  /-- SCATQ (R162): Scatters a store-queue entry to indexed addresses. -/
  | scatq (t : Tok) (q : BitVec 6) (base : BitVec 6) (st : BitVec 4) (off : BitVec 8) (esz : BitVec 2) (isq : BitVec 1) (shift : BitVec 5)
  /-- PREF (R163): Prefetch hint for one memory line; never faults. -/
  | pref (t : Tok) (hint : BitVec 6) (base : BitVec 6) (st : BitVec 4) (off : BitVec 8)
  /-- AMO_ADD (R165): Atomic add returning the old value. -/
  | amoAdd (t : Tok) (ra : BitVec 6) (rb : BitVec 6) (st : BitVec 4) (ao : BitVec 6)
  /-- AMO_ADD_N (R165): Atomic add with no return. -/
  | amoAddN (t : Tok) (rb : BitVec 6) (st : BitVec 4) (ao : BitVec 6)
  /-- AMO_AND (R165): Atomic AND returning the old value. -/
  | amoAnd (t : Tok) (ra : BitVec 6) (rb : BitVec 6) (st : BitVec 4) (ao : BitVec 6)
  /-- AMO_AND_N (R165): Atomic AND with no return. -/
  | amoAndN (t : Tok) (rb : BitVec 6) (st : BitVec 4) (ao : BitVec 6)
  /-- AMO_OR (R165): Atomic OR returning the old value. -/
  | amoOr (t : Tok) (ra : BitVec 6) (rb : BitVec 6) (st : BitVec 4) (ao : BitVec 6)
  /-- AMO_OR_N (R165): Atomic OR with no return. -/
  | amoOrN (t : Tok) (rb : BitVec 6) (st : BitVec 4) (ao : BitVec 6)
  /-- AMO_XOR (R165): Atomic XOR returning the old value. -/
  | amoXor (t : Tok) (ra : BitVec 6) (rb : BitVec 6) (st : BitVec 4) (ao : BitVec 6)
  /-- AMO_XOR_N (R165): Atomic XOR with no return. -/
  | amoXorN (t : Tok) (rb : BitVec 6) (st : BitVec 4) (ao : BitVec 6)
  /-- AMO_MIN (R165): Atomic signed minimum returning the old value. -/
  | amoMin (t : Tok) (ra : BitVec 6) (rb : BitVec 6) (st : BitVec 4) (ao : BitVec 6)
  /-- AMO_MIN_N (R165): Atomic signed minimum with no return. -/
  | amoMinN (t : Tok) (rb : BitVec 6) (st : BitVec 4) (ao : BitVec 6)
  /-- AMO_MAX (R165): Atomic signed maximum returning the old value. -/
  | amoMax (t : Tok) (ra : BitVec 6) (rb : BitVec 6) (st : BitVec 4) (ao : BitVec 6)
  /-- AMO_MAX_N (R165): Atomic signed maximum with no return. -/
  | amoMaxN (t : Tok) (rb : BitVec 6) (st : BitVec 4) (ao : BitVec 6)
  /-- AMO_MINU (R165): Atomic unsigned minimum returning the old value. -/
  | amoMinu (t : Tok) (ra : BitVec 6) (rb : BitVec 6) (st : BitVec 4) (ao : BitVec 6)
  /-- AMO_MINU_N (R165): Atomic unsigned minimum with no return. -/
  | amoMinuN (t : Tok) (rb : BitVec 6) (st : BitVec 4) (ao : BitVec 6)
  /-- AMO_MAXU (R165): Atomic unsigned maximum returning the old value. -/
  | amoMaxu (t : Tok) (ra : BitVec 6) (rb : BitVec 6) (st : BitVec 4) (ao : BitVec 6)
  /-- AMO_MAXU_N (R165): Atomic unsigned maximum with no return. -/
  | amoMaxuN (t : Tok) (rb : BitVec 6) (st : BitVec 4) (ao : BitVec 6)
  /-- AMO_SWAP (R165): Atomic swap returning the old value. -/
  | amoSwap (t : Tok) (ra : BitVec 6) (rb : BitVec 6) (st : BitVec 4) (ao : BitVec 6)
  /-- AMO_SWAP_N (R165): Atomic swap with no return. -/
  | amoSwapN (t : Tok) (rb : BitVec 6) (st : BitVec 4) (ao : BitVec 6)
  /-- CAS (R165): Compare-and-swap returning the old value. -/
  | cas (t : Tok) (ra : BitVec 6) (rb : BitVec 6) (st : BitVec 4) (ac : BitVec 6) (an : BitVec 6)
  /-- FAA_C (R111): Combinable fetch-and-add returning its serial-order value. -/
  | faaC (t : Tok) (ra : BitVec 6) (rb : BitVec 6) (st : BitVec 4) (ao : BitVec 6)
  /-- FENCE_S (R174): Orders the accesses of one stream. -/
  | fenceS (t : Tok) (st : BitVec 4)
  /-- FENCE_X (R174): Orders the accesses of the streams in a mask. -/
  | fenceX (t : Tok) (mask : BitVec 16)
  /-- FENCE_D (R174): Orders every stream and invalidates the loom's L1. -/
  | fenceD (t : Tok)
  /-- ACQ (R175): Acquires the latest observed update of an object. -/
  | acq (t : Tok) (rb : BitVec 6) (st : BitVec 4) (scope : BitVec 5)
  /-- REL (R176): Marks a release pending on an object. -/
  | rel (t : Tok) (rb : BitVec 6) (st : BitVec 4) (scope : BitVec 5)
  /-- REL_ST (R177): Stores a flag word carrying a release after its waits. -/
  | relSt (t : Tok) (ra : BitVec 6) (rb : BitVec 6) (st : BitVec 4) (scope : BitVec 5)
  /-- BIND (R178): Binds a region to a synchronisation object in the binding table. -/
  | bind (t : Tok) (ra : BitVec 6) (rb : BitVec 6) (st : BitVec 4) (kind : BitVec 5) (ao : BitVec 6)
  /-- UNBIND (R178): Removes the binding entry whose base matches. -/
  | unbind (t : Tok) (ra : BitVec 6) (st : BitVec 4)
  /-- WAIT_C (R171): Holds the A-engine until the outstanding counters meet limits. -/
  | waitC (t : Tok) (nl : BitVec 6) (ns : BitVec 6) (nc : BitVec 6) (nt : BitVec 6)
  /-- BAR_INIT (R181): Initialises a barrier in one update. -/
  | barInit (t : Tok) (ra : BitVec 6) (rb : BitVec 6) (st : BitVec 4) (ab : BitVec 6)
  /-- BAR_EXPECT (R181): Announces more expected bytes, then applies the flip procedure. -/
  | barExpect (t : Tok) (ra : BitVec 6) (rb : BitVec 6) (st : BitVec 4)
  /-- BAR_ARRIVE (R181): Adds an arrival after release waits and returns its phase. -/
  | barArrive (t : Tok) (ra : BitVec 6) (rb : BitVec 6) (st : BitVec 4) (scope : BitVec 2)
  /-- BAR_WAIT (R181): Holds until a phase has flipped, then acquires it. -/
  | barWait (t : Tok) (ra : BitVec 6) (rb : BitVec 6) (st : BitVec 4) (scope : BitVec 2)
  /-- BAR_TEST (R181): Returns ARRIVED and PHASE of a barrier. -/
  | barTest (t : Tok) (ra : BitVec 6) (rb : BitVec 6) (st : BitVec 4)
  /-- BAR_FLAGS (R181): Returns PHASE, TIMEDOUT, OVERCOUNT and LFLAGS. -/
  | barFlags (t : Tok) (ra : BitVec 6) (rb : BitVec 6) (st : BitVec 4)
  /-- BOB_ARM (R184): Checks an arm descriptor, arms a bobbin and returns its handle. -/
  | bobArm (t : Tok) (ra : BitVec 6) (rb : BitVec 6) (st : BitVec 4)
  /-- BOB_DISARM (R187): Frees a bobbin and returns its final count. -/
  | bobDisarm (t : Tok) (ra : BitVec 6) (rb : BitVec 6) (st : BitVec 4)
  /-- BOB_READ (R186): Returns the bobbin state word. -/
  | bobRead (t : Tok) (ra : BitVec 6) (rb : BitVec 6) (st : BitVec 4)
  /-- BOBBIN_ACTION_POST (R183): Posts a barrier arrival, tile-task records or a Treadle arrival, possibly after being held. -/
  | bobbinActionPost (bobbin : Nat)
  /-- SUSP_MK (R189): Writes a suspension over a tagged region and returns its SID. -/
  | suspMk (t : Tok) (ra : BitVec 6) (rb : BitVec 6) (st : BitVec 4) (ah : BitVec 6)
  /-- SUSP_FILL (R192): Fills an evaluating region line by line as a .D release. -/
  | suspFill (t : Tok) (ra : BitVec 6) (rb : BitVec 6) (st : BitVec 4) (aL : BitVec 6) (ab : BitVec 6)
  /-- SUSP_PEEK (R193): Returns a line's cell state and SID without triggering. -/
  | suspPeek (t : Tok) (ra : BitVec 6) (rb : BitVec 6) (st : BitVec 4)
  /-- CPY (R198): Copy command of LEN bytes. -/
  | cpy (t : Tok) (ra : BitVec 6) (rb : BitVec 6) (st : BitVec 4) (aL : BitVec 6) (ab : BitVec 6) (p1 : BitVec 8) (p2 : BitVec 8)
  /-- CPY_2D (R198): Copies rows with destination and source pitches. -/
  | cpy2d (t : Tok) (ra : BitVec 6) (rb : BitVec 6) (st : BitVec 4) (aL : BitVec 6) (ab : BitVec 6) (p1 : BitVec 8) (p2 : BitVec 8) (ap : BitVec 6)
  /-- CPY_RED (R198): Reduces source elements into accumulator or peer elements. -/
  | cpyRed (t : Tok) (ra : BitVec 6) (rb : BitVec 6) (st : BitVec 4) (aL : BitVec 6) (ab : BitVec 6) (p1 : BitVec 8) (p2 : BitVec 8) (ty : BitVec 2)
  /-- CPY_MC (R198): Copies to all eight loom scratchpads of the bolt. -/
  | cpyMc (t : Tok) (ra : BitVec 6) (rb : BitVec 6) (st : BitVec 4) (aL : BitVec 6) (ab : BitVec 6) (p1 : BitVec 8) (p2 : BitVec 8)
  /-- CPY_DEC (R198): Decodes an encoded stream through the inline decoder into the bolt scratchpad. -/
  | cpyDec (t : Tok) (ra : BitVec 6) (rb : BitVec 6) (st : BitVec 4) (aL : BitVec 6) (ab : BitVec 6) (p1 : BitVec 8) (p2 : BitVec 8) (slot : BitVec 2)
  /-- CTBL (R199): Loads and checks a code table into a decoder slot. -/
  | ctbl (t : Tok) (rb : BitVec 6) (st : BitVec 4) (slot : BitVec 2)
  /-- CPY_CSUM (R201): Computes the chunked CRC-32C record of a source. -/
  | cpyCsum (t : Tok) (ra : BitVec 6) (rb : BitVec 6) (st : BitVec 4) (aL : BitVec 6) (ab : BitVec 6) (p1 : BitVec 8) (p2 : BitVec 8)
  /-- COPY_START (R195): Copy engine starts the next command of a copy queue once its predecessors are complete. -/
  | copyStart (loom : Nat) (ev : Bool) (storeQ : Bool)
  /-- COPY_CHUNK_WRITE (R197): A 128-B chunk of a copy is performed and counted into its barrier and bobbins. -/
  | copyChunkWrite (loom : Nat) (ev : Bool) (cmd : Nat)
  /-- DECODER_BLOCK (R320): Inline decoder decodes a block, checks its DCRC and writes it to the banks. -/
  | decoderBlock (step : DecoderStep)
  /-- STASH_PUT (R203): Registers a tensor under a key with a KEEP, COMPRESS, SPILL or DROP policy. -/
  | stashPut (t : Tok) (ra : BitVec 6) (rb : BitVec 6) (st : BitVec 4) (aL : BitVec 6) (ab : BitVec 6) (policy : BitVec 2) (tier : BitVec 1) (place : BitVec 2) (aa : BitVec 6)
  /-- STASH_DROP (R203): Applies the DROP action to a KEEP entry. -/
  | stashDrop (t : Tok) (rb : BitVec 6) (st : BitVec 4)
  /-- STASH_FETCH (R203): Returns a stashed tensor to a region, triggering recomputation if dropped. -/
  | stashFetch (t : Tok) (ra : BitVec 6) (rb : BitVec 6) (st : BitVec 4) (ab : BitVec 6)
  /-- STASH_FREE (R203): Removes a stash entry and frees its space. -/
  | stashFree (t : Tok) (rb : BitVec 6) (st : BitVec 4)
  /-- CH_SEND (R205): Sends up to SLOTSIZE bytes on a tensor channel after taking window. -/
  | chSend (t : Tok) (ra : BitVec 6) (rb : BitVec 6) (st : BitVec 4) (aL : BitVec 6) (ab : BitVec 6) (p1 : BitVec 8) (p2 : BitVec 8)
  /-- CH_FREE (R205): Frees filled slots and returns window to the sender. -/
  | chFree (t : Tok) (ra : BitVec 6) (rb : BitVec 6) (st : BitVec 4)
  /-- CH_WIN (R205): Returns the current window of a send channel. -/
  | chWin (t : Tok) (ra : BitVec 6) (rb : BitVec 6) (st : BitVec 4)
  /-- TASK_PUT (R248): Builds a tile-task record and hands it to the bolt task scheduler. -/
  | taskPut (t : Tok) (ra : BitVec 6) (rb : BitVec 6) (st : BitVec 4) (ac : BitVec 6) (ab : BitVec 6) (km1 : BitVec 6) (opc : BitVec 4)
  /-- TASK_PUTP (R248): As TASK.PUT with predecessor back-distances. -/
  | taskPutp (t : Tok) (ra : BitVec 6) (rb : BitVec 6) (st : BitVec 4) (ac : BitVec 6) (ab : BitVec 6) (km1 : BitVec 6) (opc : BitVec 4) (p1 : BitVec 8) (p2 : BitVec 8)
  /-- TASK_CANCEL (R255): Cancels unstarted records naming a barrier and returns their count. -/
  | taskCancel (t : Tok) (ra : BitVec 6) (rb : BitVec 6) (st : BitVec 4)
  /-- SCHEDULER_START (R251): Bolt task scheduler starts the oldest ready record on the lowest free matrix engine. -/
  | schedulerStart (bolt : Nat)
  /-- PARTIAL_DONE (R237): Matrix engine finishes the partial and sends it as a contribution to the home slice. -/
  | partialDone (bolt : Nat) (engine : Nat)
  /-- CONTRIBUTION_MERGE (R243): Home slice merges a contribution in its turn, advancing MERGED toward COMPLETE. -/
  | contributionMerge (tile : Nat) (pos : Nat)
  /-- TASK_RETIRE (R249): Task retires, counts its bytes into its barrier and decrements TKC. -/
  | taskRetire (bolt : Nat) (task : Nat)
  /-- ACC_INIT (R256): Opens an accumulator tile, zeroes it and sets EXPECT and the slot table. -/
  | accInit (t : Tok) (ra : BitVec 6) (rb : BitVec 6) (st : BitVec 4) (as : BitVec 6)
  /-- ACC_DRAIN (R257): Converts a COMPLETE tile and writes it out row by row. -/
  | accDrain (t : Tok) (ra : BitVec 6) (rb : BitVec 6) (st : BitVec 4) (aP : BitVec 6) (ab : BitVec 6)
  /-- TILE_DRAIN (R257): Home slice drains a waiting tile once it reaches COMPLETE. -/
  | tileDrain (loom : Nat) (ev : Bool) (op : Nat)
  /-- TRD_ARRIVE (R275): Posts an arrival to a stage after a .D release. -/
  | trdArrive (t : Tok) (ra : BitVec 6) (st : BitVec 4)
  /-- TRD_VPIN (R276): Publishes a version or pins a tag. -/
  | trdVpin (t : Tok) (ra : BitVec 6) (rb : BitVec 6) (st : BitVec 4) (publish : BitVec 1) (named : BitVec 1) (panel : BitVec 3) (stage : BitVec 8)
  /-- TRD_VUNPIN (R277): Drops the pin of a tag. -/
  | trdVunpin (t : Tok) (rb : BitVec 6) (st : BitVec 4)
  /-- TRD_INFO (R278): Returns a stage status word. -/
  | trdInfo (t : Tok) (ra : BitVec 6) (rb : BitVec 6) (st : BitVec 4)
  /-- TRD_DIFF (R279): Hands a difference image to the partition's Treadles. -/
  | trdDiff (t : Tok) (rb : BitVec 6) (st : BitVec 4) (ab : BitVec 6)
  /-- TRD_CANCEL (R280): Cancels a completion counter at the given level. -/
  | trdCancel (t : Tok) (ra : BitVec 6) (rb : BitVec 6) (st : BitVec 4)
  /-- CSRR (R303): Reads a control register into an a-register. -/
  | csrr (t : Tok) (rd : BitVec 6) (csr : BitVec 8)
  /-- CSRW (R303): Writes an a-register to a control register. -/
  | csrw (t : Tok) (rs1 : BitVec 6) (csr : BitVec 8)
  /-- TRAP (R305): Raises a software fault with the given code. -/
  | trap (t : Tok) (code : BitVec 8)
  /-- RETT (R306): At a rendezvous, checks and reloads the fault frame and resumes. -/
  | rett (t : Tok) (rs1 : BitVec 6)
  /-- YIELD (R307): Holds the A-engine for n x 16 cycles. -/
  | yield (t : Tok) (n : BitVec 8)
  /-- YIELD_EXPIRY (R307): The YIELD wait ends after n x 16 cycles. -/
  | yieldExpiry (loom : Nat) (ev : Bool)
  /-- CTX_SAVE (R308): At a rendezvous, saves the whole context into an area. -/
  | ctxSave (t : Tok) (rd : BitVec 6) (rs1 : BitVec 6)
  /-- CTX_LOAD (R309): At a rendezvous, checks and loads a saved context. -/
  | ctxLoad (t : Tok) (rs1 : BitVec 6)
  /-- LINK_PARK (R289): Narrows a port's awake data wavelengths. -/
  | linkPark (t : Tok) (rd : BitVec 6) (width : BitVec 2) (port : BitVec 4)
  /-- LINK_WAKE (R289): Starts waking data wavelengths of a port. -/
  | linkWake (t : Tok) (rd : BitVec 6) (width : BitVec 2) (port : BitVec 4)
  /-- SADD (R210): Scalar 32-bit add. -/
  | sadd (t : Tok) (rd : BitVec 6) (rs1 : BitVec 6) (rs2 : BitVec 6)
  /-- SSUB (R210): Scalar 32-bit subtract. -/
  | ssub (t : Tok) (rd : BitVec 6) (rs1 : BitVec 6) (rs2 : BitVec 6)
  /-- SMUL (R210): Scalar 32-bit multiply. -/
  | smul (t : Tok) (rd : BitVec 6) (rs1 : BitVec 6) (rs2 : BitVec 6)
  /-- SMIN (R210): Scalar signed minimum. -/
  | smin (t : Tok) (rd : BitVec 6) (rs1 : BitVec 6) (rs2 : BitVec 6)
  /-- SMAX (R210): Scalar signed maximum. -/
  | smax (t : Tok) (rd : BitVec 6) (rs1 : BitVec 6) (rs2 : BitVec 6)
  /-- SAND (R210): Scalar bitwise AND. -/
  | sand (t : Tok) (rd : BitVec 6) (rs1 : BitVec 6) (rs2 : BitVec 6)
  /-- SOR (R210): Scalar bitwise OR. -/
  | sor (t : Tok) (rd : BitVec 6) (rs1 : BitVec 6) (rs2 : BitVec 6)
  /-- SXOR (R210): Scalar bitwise XOR. -/
  | sxor (t : Tok) (rd : BitVec 6) (rs1 : BitVec 6) (rs2 : BitVec 6)
  /-- SSHL (R210): Scalar shift left. -/
  | sshl (t : Tok) (rd : BitVec 6) (rs1 : BitVec 6) (rs2 : BitVec 6)
  /-- SSHR (R210): Scalar logical shift right. -/
  | sshr (t : Tok) (rd : BitVec 6) (rs1 : BitVec 6) (rs2 : BitVec 6)
  /-- FADD (R210): FP32 add, RNE. -/
  | fadd (t : Tok) (rd : BitVec 6) (rs1 : BitVec 6) (rs2 : BitVec 6)
  /-- FSUB (R210): FP32 subtract, RNE. -/
  | fsub (t : Tok) (rd : BitVec 6) (rs1 : BitVec 6) (rs2 : BitVec 6)
  /-- FMUL (R210): FP32 multiply, RNE. -/
  | fmul (t : Tok) (rd : BitVec 6) (rs1 : BitVec 6) (rs2 : BitVec 6)
  /-- FMIN (R210): FP32 minimum. -/
  | fmin (t : Tok) (rd : BitVec 6) (rs1 : BitVec 6) (rs2 : BitVec 6)
  /-- FMAX (R210): FP32 maximum. -/
  | fmax (t : Tok) (rd : BitVec 6) (rs1 : BitVec 6) (rs2 : BitVec 6)
  /-- FCMP (R210): FP32 compare giving a result code. -/
  | fcmp (t : Tok) (rd : BitVec 6) (rs1 : BitVec 6) (rs2 : BitVec 6)
  /-- SFMA (R211): FP32 fused multiply-add, rounded once. -/
  | sfma (t : Tok) (rd : BitVec 6) (rs1 : BitVec 6) (rs2 : BitVec 6) (rs3 : BitVec 6)
  /-- SCVT (R212): Scalar conversion selected by its code. -/
  | scvt (t : Tok) (rd : BitVec 6) (rs1 : BitVec 6) (code : BitVec 6)
  /-- SLI (R213): Loads a sign-extended 18-bit immediate into an s-register. -/
  | sli (t : Tok) (rd : BitVec 6) (imm : BitVec 18)
  /-- SMOVQ (R214): Moves between s-registers and queues. -/
  | smovq (t : Tok) (rd : BitVec 6) (rs1 : BitVec 6) (idx : BitVec 6)
  /-- VADD (R216): Element-wise add. -/
  | vadd (t : Tok) (h : VHdr) (vd : BitVec 6) (va : BitVec 6) (vb : BitVec 6) (sat : BitVec 1)
  /-- VSUB (R216): Element-wise subtract. -/
  | vsub (t : Tok) (h : VHdr) (vd : BitVec 6) (va : BitVec 6) (vb : BitVec 6) (sat : BitVec 1)
  /-- VMUL (R216): Element-wise multiply. -/
  | vmul (t : Tok) (h : VHdr) (vd : BitVec 6) (va : BitVec 6) (vb : BitVec 6) (sat : BitVec 1)
  /-- VMIN (R216): Element-wise minimum. -/
  | vmin (t : Tok) (h : VHdr) (vd : BitVec 6) (va : BitVec 6) (vb : BitVec 6)
  /-- VMAX (R216): Element-wise maximum. -/
  | vmax (t : Tok) (h : VHdr) (vd : BitVec 6) (va : BitVec 6) (vb : BitVec 6)
  /-- VABS (R216): Element-wise absolute value. -/
  | vabs (t : Tok) (h : VHdr) (vd : BitVec 6) (va : BitVec 6) (sat : BitVec 1)
  /-- VNEG (R216): Element-wise negation. -/
  | vneg (t : Tok) (h : VHdr) (vd : BitVec 6) (va : BitVec 6) (sat : BitVec 1)
  /-- VAND (R216): Element-wise bitwise AND. -/
  | vand (t : Tok) (h : VHdr) (vd : BitVec 6) (va : BitVec 6) (vb : BitVec 6)
  /-- VOR (R216): Element-wise bitwise OR. -/
  | vor (t : Tok) (h : VHdr) (vd : BitVec 6) (va : BitVec 6) (vb : BitVec 6)
  /-- VXOR (R216): Element-wise bitwise XOR. -/
  | vxor (t : Tok) (h : VHdr) (vd : BitVec 6) (va : BitVec 6) (vb : BitVec 6)
  /-- VSHL (R216): Element-wise shift left. -/
  | vshl (t : Tok) (h : VHdr) (vd : BitVec 6) (va : BitVec 6) (vb : BitVec 6)
  /-- VSHR (R216): Element-wise logical shift right. -/
  | vshr (t : Tok) (h : VHdr) (vd : BitVec 6) (va : BitVec 6) (vb : BitVec 6)
  /-- VSAR (R216): Element-wise arithmetic shift right. -/
  | vsar (t : Tok) (h : VHdr) (vd : BitVec 6) (va : BitVec 6) (vb : BitVec 6)
  /-- VMOV (R216): Element-wise bit-exact move. -/
  | vmov (t : Tok) (h : VHdr) (vd : BitVec 6) (va : BitVec 6)
  /-- VADD_VS (R216): Adds a scalar to every element. -/
  | vaddVs (t : Tok) (h : VHdr) (vd : BitVec 6) (va : BitVec 6) (sb : BitVec 6) (sat : BitVec 1)
  /-- VSUB_VS (R216): Subtracts a scalar from every element. -/
  | vsubVs (t : Tok) (h : VHdr) (vd : BitVec 6) (va : BitVec 6) (sb : BitVec 6) (sat : BitVec 1)
  /-- VMUL_VS (R216): Multiplies every element by a scalar. -/
  | vmulVs (t : Tok) (h : VHdr) (vd : BitVec 6) (va : BitVec 6) (sb : BitVec 6) (sat : BitVec 1)
  /-- VMIN_VS (R216): Minimum of each element and a scalar. -/
  | vminVs (t : Tok) (h : VHdr) (vd : BitVec 6) (va : BitVec 6) (sb : BitVec 6)
  /-- VMAX_VS (R216): Maximum of each element and a scalar. -/
  | vmaxVs (t : Tok) (h : VHdr) (vd : BitVec 6) (va : BitVec 6) (sb : BitVec 6)
  /-- VAND_VS (R216): Bitwise AND with a scalar. -/
  | vandVs (t : Tok) (h : VHdr) (vd : BitVec 6) (va : BitVec 6) (sb : BitVec 6)
  /-- VOR_VS (R216): Bitwise OR with a scalar. -/
  | vorVs (t : Tok) (h : VHdr) (vd : BitVec 6) (va : BitVec 6) (sb : BitVec 6)
  /-- VXOR_VS (R216): Bitwise XOR with a scalar. -/
  | vxorVs (t : Tok) (h : VHdr) (vd : BitVec 6) (va : BitVec 6) (sb : BitVec 6)
  /-- VSHL_VS (R216): Shifts every element left by a scalar. -/
  | vshlVs (t : Tok) (h : VHdr) (vd : BitVec 6) (va : BitVec 6) (sb : BitVec 6)
  /-- VSHR_VS (R216): Shifts every element right logically by a scalar. -/
  | vshrVs (t : Tok) (h : VHdr) (vd : BitVec 6) (va : BitVec 6) (sb : BitVec 6)
  /-- VSAR_VS (R216): Shifts every element right arithmetically by a scalar. -/
  | vsarVs (t : Tok) (h : VHdr) (vd : BitVec 6) (va : BitVec 6) (sb : BitVec 6)
  /-- VMOV_VS (R216): Broadcasts a scalar over the tile. -/
  | vmovVs (t : Tok) (h : VHdr) (vd : BitVec 6) (sb : BitVec 6)
  /-- VFMA (R217): Element-wise fused a x b + c. -/
  | vfma (t : Tok) (h : VHdr) (vd : BitVec 6) (va : BitVec 6) (vb : BitVec 6) (vc : BitVec 6)
  /-- VFMS (R217): Element-wise fused a x b - c. -/
  | vfms (t : Tok) (h : VHdr) (vd : BitVec 6) (va : BitVec 6) (vb : BitVec 6) (vc : BitVec 6)
  /-- VCMP (R218): Compares elements into a mask register. -/
  | vcmp (t : Tok) (h : VHdr) (kd : BitVec 6) (va : BitVec 6) (vb : BitVec 6) (cond : BitVec 6)
  /-- VSEL (R219): Selects elements by a mask. -/
  | vsel (t : Tok) (h : VHdr) (vd : BitVec 6) (va : BitVec 6) (vb : BitVec 6) (ks : BitVec 3)
  /-- VCLAMP (R220): Clamps elements between two scalars. -/
  | vclamp (t : Tok) (h : VHdr) (vd : BitVec 6) (va : BitVec 6) (sb : BitVec 6)
  /-- VCVT (R221): Converts elements under the FTX-selected entry. -/
  | vcvt (t : Tok) (h : VHdr) (vd : BitVec 6) (va : BitVec 6)
  /-- VQUANT (R222): Quantises blocks to E2M1 with scale planes. -/
  | vquant (t : Tok) (h : VHdr) (vd : BitVec 6) (va : BitVec 6) (vs : BitVec 6)
  /-- VDEQ (R223): Decodes E2M1 blocks with their scales. -/
  | vdeq (t : Tok) (h : VHdr) (vd : BitVec 6) (va : BitVec 6) (vb : BitVec 6)
  /-- VRED_SUM_ROW (R224): Sums each row. -/
  | vredSumRow (t : Tok) (h : VHdr) (vd : BitVec 6) (va : BitVec 6) (wide : BitVec 1) (sat : BitVec 1)
  /-- VRED_SUM_COL (R224): Sums each column. -/
  | vredSumCol (t : Tok) (h : VHdr) (vd : BitVec 6) (va : BitVec 6) (wide : BitVec 1) (sat : BitVec 1)
  /-- VRED_MAX_ROW (R224): Maximum of each row. -/
  | vredMaxRow (t : Tok) (h : VHdr) (vd : BitVec 6) (va : BitVec 6) (wide : BitVec 1) (sat : BitVec 1)
  /-- VRED_MAX_COL (R224): Maximum of each column. -/
  | vredMaxCol (t : Tok) (h : VHdr) (vd : BitVec 6) (va : BitVec 6) (wide : BitVec 1) (sat : BitVec 1)
  /-- VRED_MIN_ROW (R224): Minimum of each row. -/
  | vredMinRow (t : Tok) (h : VHdr) (vd : BitVec 6) (va : BitVec 6) (wide : BitVec 1) (sat : BitVec 1)
  /-- VRED_MIN_COL (R224): Minimum of each column. -/
  | vredMinCol (t : Tok) (h : VHdr) (vd : BitVec 6) (va : BitVec 6) (wide : BitVec 1) (sat : BitVec 1)
  /-- VSHUF (R225): Permutes elements by an index vector. -/
  | vshuf (t : Tok) (h : VHdr) (vd : BitVec 6) (va : BitVec 6) (vb : BitVec 6)
  /-- VROT_ROW (R225): Rotates elements along rows. -/
  | vrotRow (t : Tok) (h : VHdr) (vd : BitVec 6) (va : BitVec 6) (n : BitVec 11)
  /-- VROT_COL (R225): Rotates elements along columns. -/
  | vrotCol (t : Tok) (h : VHdr) (vd : BitVec 6) (va : BitVec 6) (n : BitVec 11)
  /-- VTRAN (R225): Transposes a tile. -/
  | vtran (t : Tok) (h : VHdr) (vd : BitVec 6) (va : BitVec 6)
  /-- VBC_ROW (R225): Broadcasts a row vector to every row. -/
  | vbcRow (t : Tok) (h : VHdr) (vd : BitVec 6) (va : BitVec 6)
  /-- VBC_COL (R225): Broadcasts each element along its row. -/
  | vbcCol (t : Tok) (h : VHdr) (vd : BitVec 6) (va : BitVec 6)
  /-- VEXP2 (R226): Element-wise base-2 exponential. -/
  | vexp2 (t : Tok) (h : VHdr) (vd : BitVec 6) (va : BitVec 6)
  /-- VLOG2 (R226): Element-wise base-2 logarithm. -/
  | vlog2 (t : Tok) (h : VHdr) (vd : BitVec 6) (va : BitVec 6)
  /-- VRCP (R226): Element-wise reciprocal. -/
  | vrcp (t : Tok) (h : VHdr) (vd : BitVec 6) (va : BitVec 6)
  /-- VRSQ (R226): Element-wise reciprocal square root. -/
  | vrsq (t : Tok) (h : VHdr) (vd : BitVec 6) (va : BitVec 6)
  /-- VTANH (R226): Element-wise hyperbolic tangent. -/
  | vtanh (t : Tok) (h : VHdr) (vd : BitVec 6) (va : BitVec 6)
  /-- VSIGM (R226): Element-wise sigmoid. -/
  | vsigm (t : Tok) (h : VHdr) (vd : BitVec 6) (va : BitVec 6)
  /-- SHAPE (R215): Writes VSHAPE rows and columns. -/
  | shape (t : Tok) (rlog : BitVec 3) (cols : BitVec 12)
  /-- KSET (R227): Writes a mask from a prefix, cols or rows pattern. -/
  | kset (t : Tok) (kd : BitVec 6) (rs1 : BitVec 6) (pat : BitVec 6)
  /-- KAND (R228): Mask AND. -/
  | kand (t : Tok) (kd : BitVec 6) (ka : BitVec 6) (kb : BitVec 6)
  /-- KOR (R228): Mask OR. -/
  | kor (t : Tok) (kd : BitVec 6) (ka : BitVec 6) (kb : BitVec 6)
  /-- KXOR (R228): Mask XOR. -/
  | kxor (t : Tok) (kd : BitVec 6) (ka : BitVec 6) (kb : BitVec 6)
  /-- KNOT (R228): Mask NOT. -/
  | knot (t : Tok) (kd : BitVec 6) (ka : BitVec 6)
  /-- BRQ (R229): X-engine branch on a popped outcome entry. -/
  | brq (t : Tok) (off : BitVec 24)
  /-- BRK (R230): X-engine branch on a mask condition. -/
  | brk (t : Tok) (k : BitVec 6) (cond : BitVec 6) (off : BitVec 12)
  /-- BRX (R230): X-engine branch on a scalar condition or always. -/
  | brx (t : Tok) (rs : BitVec 6) (cond : BitVec 6) (off : BitVec 12)
  /-- QSKIP (R232): Pops and discards load-queue entries. -/
  | qskip (t : Tok) (q : BitVec 6) (count : BitVec 12)
  /-- FTSEL (R233): Writes FTX offset and selector. -/
  | ftsel (t : Tok) (value : BitVec 8)
  /-- VSEED (R234): Sets the stochastic-rounding generator state. -/
  | vseed (t : Tok) (rs1 : BitVec 6) (rs2 : BitVec 6)
  /-- SFLAGS (R235): Reads and optionally clears the sticky flags. -/
  | sflags (t : Tok) (rd : BitVec 6) (clr : BitVec 1)
  /-- LOOP (R39): Starts a hardware loop with an immediate count. -/
  | loop (body : BitVec 6) (count : BitVec 16)
  /-- LOOPR (R39): Starts a hardware loop with a register count passed through bq. -/
  | loopr (body : BitVec 6) (ra : BitVec 6)
  /-- SAFEPT (R45): Marks a safe point where pre-emption, cancel or save takes effect. -/
  | safept (id : BitVec 12) (kmask : BitVec 8) (amask : BitVec 64) (smask : BitVec 32) (vmask : BitVec 32)
  /-- PICK_END (R46): Stops the engine's stream at the end of a pick or evaluation. -/
  | pickEnd
  /-- SLIP (R48): Sets the slip window. -/
  | slip (window : BitVec 8)
  /-- LOOM_PICK_RETIRE (R46): Loom's part of a pick retires once queued work completes, adding to the pick counter. -/
  | loomPickRetire (loom : Nat) (ev : Bool)
  /-- TREADLE_DECISION (R266): Treadle evaluates the liftplan for a stage with a free gang and starts the winning row's pick. -/
  | treadleDecision (panel : Nat) (stage : Nat)
  /-- GANG_START (R25): Every loom of the gang begins the pick at its entry line once prefetches have counted. -/
  | gangStart (peer : Nat) (pick : Nat)
  /-- REPLAY_ENTRY_START (R287): In determinate mode, starts the next replay-sequence entry once its gang and arrival are present. -/
  | replayEntryStart (panel : Nat) (stage : Nat)
  /-- SPILL_RETURN (R262): Records return from the spill ring when the on-chip part holds 56 or fewer. -/
  | spillReturn (panel : Nat) (stage : Nat) (queue : Nat)
  /-- HELD_ARRIVAL_POST (R403): Arrivals held while a queue was full are posted as room frees. -/
  | heldArrivalPost (panel : Nat) (stage : Nat) (queue : Nat)
  /-- LOADER_ARRIVAL (R110): A loader meeting a suspended region marks it EVALUATING and launches one evaluation, or waits. -/
  | loaderArrival (loom : Nat) (ev : Bool) (who : Loader)
  /-- EVALUATION_START (R41): Evaluator context starts a queued evaluation at its entry. -/
  | evaluationStart (loom : Nat)
  /-- FILL_LINE (R110): Fill writes a line and sets it VALUE; the last line answers the waiters in arrival order. -/
  | fillLine (loom : Nat) (ev : Bool) (cmd : Nat)
  /-- LOAD_RETURN (R158): Data of a register or queue load arrive and the operation completes. -/
  | loadReturn (loom : Nat) (ev : Bool) (acc : AccPart) (fromL1 : Bool)
  /-- WRITE_ACK (R94): A store or remote write is performed or acknowledged and leaves STC. -/
  | writeAck (loom : Nat) (ev : Bool) (acc : AccPart)
  /-- MULTICAST_LAND (R57): A multicast store lands in all eight loom scratchpads 32 cycles after issue. -/
  | multicastLand (loom : Nat) (ev : Bool) (acc : Nat)
  /-- PAGE_WALK (R66): Walker reads table levels and completes or faults a translation. -/
  | pageWalk (panel : Nat) (walk : Nat)
  /-- COMBINE_DEPART (R321): A combining entry leaves its switch 8 cycles after opening, merged or alone. -/
  | combineDepart (switch : Nat) (entry : Nat)
  /-- DECOMBINE_REPLY (R388): Switch splits a reply by its decombining record, or handles a lost record. -/
  | decombineReply (switch : Nat) (entry : Nat) (lost : Bool)
  /-- REQUEST_REPLAY (R376): An unanswered request is resent with its SSEQ after 8,192 cycles, up to three times, then TIMEOUT. -/
  | requestReplay (loom : Nat) (ev : Bool) (acc : Nat)
  /-- LOADER_RETRY (R383): A refused loader is retried after its backoff interval. -/
  | loaderRetry (loom : Nat) (ev : Bool) (acc : Nat)
  /-- SUSPENSION_LIMIT (R383): A loader unanswered at the suspension limit raises LIMIT. -/
  | suspensionLimit (loom : Nat) (ev : Bool) (acc : Nat)
  /-- BARRIER_TIMEOUT (R385): A BAR.WAIT held at the barrier limit raises TIMEOUT and sets TIMEDOUT. -/
  | barrierTimeout (loom : Nat) (ev : Bool)
  /-- DRAIN_TIMEOUT (R386): An ACC.DRAIN waiting at the barrier limit is abandoned with DRAIN. -/
  | drainTimeout (loom : Nat) (ev : Bool) (op : Nat)
  /-- SAFEPT_OVERRUN (R44): An engine's line count reaches 2,048 without a SAFEPT. -/
  | safeptOverrun (loom : Nat) (ev : Bool) (xEng : Bool)
  /-- QUEUE_DEADLOCK (R35): Both engines wait on each other and the loom raises DEADLOCK. -/
  | queueDeadlock (loom : Nat) (ev : Bool)
  /-- SLIP_STALL (R359): Slip or rendezvous hold with the X-engine starved raises SLIP. -/
  | slipStall (loom : Nat) (ev : Bool)
  /-- HANDLED_FAULT_ENTRY (R305): After draining, writes the fault frame and starts both engines at TVEC. -/
  | handledFaultEntry (loom : Nat) (ev : Bool)
  /-- UNHANDLED_FAULT_STOP (R356): An unhandled fault stops the context for good and cancels the containing level. -/
  | unhandledFaultStop (loom : Nat) (ev : Bool)
  /-- PREEMPT_SAVE (R45): After counters drain at the k-th SAFEPT, saves the pick's state and landing list. -/
  | preemptSave (loom : Nat)
  /-- PREEMPT_LIMIT (R312): PREEMPT limit expires before every loom parks; parked looms reload and status 4 is reported. -/
  | preemptLimit (peer : Nat) (launch : Nat)
  /-- PLANE_SWITCH (R285): Treadles build shadows from a difference and switch, or roll back with a status. -/
  | planeSwitch (peer : Nat)
  /-- LIFTSTALL (R405): A stage stalls for STALL x 1,024 cycles and a record is written. -/
  | liftstall (panel : Nat) (stage : Nat)
  /-- SPILL_FENCE_RETRY (R404): Treadle retries a fenced spill ring's walk every 65,536 cycles. -/
  | spillFenceRetry (panel : Nat) (stage : Nat) (queue : Nat)
  /-- CONGESTION_DECAY (R297): A destination's congestion level falls by 1 after 8,192 quiet cycles. -/
  | congestionDecay (peer : Nat) (mem : Nat)
  /-- READ (R291): Control flit requesting a load at a peer. -/
  | read (port : Nat) (f : Flit)
  /-- WRITE (R291): Control flit requesting a store at a peer. -/
  | write (port : Nat) (f : Flit)
  /-- ATOMIC (R291): Control flit requesting an atomic at a peer. -/
  | atomic (port : Nat) (f : Flit)
  /-- CASNEW (R291): Control flit carrying the new value of a CAS. -/
  | casnew (port : Nat) (f : Flit)
  /-- REDUCE (R291): Control flit carrying a CPY.RED request. -/
  | reduce (port : Nat) (f : Flit)
  /-- RELST (R291): Control flit carrying the flag store of REL.ST. -/
  | relst (port : Nat) (f : Flit)
  /-- CHWRITE (R296): Tensor-channel write counted into the slot's bobbin and acknowledged. -/
  | chwrite (port : Nat) (f : Flit)
  /-- READ_REPLY (R291): Reply carrying the data of a READ. -/
  | readReply (port : Nat) (f : Flit)
  /-- ACK (R291): Reply that a write, reduce, RELST, CHWRITE or .N atomic was performed or failed. -/
  | ack (port : Nat) (f : Flit)
  /-- ATOMIC_REPLY (R291): Reply carrying the value of an atomic. -/
  | atomicReply (port : Nat) (f : Flit)
  /-- WINDOW (R296): Flit carrying cumulative freed bytes, raising the sender's window. -/
  | window (port : Nat) (f : Flit)
  /-- CONGESTION (R297): Notice raising the source's congestion level for a destination. -/
  | congestion (port : Nat) (f : Flit)
  /-- DRAIN_FLIT (R298): Drain marker making a port quiescent once both have sent one. -/
  | drainFlit (port : Nat) (f : Flit)
  /-- RELOCK (R298): Flit exchanged after a dark interval carrying PHASE. -/
  | relock (port : Nat) (f : Flit)
  /-- PARK (R289): Flit naming a new awake set and the DSEQ where striping changes. -/
  | park (port : Nat) (f : Flit)
  /-- WAKE (R289): Flit starting the lock of woken wavelengths. -/
  | wake (port : Nat) (f : Flit)
  /-- LACK (R396): Link acknowledgement releasing held flits. -/
  | lack (port : Nat) (f : Flit)
  /-- LRETRY (R396): Link retry request resending flits from a sequence number. -/
  | lretry (port : Nat) (f : Flit)
  /-- IDLE (R291): Fill flit. -/
  | idle (port : Nat) (f : Flit)
  /-- DATA_FLIT (R288): Data-plane flit reassembled from beats and restored to DSEQ order. -/
  | dataFlit (port : Nat) (d : DataFlit)
  /-- WAKE_LOCK (R289): Both ends report lock and the sender parks to the larger set. -/
  | wakeLock (port : Nat)
  /-- LACK_TIMEOUT (R396): No LACK for 10 us makes the sender resend its held flits. -/
  | lackTimeout (port : Nat)
  /-- WAVELENGTH_LOSS (R398): A data wavelength is lost and the port restripes over working wavelengths. -/
  | wavelengthLoss (port : Nat) (wave : Nat)
  /-- PORT_DOWN (R399): A port goes dark and requests reroute by replay. -/
  | portDown (port : Nat) (reason : Nat)
  /-- LAUNCH (R301): Host job-control message that arms a launch. -/
  | launch (peer : Nat) (req : HostReq) (args : ArmArgs)
  /-- CANCEL (R301): Host job-control message that cancels a counter. -/
  | cancel (peer : Nat) (req : HostReq) (index : Nat) (level : Nat)
  /-- STATUS (R301): Host job-control message returning a counter's 16 bytes. -/
  | status (peer : Nat) (req : HostReq) (index : Nat)
  /-- ARRIVALS (R318): Host message posting up to 64 arrivals after earlier image writes. -/
  | arrivals (peer : Nat) (req : HostReq) (count : Nat) (payload : Nat) (ops : List (BitVec 64))
  /-- IMAGE_WRITE (R300): Host writes bytes at a partition VA under the page tables. -/
  | imageWrite (peer : Nat) (va : BitVec 64) (data : ImageData)
  /-- IMAGE_READ (R301): Host reads bytes at a partition VA. -/
  | imageRead (peer : Nat) (req : HostReq) (va : BitVec 64) (len : Nat)
  /-- ATTESTATION_REQUEST (R329): Agate answers with a signed report of the partition state. -/
  | attestationRequest (peer : Nat) (args : AttestArgs)
  /-- FLEOLAPIN_ACK (R299): An acknowledgement of a Fleolapin message is received. -/
  | fleolapinAck (peer : Nat) (endpoint : Nat) (seq : Nat)
  /-- FLEOLAPIN_RETRANSMIT (R299): An unacknowledged message is retransmitted after 100 us. -/
  | fleolapinRetransmit (peer : Nat) (endpoint : Nat) (seq : Nat)
  /-- FORM (R314): Forms a partition from panels with its tables and areas. -/
  | form (req : HostReq) (args : FormArgs)
  /-- DISSOLVE (R314): Dissolves a partition with no armed launch. -/
  | dissolve (peer : Nat) (req : HostReq)
  /-- RESIZE (R316): Changes a partition's panels at a job boundary. -/
  | resize (peer : Nat) (req : HostReq) (panels : Nat)
  /-- RESET (R317): Resets a partition behind its closed gates. -/
  | reset (peer : Nat) (req : HostReq)
  /-- INVALIDATE (R67): Drops translations of a changed entry and completes once no access uses them. -/
  | invalidate (peer : Nat) (req : HostReq) (va : BitVec 64) (len : Nat)
  /-- LOADPLANE (R281): Checks and loads a configuration plane. -/
  | loadplane (peer : Nat) (req : HostReq) (va : BitVec 64)
  /-- COUNTER (R314): Creates a job, phase or step counter and returns its index. -/
  | counter (peer : Nat) (req : HostReq) (level : CounterLevel) (expect : Nat) (parent : Nat)
  /-- ARM (R314): Arms a stage launch on gangs and creates its counter. -/
  | arm (peer : Nat) (req : HostReq) (args : ArmArgs)
  /-- PREEMPT (R312): Delivers a pre-emption request to every loom of a launch's running picks. -/
  | preempt (peer : Nat) (req : HostReq) (launch : Nat) (limit : Nat)
  /-- RESUME (R313): Checks and reloads parked picks and restarts them in one cycle. -/
  | resume (peer : Nat) (req : HostReq) (launch : Nat)
  /-- DRAIN (R298): Begins the fabric drain for a new phase. -/
  | drain (peer : Nat) (req : HostReq) (phase : Nat)
  /-- FABRIC (R298): Loads a fabric table, relocks ports and resumes held requests. -/
  | fabric (peer : Nat) (req : HostReq) (va : BitVec 64)
  /-- LIMITS (R314): Sets barrier, suspension and stall limits. -/
  | limits (peer : Nat) (req : HostReq) (barrier : Nat) (suspension : Nat) (stall : Nat)
  /-- POWER (R326): Sets a partition's power mode and budget. -/
  | power (peer : Nat) (req : HostReq) (mode : Nat) (budget : Nat)
  /-- CAPPED_MEASURE (R327): Every 10 us measures power and steps the common duty. -/
  | cappedMeasure (peer : Nat) (watts : Nat)
  /-- THERMAL_STEP (R328): Every 100 us lowers or raises the thermal duty by one step. -/
  | thermalStep (panel : Nat) (hottest : Nat)
  /-- PANEL_FAULT (R409): Thermal trip, coolant, rail or clock fault removes the panel's rails and cancels the job. -/
  | panelFault (panel : Nat) (reason : Nat)
  /-- BRIDGE (R410): A bridge between owned panels fails and the job is cancelled. -/
  | bridge (panel : Nat) (other : Nat) (reason : Nat)
  /-- GATE_TEST (R411): Agate tests every closed gate half each 1 ms. -/
  | gateTest (panel : Nat) (other : Nat) (passed : Bool)
  /-- MODULE_RESET (R323): Agate runs its boot ROM and verifies the firmware. -/
  | moduleReset (signatureOk : Bool)
  /-- TRAINING_END (R324): A panel's training ends and it enters early service. -/
  | trainingEnd (panel : Nat) (ok : Bool)
  /-- CALIBRATION_END (R325): Calibration ends and HBM moves to full rate. -/
  | calibrationEnd (panel : Nat) (ok : Bool)
  /-- LOOM_SERVICE_MOVE (R325): A loom moves to full clock at its gang's pick boundary. -/
  | loomServiceMove (loom : Nat)
  /-- PATROL_SCRUB (R374): Controller reads each line daily, correcting or poisoning it. -/
  | patrolScrub (line : Nat)
  /-- CORRECTED (R369): A channel corrects `count` further errors; when its count in a second reaches 1,024 a unit record is written. -/
  | corrected (channel : Nat) (count : Nat)
  /-- REGISTER_RESULT_LAND (R206): A register or store-queue result lands in the engine cycle its declared latency gives, writing its destination, ORing its flags and pushing its token. -/
  | registerResultLand (loom : Nat) (ev : Bool) (xEng : Bool)
  /-- DECLARED_COMPLETION (R170): In determinate mode an operation leaves its outstanding counter in the engine cycle of its declared completion latency. -/
  | declaredCompletion (loom : Nat) (ev : Bool)
  /-- ACC_INIT_APPLIED (R322): The home slice finishes zeroing and opening a tile for an ACC.INIT, releasing .D releases and PICK.END that waited for it. -/
  | accInitApplied (loom : Nat) (ev : Bool) (op : Nat)
  /-- STASH_ACTION_COMPLETE (R203): The stash engine finishes the COMPRESS, SPILL or FETCH transfer of a command and counts its bytes into the barrier. -/
  | stashActionComplete (panel : Nat) (op : Nat)
  /-- LACK_INTERVAL (R396): A receiver that has received flits sends a LACK at least once every 1 us. -/
  | lackInterval (port : Nat)
  /-- PANEL_FAULT_CLEAR (R409): Once sensors read 90 C or less and rails and clock are restored, the partition manager resets the partition under R317. -/
  | panelFaultClear (panel : Nat)
  /-- MODULE_INPUT_FAULT (R409): A failure of the shared module power input is a module-level fault with PEER 0xFFF that affects every partition. -/
  | moduleInputFault
  deriving DecidableEq, Repr

end Sys2Proof
end

