-- ==== Sys2Proof/Decode.lean ====
section
/-!
DEFINITION. The decoder of instruction words and of bundle lines, total on any words and refusing by name (R112 to
R135, R341), and the encoder, written from the same tables of 06_encoding.md. The lane's tag chooses among the three
opcode spaces, whose words overlap.
-/

namespace Sys2Proof

/-- The opcode spaces of R114. -/
inductive Space where
  | A | X | J
  deriving DecidableEq, Repr

/-- The class 0x01 causes of R341. -/
inductive EncCause where
  | tag | header | empty | extension | missing | major | subop | reserved | register | type | immediate | csr
  | composition
  deriving DecidableEq, Repr

/-- The code of a class 0x01 cause (R341). -/
def EncCause.code : EncCause → Nat
  | .tag => 1 | .header => 2 | .empty => 3 | .extension => 4 | .missing => 5 | .major => 6 | .subop => 7
  | .reserved => 8 | .register => 9 | .type => 10 | .immediate => 11 | .csr => 12 | .composition => 13

/-- An illegal encoding: its cause and DETAIL1 (R341). -/
structure Illegal where
  cause : EncCause
  detail : Nat
  deriving DecidableEq, Repr

/-- The words of one instruction: its opcode space, its instruction word and its extension words. -/
structure Words where
  space : Space
  word : W32
  exts : List W32
  deriving DecidableEq, Repr

/-- What an opcode map gives for an instruction word: how many extension words follow, and the instruction with them. -/
structure Entry where
  count : Nat
  build : (Nat → W32) → Instr

/-- The field of n bits of w whose lowest bit is lo. -/
abbrev fld (w : W32) (lo n : Nat) : BitVec n := w.extractLsb' lo n

/-- The token bits of an A- or X-space word (R117). -/
def tokOf (w : W32) : Tok := ⟨w.getLsbD 31, w.getLsbD 30⟩

/-! ## The formats of R118 -/

/-- Bits [31:24] of an A- or X-space word: WT, PS and MAJOR (R117). -/
def hi8 (t : Tok) (maj : BitVec 6) : BitVec 8 := BitVec.ofBool t.wt ++ BitVec.ofBool t.ps ++ maj

/-- Format RR. -/
def pRR (t : Tok) (maj rd rs1 rs2 fn : BitVec 6) : W32 := hi8 t maj ++ rd ++ rs1 ++ rs2 ++ fn
/-- Format RI. -/
def pRI (t : Tok) (maj rd rs1 : BitVec 6) (imm : BitVec 12) : W32 := hi8 t maj ++ rd ++ rs1 ++ imm
/-- Format RL. -/
def pRL (t : Tok) (maj rd : BitVec 6) (imm : BitVec 18) : W32 := hi8 t maj ++ rd ++ imm
/-- Format BC. -/
def pBC (t : Tok) (maj rs1 rs2 : BitVec 6) (off : BitVec 12) : W32 := hi8 t maj ++ rs1 ++ rs2 ++ off
/-- Format BL. -/
def pBL (t : Tok) (maj : BitVec 6) (off : BitVec 24) : W32 := hi8 t maj ++ off
/-- Format M. -/
def pM (t : Tok) (maj reg base : BitVec 6) (st : BitVec 4) (off : BitVec 8) : W32 := hi8 t maj ++ reg ++ base ++ st ++ off
/-- Format Q. -/
def pQ (t : Tok) (maj ra rb : BitVec 6) (st : BitVec 4) (fn : BitVec 5) (n : BitVec 3) : W32 :=
  hi8 t maj ++ ra ++ rb ++ st ++ fn ++ n
/-- The joint words LOOP and LOOPR (R38). -/
def pJL (maj body : BitVec 6) (rest : BitVec 18) : W32 := 0#2 ++ maj ++ body ++ rest
/-- The other joint words (R43, R46, R48). -/
def pJB (maj : BitVec 6) (body : BitVec 24) : W32 := 0#2 ++ maj ++ body

/-- The vector extension word (R125). -/
def vext (h : VHdr) (opx : BitVec 24) : W32 := h.ty ++ h.mask ++ h.mz ++ opx
/-- TYPE, MASK and MZ of a vector extension word (R125). -/
def vhdrOf (w : W32) : VHdr := ⟨w.extractLsb' 28 4, w.extractLsb' 25 3, w.extractLsb' 24 1⟩

/-! ## The opcode maps -/

/-- R129 to R131, the A space: the number of extension words an instruction word takes and the instruction it is with them, every field read at its place. An unassigned major or sub-op is refused by name (R135). -/
def lookupA (w : W32) : Except Illegal Entry :=
  let t := tokOf w
  match (fld w 24 6).toNat with
  | 0x00 =>
    match (fld w 0 6).toNat with
    | 0 => .ok ⟨0, fun _ => .add t (fld w 18 6) (fld w 12 6) (fld w 6 6)⟩
    | 1 => .ok ⟨0, fun _ => .sub t (fld w 18 6) (fld w 12 6) (fld w 6 6)⟩
    | 2 => .ok ⟨0, fun _ => .and t (fld w 18 6) (fld w 12 6) (fld w 6 6)⟩
    | 3 => .ok ⟨0, fun _ => .or t (fld w 18 6) (fld w 12 6) (fld w 6 6)⟩
    | 4 => .ok ⟨0, fun _ => .xor t (fld w 18 6) (fld w 12 6) (fld w 6 6)⟩
    | 5 => .ok ⟨0, fun _ => .andn t (fld w 18 6) (fld w 12 6) (fld w 6 6)⟩
    | 6 => .ok ⟨0, fun _ => .shl t (fld w 18 6) (fld w 12 6) (fld w 6 6)⟩
    | 7 => .ok ⟨0, fun _ => .shr t (fld w 18 6) (fld w 12 6) (fld w 6 6)⟩
    | 8 => .ok ⟨0, fun _ => .sar t (fld w 18 6) (fld w 12 6) (fld w 6 6)⟩
    | 9 => .ok ⟨0, fun _ => .mul t (fld w 18 6) (fld w 12 6) (fld w 6 6)⟩
    | 10 => .ok ⟨0, fun _ => .mulh t (fld w 18 6) (fld w 12 6) (fld w 6 6)⟩
    | 11 => .ok ⟨0, fun _ => .mulhu t (fld w 18 6) (fld w 12 6) (fld w 6 6)⟩
    | 12 => .ok ⟨0, fun _ => .min t (fld w 18 6) (fld w 12 6) (fld w 6 6)⟩
    | 13 => .ok ⟨0, fun _ => .max t (fld w 18 6) (fld w 12 6) (fld w 6 6)⟩
    | 14 => .ok ⟨0, fun _ => .minu t (fld w 18 6) (fld w 12 6) (fld w 6 6)⟩
    | 15 => .ok ⟨0, fun _ => .maxu t (fld w 18 6) (fld w 12 6) (fld w 6 6)⟩
    | 16 => .ok ⟨0, fun _ => .slt t (fld w 18 6) (fld w 12 6) (fld w 6 6)⟩
    | 17 => .ok ⟨0, fun _ => .sltu t (fld w 18 6) (fld w 12 6) (fld w 6 6)⟩
    | 18 => .ok ⟨0, fun _ => .seq t (fld w 18 6) (fld w 12 6) (fld w 6 6)⟩
    | 19 => .ok ⟨0, fun _ => .sne t (fld w 18 6) (fld w 12 6) (fld w 6 6)⟩
    | 20 => .ok ⟨0, fun _ => .clz t (fld w 18 6) (fld w 12 6)⟩
    | 21 => .ok ⟨0, fun _ => .ctz t (fld w 18 6) (fld w 12 6)⟩
    | 22 => .ok ⟨0, fun _ => .popc t (fld w 18 6) (fld w 12 6)⟩
    | n => .error ⟨.subop, n⟩
  | 0x01 => .ok ⟨0, fun _ => .addi t (fld w 18 6) (fld w 12 6) (fld w 0 12)⟩
  | 0x02 => .ok ⟨0, fun _ => .andi t (fld w 18 6) (fld w 12 6) (fld w 0 12)⟩
  | 0x03 => .ok ⟨0, fun _ => .ori t (fld w 18 6) (fld w 12 6) (fld w 0 12)⟩
  | 0x04 => .ok ⟨0, fun _ => .xori t (fld w 18 6) (fld w 12 6) (fld w 0 12)⟩
  | 0x05 => .ok ⟨0, fun _ => .shli t (fld w 18 6) (fld w 12 6) (fld w 0 6)⟩
  | 0x06 => .ok ⟨0, fun _ => .shri t (fld w 18 6) (fld w 12 6) (fld w 0 6)⟩
  | 0x07 => .ok ⟨0, fun _ => .sari t (fld w 18 6) (fld w 12 6) (fld w 0 6)⟩
  | 0x08 => .ok ⟨0, fun _ => .slti t (fld w 18 6) (fld w 12 6) (fld w 0 12)⟩
  | 0x09 => .ok ⟨0, fun _ => .lui t (fld w 18 6) (fld w 0 18)⟩
  | 0x0A => .ok ⟨2, fun e => .liw t (fld w 18 6) (e 1 ++ e 0)⟩
  | 0x0B => .ok ⟨0, fun _ => .bfx t (fld w 18 6) (fld w 12 6) (fld w 6 6) (fld w 0 6)⟩
  | 0x0C => .ok ⟨0, fun _ => .bfi t (fld w 18 6) (fld w 12 6) (fld w 6 6) (fld w 0 6)⟩
  | 0x0D => .ok ⟨0, fun _ => .sel t (fld w 18 6) (fld w 12 6) (fld w 6 6) (fld w 0 6)⟩
  | 0x0E => .ok ⟨0, fun _ => .agen t (fld w 18 6) (fld w 12 6) (fld w 6 6) (fld w 0 6)⟩
  | 0x0F => .ok ⟨0, fun _ => .astep t (fld w 18 6) (fld w 12 6) (fld w 6 6) (fld w 0 2) (fld w 2 2)⟩
  | 0x10 => .ok ⟨0, fun _ => .br t (fld w 0 24)⟩
  | 0x11 => .ok ⟨0, fun _ => .beq t (fld w 18 6) (fld w 12 6) (fld w 0 12)⟩
  | 0x12 => .ok ⟨0, fun _ => .bne t (fld w 18 6) (fld w 12 6) (fld w 0 12)⟩
  | 0x13 => .ok ⟨0, fun _ => .blt t (fld w 18 6) (fld w 12 6) (fld w 0 12)⟩
  | 0x14 => .ok ⟨0, fun _ => .bge t (fld w 18 6) (fld w 12 6) (fld w 0 12)⟩
  | 0x15 => .ok ⟨0, fun _ => .bltu t (fld w 18 6) (fld w 12 6) (fld w 0 12)⟩
  | 0x16 => .ok ⟨0, fun _ => .bgeu t (fld w 18 6) (fld w 12 6) (fld w 0 12)⟩
  | 0x17 => .ok ⟨0, fun _ => .call t (fld w 0 24)⟩
  | 0x18 => .ok ⟨0, fun _ => .jr t (fld w 12 6) (fld w 0 12)⟩
  | 0x19 => .ok ⟨0, fun _ => .bqp t (fld w 12 6)⟩
  | 0x1A => .ok ⟨0, fun _ => .lda t (fld w 18 6) (fld w 12 6) (fld w 8 4) (fld w 0 8)⟩
  | 0x1B => .ok ⟨0, fun _ => .sta t (fld w 18 6) (fld w 12 6) (fld w 8 4) (fld w 0 8)⟩
  | 0x1C => .ok ⟨0, fun _ => .ldq t (fld w 18 6) (fld w 12 6) (fld w 8 4) (fld w 0 8)⟩
  | 0x1D => .ok ⟨1, fun e => .ldq2d t (fld w 18 6) (fld w 12 6) (fld w 8 4) (fld w 0 8) (fld (e 0) 26 6) (fld (e 0) 15 11)⟩
  | 0x1E => .ok ⟨0, fun _ => .stq t (fld w 18 6) (fld w 12 6) (fld w 8 4) (fld w 0 8)⟩
  | 0x1F => .ok ⟨1, fun e => .stq2d t (fld w 18 6) (fld w 12 6) (fld w 8 4) (fld w 0 8) (fld (e 0) 26 6) (fld (e 0) 15 11)⟩
  | 0x20 => .ok ⟨1, fun e => .gathq t (fld w 18 6) (fld w 12 6) (fld w 8 4) (fld w 0 8) (fld (e 0) 30 2) (fld (e 0) 29 1) (fld (e 0) 24 5)⟩
  | 0x21 => .ok ⟨1, fun e => .scatq t (fld w 18 6) (fld w 12 6) (fld w 8 4) (fld w 0 8) (fld (e 0) 30 2) (fld (e 0) 29 1) (fld (e 0) 24 5)⟩
  | 0x22 => .ok ⟨0, fun _ => .pref t (fld w 18 6) (fld w 12 6) (fld w 8 4) (fld w 0 8)⟩
  | 0x23 =>
    match (fld w 3 5).toNat with
    | 0 => .ok ⟨1, fun e => .amoAdd t (fld w 18 6) (fld w 12 6) (fld w 8 4) (fld (e 0) 26 6)⟩
    | 1 => .ok ⟨1, fun e => .amoAddN t (fld w 12 6) (fld w 8 4) (fld (e 0) 26 6)⟩
    | 2 => .ok ⟨1, fun e => .amoAnd t (fld w 18 6) (fld w 12 6) (fld w 8 4) (fld (e 0) 26 6)⟩
    | 3 => .ok ⟨1, fun e => .amoAndN t (fld w 12 6) (fld w 8 4) (fld (e 0) 26 6)⟩
    | 4 => .ok ⟨1, fun e => .amoOr t (fld w 18 6) (fld w 12 6) (fld w 8 4) (fld (e 0) 26 6)⟩
    | 5 => .ok ⟨1, fun e => .amoOrN t (fld w 12 6) (fld w 8 4) (fld (e 0) 26 6)⟩
    | 6 => .ok ⟨1, fun e => .amoXor t (fld w 18 6) (fld w 12 6) (fld w 8 4) (fld (e 0) 26 6)⟩
    | 7 => .ok ⟨1, fun e => .amoXorN t (fld w 12 6) (fld w 8 4) (fld (e 0) 26 6)⟩
    | 8 => .ok ⟨1, fun e => .amoMin t (fld w 18 6) (fld w 12 6) (fld w 8 4) (fld (e 0) 26 6)⟩
    | 9 => .ok ⟨1, fun e => .amoMinN t (fld w 12 6) (fld w 8 4) (fld (e 0) 26 6)⟩
    | 10 => .ok ⟨1, fun e => .amoMax t (fld w 18 6) (fld w 12 6) (fld w 8 4) (fld (e 0) 26 6)⟩
    | 11 => .ok ⟨1, fun e => .amoMaxN t (fld w 12 6) (fld w 8 4) (fld (e 0) 26 6)⟩
    | 12 => .ok ⟨1, fun e => .amoMinu t (fld w 18 6) (fld w 12 6) (fld w 8 4) (fld (e 0) 26 6)⟩
    | 13 => .ok ⟨1, fun e => .amoMinuN t (fld w 12 6) (fld w 8 4) (fld (e 0) 26 6)⟩
    | 14 => .ok ⟨1, fun e => .amoMaxu t (fld w 18 6) (fld w 12 6) (fld w 8 4) (fld (e 0) 26 6)⟩
    | 15 => .ok ⟨1, fun e => .amoMaxuN t (fld w 12 6) (fld w 8 4) (fld (e 0) 26 6)⟩
    | 16 => .ok ⟨1, fun e => .amoSwap t (fld w 18 6) (fld w 12 6) (fld w 8 4) (fld (e 0) 26 6)⟩
    | 17 => .ok ⟨1, fun e => .amoSwapN t (fld w 12 6) (fld w 8 4) (fld (e 0) 26 6)⟩
    | n => .error ⟨.subop, n⟩
  | 0x24 => .ok ⟨1, fun e => .cas t (fld w 18 6) (fld w 12 6) (fld w 8 4) (fld (e 0) 26 6) (fld (e 0) 20 6)⟩
  | 0x25 => .ok ⟨1, fun e => .faaC t (fld w 18 6) (fld w 12 6) (fld w 8 4) (fld (e 0) 26 6)⟩
  | 0x26 =>
    match (fld w 16 2).toNat with
    | 0 => .ok ⟨0, fun _ => .fenceS t (fld w 0 4)⟩
    | 1 => .ok ⟨0, fun _ => .fenceX t (fld w 0 16)⟩
    | 2 => .ok ⟨0, fun _ => .fenceD t⟩
    | _ => .error ⟨.immediate, 3⟩
  | 0x27 => .ok ⟨0, fun _ => .acq t (fld w 12 6) (fld w 8 4) (fld w 3 5)⟩
  | 0x28 => .ok ⟨0, fun _ => .rel t (fld w 12 6) (fld w 8 4) (fld w 3 5)⟩
  | 0x29 => .ok ⟨0, fun _ => .relSt t (fld w 18 6) (fld w 12 6) (fld w 8 4) (fld w 3 5)⟩
  | 0x2A => .ok ⟨1, fun e => .bind t (fld w 18 6) (fld w 12 6) (fld w 8 4) (fld w 3 5) (fld (e 0) 26 6)⟩
  | 0x2B => .ok ⟨0, fun _ => .unbind t (fld w 18 6) (fld w 8 4)⟩
  | 0x2C =>
    match (fld w 3 5).toNat with
    | 0 => .ok ⟨1, fun e => .barInit t (fld w 18 6) (fld w 12 6) (fld w 8 4) (fld (e 0) 26 6)⟩
    | 4 => .ok ⟨0, fun _ => .barExpect t (fld w 18 6) (fld w 12 6) (fld w 8 4)⟩
    | 8 | 9 | 10 => .ok ⟨0, fun _ => .barArrive t (fld w 18 6) (fld w 12 6) (fld w 8 4) (fld w 3 2)⟩
    | 12 | 13 => .ok ⟨0, fun _ => .barWait t (fld w 18 6) (fld w 12 6) (fld w 8 4) (fld w 3 2)⟩
    | 16 => .ok ⟨0, fun _ => .barTest t (fld w 18 6) (fld w 12 6) (fld w 8 4)⟩
    | 20 => .ok ⟨0, fun _ => .barFlags t (fld w 18 6) (fld w 12 6) (fld w 8 4)⟩
    | n => .error ⟨.subop, n⟩
  | 0x2D => .ok ⟨0, fun _ => .waitC t (fld w 18 6) (fld w 12 6) (fld w 6 6) (fld w 0 6)⟩
  | 0x2E =>
    match (fld w 3 5).toNat with
    | 0 => .ok ⟨0, fun _ => .bobArm t (fld w 18 6) (fld w 12 6) (fld w 8 4)⟩
    | 1 => .ok ⟨0, fun _ => .bobDisarm t (fld w 18 6) (fld w 12 6) (fld w 8 4)⟩
    | 2 => .ok ⟨0, fun _ => .bobRead t (fld w 18 6) (fld w 12 6) (fld w 8 4)⟩
    | n => .error ⟨.subop, n⟩
  | 0x2F =>
    match (fld w 3 5).toNat with
    | 0 => .ok ⟨1, fun e => .suspMk t (fld w 18 6) (fld w 12 6) (fld w 8 4) (fld (e 0) 26 6)⟩
    | 1 => .ok ⟨1, fun e => .suspFill t (fld w 18 6) (fld w 12 6) (fld w 8 4) (fld (e 0) 26 6) (fld (e 0) 20 6)⟩
    | 2 => .ok ⟨0, fun _ => .suspPeek t (fld w 18 6) (fld w 12 6) (fld w 8 4)⟩
    | n => .error ⟨.subop, n⟩
  | 0x30 =>
    if (fld w 3 5).toNat < 1 then .ok ⟨2, fun e => .cpy t (fld w 18 6) (fld w 12 6) (fld w 8 4) (fld (e 0) 26 6) (fld (e 0) 20 6) (fld (e 1) 24 8) (fld (e 1) 16 8)⟩ else .error ⟨.subop, (fld w 3 5).toNat⟩
  | 0x31 =>
    if (fld w 3 5).toNat < 1 then .ok ⟨3, fun e => .cpy2d t (fld w 18 6) (fld w 12 6) (fld w 8 4) (fld (e 0) 26 6) (fld (e 0) 20 6) (fld (e 1) 24 8) (fld (e 1) 16 8) (fld (e 2) 26 6)⟩ else .error ⟨.subop, (fld w 3 5).toNat⟩
  | 0x32 =>
    if (fld w 3 5).toNat < 4 then .ok ⟨2, fun e => .cpyRed t (fld w 18 6) (fld w 12 6) (fld w 8 4) (fld (e 0) 26 6) (fld (e 0) 20 6) (fld (e 1) 24 8) (fld (e 1) 16 8) (fld w 3 2)⟩ else .error ⟨.subop, (fld w 3 5).toNat⟩
  | 0x33 =>
    if (fld w 3 5).toNat < 1 then .ok ⟨2, fun e => .cpyMc t (fld w 18 6) (fld w 12 6) (fld w 8 4) (fld (e 0) 26 6) (fld (e 0) 20 6) (fld (e 1) 24 8) (fld (e 1) 16 8)⟩ else .error ⟨.subop, (fld w 3 5).toNat⟩
  | 0x34 =>
    if (fld w 3 5).toNat < 4 then .ok ⟨2, fun e => .cpyDec t (fld w 18 6) (fld w 12 6) (fld w 8 4) (fld (e 0) 26 6) (fld (e 0) 20 6) (fld (e 1) 24 8) (fld (e 1) 16 8) (fld w 3 2)⟩ else .error ⟨.subop, (fld w 3 5).toNat⟩
  | 0x35 =>
    if (fld w 3 5).toNat < 4 then .ok ⟨0, fun _ => .ctbl t (fld w 12 6) (fld w 8 4) (fld w 3 2)⟩ else .error ⟨.subop, (fld w 3 5).toNat⟩
  | 0x36 =>
    if (fld w 3 5).toNat < 1 then .ok ⟨2, fun e => .cpyCsum t (fld w 18 6) (fld w 12 6) (fld w 8 4) (fld (e 0) 26 6) (fld (e 0) 20 6) (fld (e 1) 24 8) (fld (e 1) 16 8)⟩ else .error ⟨.subop, (fld w 3 5).toNat⟩
  | 0x37 =>
    match (fld w 3 5).toNat with
    | 0 => .ok ⟨2, fun e => .stashPut t (fld w 18 6) (fld w 12 6) (fld w 8 4) (fld (e 0) 26 6) (fld (e 0) 20 6) (fld (e 0) 18 2) (fld (e 0) 17 1) (fld (e 0) 15 2) (fld (e 1) 26 6)⟩
    | 1 => .ok ⟨0, fun _ => .stashDrop t (fld w 12 6) (fld w 8 4)⟩
    | 2 => .ok ⟨1, fun e => .stashFetch t (fld w 18 6) (fld w 12 6) (fld w 8 4) (fld (e 0) 20 6)⟩
    | 3 => .ok ⟨0, fun _ => .stashFree t (fld w 12 6) (fld w 8 4)⟩
    | n => .error ⟨.subop, n⟩
  | 0x38 => .ok ⟨2, fun e => .chSend t (fld w 18 6) (fld w 12 6) (fld w 8 4) (fld (e 0) 26 6) (fld (e 0) 20 6) (fld (e 1) 24 8) (fld (e 1) 16 8)⟩
  | 0x39 => .ok ⟨0, fun _ => .chFree t (fld w 18 6) (fld w 12 6) (fld w 8 4)⟩
  | 0x3A => .ok ⟨0, fun _ => .chWin t (fld w 18 6) (fld w 12 6) (fld w 8 4)⟩
  | 0x3B =>
    match (fld w 3 5).toNat with
    | 0 => .ok ⟨1, fun e => .taskPut t (fld w 18 6) (fld w 12 6) (fld w 8 4) (fld (e 0) 26 6) (fld (e 0) 20 6) (fld (e 0) 14 6) (fld (e 0) 10 4)⟩
    | 1 => .ok ⟨2, fun e => .taskPutp t (fld w 18 6) (fld w 12 6) (fld w 8 4) (fld (e 0) 26 6) (fld (e 0) 20 6) (fld (e 0) 14 6) (fld (e 0) 10 4) (fld (e 1) 24 8) (fld (e 1) 16 8)⟩
    | 2 => .ok ⟨0, fun _ => .taskCancel t (fld w 18 6) (fld w 12 6) (fld w 8 4)⟩
    | n => .error ⟨.subop, n⟩
  | 0x3C =>
    match (fld w 3 5).toNat with
    | 0 => .ok ⟨1, fun e => .accInit t (fld w 18 6) (fld w 12 6) (fld w 8 4) (fld (e 0) 26 6)⟩
    | 1 => .ok ⟨1, fun e => .accDrain t (fld w 18 6) (fld w 12 6) (fld w 8 4) (fld (e 0) 26 6) (fld (e 0) 20 6)⟩
    | n => .error ⟨.subop, n⟩
  | 0x3D =>
    match (fld w 3 5).toNat with
    | 0 => .ok ⟨0, fun _ => .trdArrive t (fld w 18 6) (fld w 8 4)⟩
    | 1 => .ok ⟨1, fun e => .trdVpin t (fld w 18 6) (fld w 12 6) (fld w 8 4) (fld (e 0) 31 1) (fld (e 0) 30 1) (fld (e 0) 24 3) (fld (e 0) 0 8)⟩
    | 2 => .ok ⟨0, fun _ => .trdVunpin t (fld w 12 6) (fld w 8 4)⟩
    | 3 => .ok ⟨0, fun _ => .trdInfo t (fld w 18 6) (fld w 12 6) (fld w 8 4)⟩
    | 4 => .ok ⟨1, fun e => .trdDiff t (fld w 12 6) (fld w 8 4) (fld (e 0) 26 6)⟩
    | 5 => .ok ⟨0, fun _ => .trdCancel t (fld w 18 6) (fld w 12 6) (fld w 8 4)⟩
    | n => .error ⟨.subop, n⟩
  | 0x3E =>
    match (fld w 8 4).toNat with
    | 0 => .ok ⟨0, fun _ => .csrr t (fld w 18 6) (fld w 0 8)⟩
    | 1 => .ok ⟨0, fun _ => .csrw t (fld w 12 6) (fld w 0 8)⟩
    | 2 => .ok ⟨0, fun _ => .trap t (fld w 0 8)⟩
    | 3 => .ok ⟨0, fun _ => .rett t (fld w 12 6)⟩
    | 4 => .ok ⟨0, fun _ => .yield t (fld w 0 8)⟩
    | 5 => .ok ⟨0, fun _ => .ctxSave t (fld w 18 6) (fld w 12 6)⟩
    | 6 => .ok ⟨0, fun _ => .ctxLoad t (fld w 12 6)⟩
    | 7 => .ok ⟨0, fun _ => .linkPark t (fld w 18 6) (fld w 4 2) (fld w 0 4)⟩
    | 8 => .ok ⟨0, fun _ => .linkWake t (fld w 18 6) (fld w 4 2) (fld w 0 4)⟩
    | n => .error ⟨.subop, n⟩
  | n => .error ⟨.major, n⟩

/-- R132 and R133, the X space: the number of extension words an instruction word takes and the instruction it is with them, every field read at its place. An unassigned major or sub-op is refused by name (R135). -/
def lookupX (w : W32) : Except Illegal Entry :=
  let t := tokOf w
  match (fld w 24 6).toNat with
  | 0x00 =>
    match (fld w 0 6).toNat with
    | 0 => .ok ⟨0, fun _ => .sadd t (fld w 18 6) (fld w 12 6) (fld w 6 6)⟩
    | 1 => .ok ⟨0, fun _ => .ssub t (fld w 18 6) (fld w 12 6) (fld w 6 6)⟩
    | 2 => .ok ⟨0, fun _ => .smul t (fld w 18 6) (fld w 12 6) (fld w 6 6)⟩
    | 3 => .ok ⟨0, fun _ => .smin t (fld w 18 6) (fld w 12 6) (fld w 6 6)⟩
    | 4 => .ok ⟨0, fun _ => .smax t (fld w 18 6) (fld w 12 6) (fld w 6 6)⟩
    | 5 => .ok ⟨0, fun _ => .sand t (fld w 18 6) (fld w 12 6) (fld w 6 6)⟩
    | 6 => .ok ⟨0, fun _ => .sor t (fld w 18 6) (fld w 12 6) (fld w 6 6)⟩
    | 7 => .ok ⟨0, fun _ => .sxor t (fld w 18 6) (fld w 12 6) (fld w 6 6)⟩
    | 8 => .ok ⟨0, fun _ => .sshl t (fld w 18 6) (fld w 12 6) (fld w 6 6)⟩
    | 9 => .ok ⟨0, fun _ => .sshr t (fld w 18 6) (fld w 12 6) (fld w 6 6)⟩
    | 10 => .ok ⟨0, fun _ => .fadd t (fld w 18 6) (fld w 12 6) (fld w 6 6)⟩
    | 11 => .ok ⟨0, fun _ => .fsub t (fld w 18 6) (fld w 12 6) (fld w 6 6)⟩
    | 12 => .ok ⟨0, fun _ => .fmul t (fld w 18 6) (fld w 12 6) (fld w 6 6)⟩
    | 13 => .ok ⟨0, fun _ => .fmin t (fld w 18 6) (fld w 12 6) (fld w 6 6)⟩
    | 14 => .ok ⟨0, fun _ => .fmax t (fld w 18 6) (fld w 12 6) (fld w 6 6)⟩
    | 15 => .ok ⟨0, fun _ => .fcmp t (fld w 18 6) (fld w 12 6) (fld w 6 6)⟩
    | n => .error ⟨.subop, n⟩
  | 0x01 => .ok ⟨0, fun _ => .sfma t (fld w 18 6) (fld w 12 6) (fld w 6 6) (fld w 0 6)⟩
  | 0x02 => .ok ⟨0, fun _ => .scvt t (fld w 18 6) (fld w 12 6) (fld w 0 6)⟩
  | 0x03 => .ok ⟨0, fun _ => .sli t (fld w 18 6) (fld w 0 18)⟩
  | 0x04 => .ok ⟨0, fun _ => .smovq t (fld w 18 6) (fld w 12 6) (fld w 0 6)⟩
  | 0x08 =>
    match (fld w 0 6).toNat with
    | 0 => .ok ⟨1, fun e => .vadd t (vhdrOf (e 0)) (fld w 18 6) (fld w 12 6) (fld w 6 6) (fld (e 0) 0 1)⟩
    | 1 => .ok ⟨1, fun e => .vsub t (vhdrOf (e 0)) (fld w 18 6) (fld w 12 6) (fld w 6 6) (fld (e 0) 0 1)⟩
    | 2 => .ok ⟨1, fun e => .vmul t (vhdrOf (e 0)) (fld w 18 6) (fld w 12 6) (fld w 6 6) (fld (e 0) 0 1)⟩
    | 3 => .ok ⟨1, fun e => .vmin t (vhdrOf (e 0)) (fld w 18 6) (fld w 12 6) (fld w 6 6)⟩
    | 4 => .ok ⟨1, fun e => .vmax t (vhdrOf (e 0)) (fld w 18 6) (fld w 12 6) (fld w 6 6)⟩
    | 5 => .ok ⟨1, fun e => .vabs t (vhdrOf (e 0)) (fld w 18 6) (fld w 12 6) (fld (e 0) 0 1)⟩
    | 6 => .ok ⟨1, fun e => .vneg t (vhdrOf (e 0)) (fld w 18 6) (fld w 12 6) (fld (e 0) 0 1)⟩
    | 7 => .ok ⟨1, fun e => .vand t (vhdrOf (e 0)) (fld w 18 6) (fld w 12 6) (fld w 6 6)⟩
    | 8 => .ok ⟨1, fun e => .vor t (vhdrOf (e 0)) (fld w 18 6) (fld w 12 6) (fld w 6 6)⟩
    | 9 => .ok ⟨1, fun e => .vxor t (vhdrOf (e 0)) (fld w 18 6) (fld w 12 6) (fld w 6 6)⟩
    | 10 => .ok ⟨1, fun e => .vshl t (vhdrOf (e 0)) (fld w 18 6) (fld w 12 6) (fld w 6 6)⟩
    | 11 => .ok ⟨1, fun e => .vshr t (vhdrOf (e 0)) (fld w 18 6) (fld w 12 6) (fld w 6 6)⟩
    | 12 => .ok ⟨1, fun e => .vsar t (vhdrOf (e 0)) (fld w 18 6) (fld w 12 6) (fld w 6 6)⟩
    | 13 => .ok ⟨1, fun e => .vmov t (vhdrOf (e 0)) (fld w 18 6) (fld w 12 6)⟩
    | 32 => .ok ⟨1, fun e => .vaddVs t (vhdrOf (e 0)) (fld w 18 6) (fld w 12 6) (fld w 6 6) (fld (e 0) 0 1)⟩
    | 33 => .ok ⟨1, fun e => .vsubVs t (vhdrOf (e 0)) (fld w 18 6) (fld w 12 6) (fld w 6 6) (fld (e 0) 0 1)⟩
    | 34 => .ok ⟨1, fun e => .vmulVs t (vhdrOf (e 0)) (fld w 18 6) (fld w 12 6) (fld w 6 6) (fld (e 0) 0 1)⟩
    | 35 => .ok ⟨1, fun e => .vminVs t (vhdrOf (e 0)) (fld w 18 6) (fld w 12 6) (fld w 6 6)⟩
    | 36 => .ok ⟨1, fun e => .vmaxVs t (vhdrOf (e 0)) (fld w 18 6) (fld w 12 6) (fld w 6 6)⟩
    | 39 => .ok ⟨1, fun e => .vandVs t (vhdrOf (e 0)) (fld w 18 6) (fld w 12 6) (fld w 6 6)⟩
    | 40 => .ok ⟨1, fun e => .vorVs t (vhdrOf (e 0)) (fld w 18 6) (fld w 12 6) (fld w 6 6)⟩
    | 41 => .ok ⟨1, fun e => .vxorVs t (vhdrOf (e 0)) (fld w 18 6) (fld w 12 6) (fld w 6 6)⟩
    | 42 => .ok ⟨1, fun e => .vshlVs t (vhdrOf (e 0)) (fld w 18 6) (fld w 12 6) (fld w 6 6)⟩
    | 43 => .ok ⟨1, fun e => .vshrVs t (vhdrOf (e 0)) (fld w 18 6) (fld w 12 6) (fld w 6 6)⟩
    | 44 => .ok ⟨1, fun e => .vsarVs t (vhdrOf (e 0)) (fld w 18 6) (fld w 12 6) (fld w 6 6)⟩
    | 45 => .ok ⟨1, fun e => .vmovVs t (vhdrOf (e 0)) (fld w 18 6) (fld w 6 6)⟩
    | n => .error ⟨.subop, n⟩
  | 0x09 => .ok ⟨1, fun e => .vfma t (vhdrOf (e 0)) (fld w 18 6) (fld w 12 6) (fld w 6 6) (fld (e 0) 0 6)⟩
  | 0x0A => .ok ⟨1, fun e => .vfms t (vhdrOf (e 0)) (fld w 18 6) (fld w 12 6) (fld w 6 6) (fld (e 0) 0 6)⟩
  | 0x0B => .ok ⟨1, fun e => .vcmp t (vhdrOf (e 0)) (fld w 18 6) (fld w 12 6) (fld w 6 6) (fld w 0 6)⟩
  | 0x0C => .ok ⟨1, fun e => .vsel t (vhdrOf (e 0)) (fld w 18 6) (fld w 12 6) (fld w 6 6) (fld w 0 3)⟩
  | 0x0D => .ok ⟨1, fun e => .vclamp t (vhdrOf (e 0)) (fld w 18 6) (fld w 12 6) (fld w 6 6)⟩
  | 0x0E => .ok ⟨1, fun e => .vcvt t (vhdrOf (e 0)) (fld w 18 6) (fld w 12 6)⟩
  | 0x0F => .ok ⟨1, fun e => .vquant t (vhdrOf (e 0)) (fld w 18 6) (fld w 12 6) (fld (e 0) 0 6)⟩
  | 0x10 => .ok ⟨1, fun e => .vdeq t (vhdrOf (e 0)) (fld w 18 6) (fld w 12 6) (fld w 6 6)⟩
  | 0x11 =>
    match (fld w 0 6).toNat with
    | 0 => .ok ⟨1, fun e => .vredSumRow t (vhdrOf (e 0)) (fld w 18 6) (fld w 12 6) (fld (e 0) 1 1) (fld (e 0) 0 1)⟩
    | 1 => .ok ⟨1, fun e => .vredSumCol t (vhdrOf (e 0)) (fld w 18 6) (fld w 12 6) (fld (e 0) 1 1) (fld (e 0) 0 1)⟩
    | 2 => .ok ⟨1, fun e => .vredMaxRow t (vhdrOf (e 0)) (fld w 18 6) (fld w 12 6) (fld (e 0) 1 1) (fld (e 0) 0 1)⟩
    | 3 => .ok ⟨1, fun e => .vredMaxCol t (vhdrOf (e 0)) (fld w 18 6) (fld w 12 6) (fld (e 0) 1 1) (fld (e 0) 0 1)⟩
    | 4 => .ok ⟨1, fun e => .vredMinRow t (vhdrOf (e 0)) (fld w 18 6) (fld w 12 6) (fld (e 0) 1 1) (fld (e 0) 0 1)⟩
    | 5 => .ok ⟨1, fun e => .vredMinCol t (vhdrOf (e 0)) (fld w 18 6) (fld w 12 6) (fld (e 0) 1 1) (fld (e 0) 0 1)⟩
    | n => .error ⟨.subop, n⟩
  | 0x12 => .ok ⟨1, fun e => .vshuf t (vhdrOf (e 0)) (fld w 18 6) (fld w 12 6) (fld w 6 6)⟩
  | 0x13 =>
    match (fld w 0 6).toNat with
    | 0 => .ok ⟨1, fun e => .vrotRow t (vhdrOf (e 0)) (fld w 18 6) (fld w 12 6) (fld (e 0) 0 11)⟩
    | 1 => .ok ⟨1, fun e => .vrotCol t (vhdrOf (e 0)) (fld w 18 6) (fld w 12 6) (fld (e 0) 0 11)⟩
    | n => .error ⟨.subop, n⟩
  | 0x14 => .ok ⟨1, fun e => .vtran t (vhdrOf (e 0)) (fld w 18 6) (fld w 12 6)⟩
  | 0x15 =>
    match (fld w 0 6).toNat with
    | 0 => .ok ⟨1, fun e => .vbcRow t (vhdrOf (e 0)) (fld w 18 6) (fld w 12 6)⟩
    | 1 => .ok ⟨1, fun e => .vbcCol t (vhdrOf (e 0)) (fld w 18 6) (fld w 12 6)⟩
    | n => .error ⟨.subop, n⟩
  | 0x16 =>
    match (fld w 0 6).toNat with
    | 0 => .ok ⟨1, fun e => .vexp2 t (vhdrOf (e 0)) (fld w 18 6) (fld w 12 6)⟩
    | 1 => .ok ⟨1, fun e => .vlog2 t (vhdrOf (e 0)) (fld w 18 6) (fld w 12 6)⟩
    | 2 => .ok ⟨1, fun e => .vrcp t (vhdrOf (e 0)) (fld w 18 6) (fld w 12 6)⟩
    | 3 => .ok ⟨1, fun e => .vrsq t (vhdrOf (e 0)) (fld w 18 6) (fld w 12 6)⟩
    | 4 => .ok ⟨1, fun e => .vtanh t (vhdrOf (e 0)) (fld w 18 6) (fld w 12 6)⟩
    | 5 => .ok ⟨1, fun e => .vsigm t (vhdrOf (e 0)) (fld w 18 6) (fld w 12 6)⟩
    | n => .error ⟨.subop, n⟩
  | 0x18 => .ok ⟨0, fun _ => .shape t (fld w 12 3) (fld w 0 12)⟩
  | 0x19 => .ok ⟨0, fun _ => .kset t (fld w 18 6) (fld w 12 6) (fld w 0 6)⟩
  | 0x1A =>
    match (fld w 0 6).toNat with
    | 0 => .ok ⟨0, fun _ => .kand t (fld w 18 6) (fld w 12 6) (fld w 6 6)⟩
    | 1 => .ok ⟨0, fun _ => .kor t (fld w 18 6) (fld w 12 6) (fld w 6 6)⟩
    | 2 => .ok ⟨0, fun _ => .kxor t (fld w 18 6) (fld w 12 6) (fld w 6 6)⟩
    | 3 => .ok ⟨0, fun _ => .knot t (fld w 18 6) (fld w 12 6)⟩
    | n => .error ⟨.subop, n⟩
  | 0x1B => .ok ⟨0, fun _ => .brq t (fld w 0 24)⟩
  | 0x1C => .ok ⟨0, fun _ => .brk t (fld w 18 6) (fld w 12 6) (fld w 0 12)⟩
  | 0x1D => .ok ⟨0, fun _ => .brx t (fld w 18 6) (fld w 12 6) (fld w 0 12)⟩
  | 0x1E => .ok ⟨0, fun _ => .qskip t (fld w 18 6) (fld w 0 12)⟩
  | 0x1F => .ok ⟨0, fun _ => .ftsel t (fld w 0 8)⟩
  | 0x20 => .ok ⟨0, fun _ => .vseed t (fld w 12 6) (fld w 6 6)⟩
  | 0x21 => .ok ⟨0, fun _ => .sflags t (fld w 18 6) (fld w 0 1)⟩
  | n => .error ⟨.major, n⟩

/-- R134, the joint space: the number of extension words an instruction word takes and the instruction it is with them, every field read at its place. An unassigned major or sub-op is refused by name (R135). -/
def lookupJ (w : W32) : Except Illegal Entry :=
  match (fld w 24 6).toNat with
  | 0x00 => .ok ⟨0, fun _ => .loop (fld w 18 6) (fld w 0 16)⟩
  | 0x01 => .ok ⟨0, fun _ => .loopr (fld w 18 6) (fld w 10 6)⟩
  | 0x02 => .ok ⟨4, fun e => .safept (fld w 4 12) (fld w 16 8) (e 1 ++ e 0) (e 2) (e 3)⟩
  | 0x03 => .ok ⟨0, fun _ => .pickEnd⟩
  | 0x06 => .ok ⟨0, fun _ => .slip (fld w 0 8)⟩
  | n => .error ⟨.major, n⟩

/-- The map of the space. -/
def lookup (sp : Space) (w : W32) : Except Illegal Entry :=
  match sp with
  | .A => lookupA w
  | .X => lookupX w
  | .J => lookupJ w

/-! ## The encoder -/

/-- The words of an instruction, from R129 to R134 and the instructions' own descriptions; events have none. -/
def encode (i : Instr) : Option Words :=
  match i with
  | .add t rd rs1 rs2 => some ⟨.A, pRR t 0#6 rd rs1 rs2 0#6, []⟩
  | .sub t rd rs1 rs2 => some ⟨.A, pRR t 0#6 rd rs1 rs2 1#6, []⟩
  | .and t rd rs1 rs2 => some ⟨.A, pRR t 0#6 rd rs1 rs2 2#6, []⟩
  | .or t rd rs1 rs2 => some ⟨.A, pRR t 0#6 rd rs1 rs2 3#6, []⟩
  | .xor t rd rs1 rs2 => some ⟨.A, pRR t 0#6 rd rs1 rs2 4#6, []⟩
  | .andn t rd rs1 rs2 => some ⟨.A, pRR t 0#6 rd rs1 rs2 5#6, []⟩
  | .shl t rd rs1 rs2 => some ⟨.A, pRR t 0#6 rd rs1 rs2 6#6, []⟩
  | .shr t rd rs1 rs2 => some ⟨.A, pRR t 0#6 rd rs1 rs2 7#6, []⟩
  | .sar t rd rs1 rs2 => some ⟨.A, pRR t 0#6 rd rs1 rs2 8#6, []⟩
  | .mul t rd rs1 rs2 => some ⟨.A, pRR t 0#6 rd rs1 rs2 9#6, []⟩
  | .mulh t rd rs1 rs2 => some ⟨.A, pRR t 0#6 rd rs1 rs2 10#6, []⟩
  | .mulhu t rd rs1 rs2 => some ⟨.A, pRR t 0#6 rd rs1 rs2 11#6, []⟩
  | .min t rd rs1 rs2 => some ⟨.A, pRR t 0#6 rd rs1 rs2 12#6, []⟩
  | .max t rd rs1 rs2 => some ⟨.A, pRR t 0#6 rd rs1 rs2 13#6, []⟩
  | .minu t rd rs1 rs2 => some ⟨.A, pRR t 0#6 rd rs1 rs2 14#6, []⟩
  | .maxu t rd rs1 rs2 => some ⟨.A, pRR t 0#6 rd rs1 rs2 15#6, []⟩
  | .slt t rd rs1 rs2 => some ⟨.A, pRR t 0#6 rd rs1 rs2 16#6, []⟩
  | .sltu t rd rs1 rs2 => some ⟨.A, pRR t 0#6 rd rs1 rs2 17#6, []⟩
  | .seq t rd rs1 rs2 => some ⟨.A, pRR t 0#6 rd rs1 rs2 18#6, []⟩
  | .sne t rd rs1 rs2 => some ⟨.A, pRR t 0#6 rd rs1 rs2 19#6, []⟩
  | .clz t rd rs1 => some ⟨.A, pRR t 0#6 rd rs1 0#6 20#6, []⟩
  | .ctz t rd rs1 => some ⟨.A, pRR t 0#6 rd rs1 0#6 21#6, []⟩
  | .popc t rd rs1 => some ⟨.A, pRR t 0#6 rd rs1 0#6 22#6, []⟩
  | .addi t rd rs1 imm => some ⟨.A, pRI t 1#6 rd rs1 imm, []⟩
  | .andi t rd rs1 imm => some ⟨.A, pRI t 2#6 rd rs1 imm, []⟩
  | .ori t rd rs1 imm => some ⟨.A, pRI t 3#6 rd rs1 imm, []⟩
  | .xori t rd rs1 imm => some ⟨.A, pRI t 4#6 rd rs1 imm, []⟩
  | .slti t rd rs1 imm => some ⟨.A, pRI t 8#6 rd rs1 imm, []⟩
  | .shli t rd rs1 sh => some ⟨.A, pRR t 5#6 rd rs1 0#6 sh, []⟩
  | .shri t rd rs1 sh => some ⟨.A, pRR t 6#6 rd rs1 0#6 sh, []⟩
  | .sari t rd rs1 sh => some ⟨.A, pRR t 7#6 rd rs1 0#6 sh, []⟩
  | .lui t rd imm => some ⟨.A, pRL t 9#6 rd imm, []⟩
  | .liw t rd value => some ⟨.A, pRL t 10#6 rd 0#18, [value.extractLsb' 0 32, value.extractLsb' 32 32]⟩
  | .bfx t rd rs1 pos len1 => some ⟨.A, pRR t 11#6 rd rs1 pos len1, []⟩
  | .bfi t rd rs1 pos len1 => some ⟨.A, pRR t 12#6 rd rs1 pos len1, []⟩
  | .sel t rd rs1 rs2 ac => some ⟨.A, pRR t 13#6 rd rs1 rs2 ac, []⟩
  | .agen t rd rs1 rs2 k => some ⟨.A, pRR t 14#6 rd rs1 rs2 k, []⟩
  | .astep t rd rs1 rs2 i j => some ⟨.A, pRR t 15#6 rd rs1 rs2 (0#2 ++ j ++ i), []⟩
  | .br t off => some ⟨.A, pBL t 16#6 off, []⟩
  | .beq t rs1 rs2 off => some ⟨.A, pBC t 17#6 rs1 rs2 off, []⟩
  | .bne t rs1 rs2 off => some ⟨.A, pBC t 18#6 rs1 rs2 off, []⟩
  | .blt t rs1 rs2 off => some ⟨.A, pBC t 19#6 rs1 rs2 off, []⟩
  | .bge t rs1 rs2 off => some ⟨.A, pBC t 20#6 rs1 rs2 off, []⟩
  | .bltu t rs1 rs2 off => some ⟨.A, pBC t 21#6 rs1 rs2 off, []⟩
  | .bgeu t rs1 rs2 off => some ⟨.A, pBC t 22#6 rs1 rs2 off, []⟩
  | .call t off => some ⟨.A, pBL t 23#6 off, []⟩
  | .jr t rs1 imm => some ⟨.A, pRI t 24#6 0#6 rs1 imm, []⟩
  | .bqp t rs1 => some ⟨.A, pRR t 25#6 0#6 rs1 0#6 0#6, []⟩
  | .lda t reg base st off => some ⟨.A, pM t 26#6 reg base st off, []⟩
  | .sta t reg base st off => some ⟨.A, pM t 27#6 reg base st off, []⟩
  | .ldq t q base st off => some ⟨.A, pM t 28#6 q base st off, []⟩
  | .stq t q base st off => some ⟨.A, pM t 30#6 q base st off, []⟩
  | .pref t hint base st off => some ⟨.A, pM t 34#6 hint base st off, []⟩
  | .ldq2d t q base st off rows rowBytes => some ⟨.A, pM t 29#6 q base st off, [rows ++ rowBytes ++ 0#15]⟩
  | .stq2d t q base st off rows rowBytes => some ⟨.A, pM t 31#6 q base st off, [rows ++ rowBytes ++ 0#15]⟩
  | .gathq t q base st off esz isq shift => some ⟨.A, pM t 32#6 q base st off, [esz ++ isq ++ shift ++ 0#24]⟩
  | .scatq t q base st off esz isq shift => some ⟨.A, pM t 33#6 q base st off, [esz ++ isq ++ shift ++ 0#24]⟩
  | .amoAdd t ra rb st ao => some ⟨.A, pQ t 35#6 ra rb st 0#5 1#3, [ao ++ 0#26]⟩
  | .amoAddN t rb st ao => some ⟨.A, pQ t 35#6 0#6 rb st 1#5 1#3, [ao ++ 0#26]⟩
  | .amoAnd t ra rb st ao => some ⟨.A, pQ t 35#6 ra rb st 2#5 1#3, [ao ++ 0#26]⟩
  | .amoAndN t rb st ao => some ⟨.A, pQ t 35#6 0#6 rb st 3#5 1#3, [ao ++ 0#26]⟩
  | .amoOr t ra rb st ao => some ⟨.A, pQ t 35#6 ra rb st 4#5 1#3, [ao ++ 0#26]⟩
  | .amoOrN t rb st ao => some ⟨.A, pQ t 35#6 0#6 rb st 5#5 1#3, [ao ++ 0#26]⟩
  | .amoXor t ra rb st ao => some ⟨.A, pQ t 35#6 ra rb st 6#5 1#3, [ao ++ 0#26]⟩
  | .amoXorN t rb st ao => some ⟨.A, pQ t 35#6 0#6 rb st 7#5 1#3, [ao ++ 0#26]⟩
  | .amoMin t ra rb st ao => some ⟨.A, pQ t 35#6 ra rb st 8#5 1#3, [ao ++ 0#26]⟩
  | .amoMinN t rb st ao => some ⟨.A, pQ t 35#6 0#6 rb st 9#5 1#3, [ao ++ 0#26]⟩
  | .amoMax t ra rb st ao => some ⟨.A, pQ t 35#6 ra rb st 10#5 1#3, [ao ++ 0#26]⟩
  | .amoMaxN t rb st ao => some ⟨.A, pQ t 35#6 0#6 rb st 11#5 1#3, [ao ++ 0#26]⟩
  | .amoMinu t ra rb st ao => some ⟨.A, pQ t 35#6 ra rb st 12#5 1#3, [ao ++ 0#26]⟩
  | .amoMinuN t rb st ao => some ⟨.A, pQ t 35#6 0#6 rb st 13#5 1#3, [ao ++ 0#26]⟩
  | .amoMaxu t ra rb st ao => some ⟨.A, pQ t 35#6 ra rb st 14#5 1#3, [ao ++ 0#26]⟩
  | .amoMaxuN t rb st ao => some ⟨.A, pQ t 35#6 0#6 rb st 15#5 1#3, [ao ++ 0#26]⟩
  | .amoSwap t ra rb st ao => some ⟨.A, pQ t 35#6 ra rb st 16#5 1#3, [ao ++ 0#26]⟩
  | .amoSwapN t rb st ao => some ⟨.A, pQ t 35#6 0#6 rb st 17#5 1#3, [ao ++ 0#26]⟩
  | .cas t ra rb st ac an => some ⟨.A, pQ t 36#6 ra rb st 0#5 1#3, [ac ++ an ++ 0#20]⟩
  | .faaC t ra rb st ao => some ⟨.A, pQ t 37#6 ra rb st 0#5 1#3, [ao ++ 0#26]⟩
  | .fenceS t st => some ⟨.A, pRL t 38#6 0#6 (0#14 ++ st), []⟩
  | .fenceX t mask => some ⟨.A, pRL t 38#6 0#6 (1#2 ++ mask), []⟩
  | .fenceD t => some ⟨.A, pRL t 38#6 0#6 (2#2 ++ 0#16), []⟩
  | .acq t rb st scope => some ⟨.A, pQ t 39#6 0#6 rb st scope 0#3, []⟩
  | .rel t rb st scope => some ⟨.A, pQ t 40#6 0#6 rb st scope 0#3, []⟩
  | .relSt t ra rb st scope => some ⟨.A, pQ t 41#6 ra rb st scope 0#3, []⟩
  | .bind t ra rb st kind ao => some ⟨.A, pQ t 42#6 ra rb st kind 1#3, [ao ++ 0#26]⟩
  | .unbind t ra st => some ⟨.A, pQ t 43#6 ra 0#6 st 0#5 0#3, []⟩
  | .barInit t ra rb st ab => some ⟨.A, pQ t 44#6 ra rb st 0#5 1#3, [ab ++ 0#26]⟩
  | .barExpect t ra rb st => some ⟨.A, pQ t 44#6 ra rb st 4#5 0#3, []⟩
  | .barArrive t ra rb st scope => some ⟨.A, pQ t 44#6 ra rb st (2#3 ++ scope) 0#3, []⟩
  | .barWait t ra rb st scope => some ⟨.A, pQ t 44#6 ra rb st (3#3 ++ scope) 0#3, []⟩
  | .barTest t ra rb st => some ⟨.A, pQ t 44#6 ra rb st 16#5 0#3, []⟩
  | .barFlags t ra rb st => some ⟨.A, pQ t 44#6 ra rb st 20#5 0#3, []⟩
  | .waitC t nl ns nc nt => some ⟨.A, pRR t 45#6 nl ns nc nt, []⟩
  | .bobArm t ra rb st => some ⟨.A, pQ t 46#6 ra rb st 0#5 0#3, []⟩
  | .bobDisarm t ra rb st => some ⟨.A, pQ t 46#6 ra rb st 1#5 0#3, []⟩
  | .bobRead t ra rb st => some ⟨.A, pQ t 46#6 ra rb st 2#5 0#3, []⟩
  | .suspMk t ra rb st ah => some ⟨.A, pQ t 47#6 ra rb st 0#5 1#3, [ah ++ 0#26]⟩
  | .suspFill t ra rb st aL ab => some ⟨.A, pQ t 47#6 ra rb st 1#5 1#3, [aL ++ ab ++ 0#20]⟩
  | .suspPeek t ra rb st => some ⟨.A, pQ t 47#6 ra rb st 2#5 0#3, []⟩
  | .cpy t ra rb st aL ab p1 p2 => some ⟨.A, pQ t 48#6 ra rb st 0#5 2#3, [aL ++ ab ++ 0#20, p1 ++ p2 ++ 0#16]⟩
  | .cpy2d t ra rb st aL ab p1 p2 ap => some ⟨.A, pQ t 49#6 ra rb st 0#5 3#3, [aL ++ ab ++ 0#20, p1 ++ p2 ++ 0#16, ap ++ 0#26]⟩
  | .cpyRed t ra rb st aL ab p1 p2 ty => some ⟨.A, pQ t 50#6 ra rb st (0#3 ++ ty) 2#3, [aL ++ ab ++ 0#20, p1 ++ p2 ++ 0#16]⟩
  | .cpyMc t ra rb st aL ab p1 p2 => some ⟨.A, pQ t 51#6 ra rb st 0#5 2#3, [aL ++ ab ++ 0#20, p1 ++ p2 ++ 0#16]⟩
  | .cpyDec t ra rb st aL ab p1 p2 slot => some ⟨.A, pQ t 52#6 ra rb st (0#3 ++ slot) 2#3, [aL ++ ab ++ 0#20, p1 ++ p2 ++ 0#16]⟩
  | .ctbl t rb st slot => some ⟨.A, pQ t 53#6 0#6 rb st (0#3 ++ slot) 0#3, []⟩
  | .cpyCsum t ra rb st aL ab p1 p2 => some ⟨.A, pQ t 54#6 ra rb st 0#5 2#3, [aL ++ ab ++ 0#20, p1 ++ p2 ++ 0#16]⟩
  | .stashPut t ra rb st aL ab policy tier place aa => some ⟨.A, pQ t 55#6 ra rb st 0#5 2#3, [aL ++ ab ++ policy ++ tier ++ place ++ 0#15, aa ++ 0#26]⟩
  | .stashDrop t rb st => some ⟨.A, pQ t 55#6 0#6 rb st 1#5 0#3, []⟩
  | .stashFetch t ra rb st ab => some ⟨.A, pQ t 55#6 ra rb st 2#5 1#3, [0#6 ++ ab ++ 0#20]⟩
  | .stashFree t rb st => some ⟨.A, pQ t 55#6 0#6 rb st 3#5 0#3, []⟩
  | .chSend t ra rb st aL ab p1 p2 => some ⟨.A, pQ t 56#6 ra rb st 0#5 2#3, [aL ++ ab ++ 0#20, p1 ++ p2 ++ 0#16]⟩
  | .chFree t ra rb st => some ⟨.A, pQ t 57#6 ra rb st 0#5 0#3, []⟩
  | .chWin t ra rb st => some ⟨.A, pQ t 58#6 ra rb st 0#5 0#3, []⟩
  | .taskPut t ra rb st ac ab km1 opc => some ⟨.A, pQ t 59#6 ra rb st 0#5 1#3, [ac ++ ab ++ km1 ++ opc ++ 0#10]⟩
  | .taskPutp t ra rb st ac ab km1 opc p1 p2 => some ⟨.A, pQ t 59#6 ra rb st 1#5 2#3, [ac ++ ab ++ km1 ++ opc ++ 0#10, p1 ++ p2 ++ 0#16]⟩
  | .taskCancel t ra rb st => some ⟨.A, pQ t 59#6 ra rb st 2#5 0#3, []⟩
  | .accInit t ra rb st as => some ⟨.A, pQ t 60#6 ra rb st 0#5 1#3, [as ++ 0#26]⟩
  | .accDrain t ra rb st aP ab => some ⟨.A, pQ t 60#6 ra rb st 1#5 1#3, [aP ++ ab ++ 0#20]⟩
  | .trdArrive t ra st => some ⟨.A, pQ t 61#6 ra 0#6 st 0#5 0#3, []⟩
  | .trdVpin t ra rb st publish named panel stage => some ⟨.A, pQ t 61#6 ra rb st 1#5 1#3, [publish ++ named ++ 0#3 ++ panel ++ 0#16 ++ stage]⟩
  | .trdVunpin t rb st => some ⟨.A, pQ t 61#6 0#6 rb st 2#5 0#3, []⟩
  | .trdInfo t ra rb st => some ⟨.A, pQ t 61#6 ra rb st 3#5 0#3, []⟩
  | .trdDiff t rb st ab => some ⟨.A, pQ t 61#6 0#6 rb st 4#5 1#3, [ab ++ 0#26]⟩
  | .trdCancel t ra rb st => some ⟨.A, pQ t 61#6 ra rb st 5#5 0#3, []⟩
  | .csrr t rd csr => some ⟨.A, pRI t 62#6 rd 0#6 (0#4 ++ csr), []⟩
  | .csrw t rs1 csr => some ⟨.A, pRI t 62#6 0#6 rs1 (1#4 ++ csr), []⟩
  | .trap t code => some ⟨.A, pRI t 62#6 0#6 0#6 (2#4 ++ code), []⟩
  | .rett t rs1 => some ⟨.A, pRI t 62#6 0#6 rs1 (3#4 ++ 0#8), []⟩
  | .yield t n => some ⟨.A, pRI t 62#6 0#6 0#6 (4#4 ++ n), []⟩
  | .ctxSave t rd rs1 => some ⟨.A, pRI t 62#6 rd rs1 (5#4 ++ 0#8), []⟩
  | .ctxLoad t rs1 => some ⟨.A, pRI t 62#6 0#6 rs1 (6#4 ++ 0#8), []⟩
  | .linkPark t rd width port => some ⟨.A, pRI t 62#6 rd 0#6 (7#4 ++ 0#2 ++ width ++ port), []⟩
  | .linkWake t rd width port => some ⟨.A, pRI t 62#6 rd 0#6 (8#4 ++ 0#2 ++ width ++ port), []⟩
  | .sadd t rd rs1 rs2 => some ⟨.X, pRR t 0#6 rd rs1 rs2 0#6, []⟩
  | .ssub t rd rs1 rs2 => some ⟨.X, pRR t 0#6 rd rs1 rs2 1#6, []⟩
  | .smul t rd rs1 rs2 => some ⟨.X, pRR t 0#6 rd rs1 rs2 2#6, []⟩
  | .smin t rd rs1 rs2 => some ⟨.X, pRR t 0#6 rd rs1 rs2 3#6, []⟩
  | .smax t rd rs1 rs2 => some ⟨.X, pRR t 0#6 rd rs1 rs2 4#6, []⟩
  | .sand t rd rs1 rs2 => some ⟨.X, pRR t 0#6 rd rs1 rs2 5#6, []⟩
  | .sor t rd rs1 rs2 => some ⟨.X, pRR t 0#6 rd rs1 rs2 6#6, []⟩
  | .sxor t rd rs1 rs2 => some ⟨.X, pRR t 0#6 rd rs1 rs2 7#6, []⟩
  | .sshl t rd rs1 rs2 => some ⟨.X, pRR t 0#6 rd rs1 rs2 8#6, []⟩
  | .sshr t rd rs1 rs2 => some ⟨.X, pRR t 0#6 rd rs1 rs2 9#6, []⟩
  | .fadd t rd rs1 rs2 => some ⟨.X, pRR t 0#6 rd rs1 rs2 10#6, []⟩
  | .fsub t rd rs1 rs2 => some ⟨.X, pRR t 0#6 rd rs1 rs2 11#6, []⟩
  | .fmul t rd rs1 rs2 => some ⟨.X, pRR t 0#6 rd rs1 rs2 12#6, []⟩
  | .fmin t rd rs1 rs2 => some ⟨.X, pRR t 0#6 rd rs1 rs2 13#6, []⟩
  | .fmax t rd rs1 rs2 => some ⟨.X, pRR t 0#6 rd rs1 rs2 14#6, []⟩
  | .fcmp t rd rs1 rs2 => some ⟨.X, pRR t 0#6 rd rs1 rs2 15#6, []⟩
  | .sfma t rd rs1 rs2 rs3 => some ⟨.X, pRR t 1#6 rd rs1 rs2 rs3, []⟩
  | .scvt t rd rs1 code => some ⟨.X, pRR t 2#6 rd rs1 0#6 code, []⟩
  | .sli t rd imm => some ⟨.X, pRL t 3#6 rd imm, []⟩
  | .smovq t rd rs1 idx => some ⟨.X, pRR t 4#6 rd rs1 0#6 idx, []⟩
  | .vadd t h vd va vb sat => some ⟨.X, pRR t 8#6 vd va vb 0#6, [vext h (0#23 ++ sat)]⟩
  | .vsub t h vd va vb sat => some ⟨.X, pRR t 8#6 vd va vb 1#6, [vext h (0#23 ++ sat)]⟩
  | .vmul t h vd va vb sat => some ⟨.X, pRR t 8#6 vd va vb 2#6, [vext h (0#23 ++ sat)]⟩
  | .vmin t h vd va vb => some ⟨.X, pRR t 8#6 vd va vb 3#6, [vext h (0#24)]⟩
  | .vmax t h vd va vb => some ⟨.X, pRR t 8#6 vd va vb 4#6, [vext h (0#24)]⟩
  | .vabs t h vd va sat => some ⟨.X, pRR t 8#6 vd va 0#6 5#6, [vext h (0#23 ++ sat)]⟩
  | .vneg t h vd va sat => some ⟨.X, pRR t 8#6 vd va 0#6 6#6, [vext h (0#23 ++ sat)]⟩
  | .vand t h vd va vb => some ⟨.X, pRR t 8#6 vd va vb 7#6, [vext h (0#24)]⟩
  | .vor t h vd va vb => some ⟨.X, pRR t 8#6 vd va vb 8#6, [vext h (0#24)]⟩
  | .vxor t h vd va vb => some ⟨.X, pRR t 8#6 vd va vb 9#6, [vext h (0#24)]⟩
  | .vshl t h vd va vb => some ⟨.X, pRR t 8#6 vd va vb 10#6, [vext h (0#24)]⟩
  | .vshr t h vd va vb => some ⟨.X, pRR t 8#6 vd va vb 11#6, [vext h (0#24)]⟩
  | .vsar t h vd va vb => some ⟨.X, pRR t 8#6 vd va vb 12#6, [vext h (0#24)]⟩
  | .vmov t h vd va => some ⟨.X, pRR t 8#6 vd va 0#6 13#6, [vext h (0#24)]⟩
  | .vaddVs t h vd va sb sat => some ⟨.X, pRR t 8#6 vd va sb 32#6, [vext h (0#23 ++ sat)]⟩
  | .vsubVs t h vd va sb sat => some ⟨.X, pRR t 8#6 vd va sb 33#6, [vext h (0#23 ++ sat)]⟩
  | .vmulVs t h vd va sb sat => some ⟨.X, pRR t 8#6 vd va sb 34#6, [vext h (0#23 ++ sat)]⟩
  | .vminVs t h vd va sb => some ⟨.X, pRR t 8#6 vd va sb 35#6, [vext h (0#24)]⟩
  | .vmaxVs t h vd va sb => some ⟨.X, pRR t 8#6 vd va sb 36#6, [vext h (0#24)]⟩
  | .vandVs t h vd va sb => some ⟨.X, pRR t 8#6 vd va sb 39#6, [vext h (0#24)]⟩
  | .vorVs t h vd va sb => some ⟨.X, pRR t 8#6 vd va sb 40#6, [vext h (0#24)]⟩
  | .vxorVs t h vd va sb => some ⟨.X, pRR t 8#6 vd va sb 41#6, [vext h (0#24)]⟩
  | .vshlVs t h vd va sb => some ⟨.X, pRR t 8#6 vd va sb 42#6, [vext h (0#24)]⟩
  | .vshrVs t h vd va sb => some ⟨.X, pRR t 8#6 vd va sb 43#6, [vext h (0#24)]⟩
  | .vsarVs t h vd va sb => some ⟨.X, pRR t 8#6 vd va sb 44#6, [vext h (0#24)]⟩
  | .vmovVs t h vd sb => some ⟨.X, pRR t 8#6 vd 0#6 sb 45#6, [vext h (0#24)]⟩
  | .vfma t h vd va vb vc => some ⟨.X, pRR t 9#6 vd va vb 0#6, [vext h (0#18 ++ vc)]⟩
  | .vfms t h vd va vb vc => some ⟨.X, pRR t 10#6 vd va vb 0#6, [vext h (0#18 ++ vc)]⟩
  | .vcmp t h kd va vb cond => some ⟨.X, pRR t 11#6 kd va vb cond, [vext h (0#24)]⟩
  | .vsel t h vd va vb ks => some ⟨.X, pRR t 12#6 vd va vb (0#3 ++ ks), [vext h (0#24)]⟩
  | .vclamp t h vd va sb => some ⟨.X, pRR t 13#6 vd va sb 0#6, [vext h (0#24)]⟩
  | .vcvt t h vd va => some ⟨.X, pRR t 14#6 vd va 0#6 0#6, [vext h (0#24)]⟩
  | .vquant t h vd va vs => some ⟨.X, pRR t 15#6 vd va 0#6 0#6, [vext h (0#18 ++ vs)]⟩
  | .vdeq t h vd va vb => some ⟨.X, pRR t 16#6 vd va vb 0#6, [vext h (0#24)]⟩
  | .vredSumRow t h vd va wide sat => some ⟨.X, pRR t 17#6 vd va 0#6 0#6, [vext h (0#22 ++ wide ++ sat)]⟩
  | .vredSumCol t h vd va wide sat => some ⟨.X, pRR t 17#6 vd va 0#6 1#6, [vext h (0#22 ++ wide ++ sat)]⟩
  | .vredMaxRow t h vd va wide sat => some ⟨.X, pRR t 17#6 vd va 0#6 2#6, [vext h (0#22 ++ wide ++ sat)]⟩
  | .vredMaxCol t h vd va wide sat => some ⟨.X, pRR t 17#6 vd va 0#6 3#6, [vext h (0#22 ++ wide ++ sat)]⟩
  | .vredMinRow t h vd va wide sat => some ⟨.X, pRR t 17#6 vd va 0#6 4#6, [vext h (0#22 ++ wide ++ sat)]⟩
  | .vredMinCol t h vd va wide sat => some ⟨.X, pRR t 17#6 vd va 0#6 5#6, [vext h (0#22 ++ wide ++ sat)]⟩
  | .vshuf t h vd va vb => some ⟨.X, pRR t 18#6 vd va vb 0#6, [vext h (0#24)]⟩
  | .vrotRow t h vd va n => some ⟨.X, pRR t 19#6 vd va 0#6 0#6, [vext h (0#13 ++ n)]⟩
  | .vrotCol t h vd va n => some ⟨.X, pRR t 19#6 vd va 0#6 1#6, [vext h (0#13 ++ n)]⟩
  | .vtran t h vd va => some ⟨.X, pRR t 20#6 vd va 0#6 0#6, [vext h (0#24)]⟩
  | .vbcRow t h vd va => some ⟨.X, pRR t 21#6 vd va 0#6 0#6, [vext h (0#24)]⟩
  | .vbcCol t h vd va => some ⟨.X, pRR t 21#6 vd va 0#6 1#6, [vext h (0#24)]⟩
  | .vexp2 t h vd va => some ⟨.X, pRR t 22#6 vd va 0#6 0#6, [vext h (0#24)]⟩
  | .vlog2 t h vd va => some ⟨.X, pRR t 22#6 vd va 0#6 1#6, [vext h (0#24)]⟩
  | .vrcp t h vd va => some ⟨.X, pRR t 22#6 vd va 0#6 2#6, [vext h (0#24)]⟩
  | .vrsq t h vd va => some ⟨.X, pRR t 22#6 vd va 0#6 3#6, [vext h (0#24)]⟩
  | .vtanh t h vd va => some ⟨.X, pRR t 22#6 vd va 0#6 4#6, [vext h (0#24)]⟩
  | .vsigm t h vd va => some ⟨.X, pRR t 22#6 vd va 0#6 5#6, [vext h (0#24)]⟩
  | .shape t rlog cols => some ⟨.X, pRL t 24#6 0#6 (0#3 ++ rlog ++ cols), []⟩
  | .kset t kd rs1 pat => some ⟨.X, pRR t 25#6 kd rs1 0#6 pat, []⟩
  | .kand t kd ka kb => some ⟨.X, pRR t 26#6 kd ka kb 0#6, []⟩
  | .kor t kd ka kb => some ⟨.X, pRR t 26#6 kd ka kb 1#6, []⟩
  | .kxor t kd ka kb => some ⟨.X, pRR t 26#6 kd ka kb 2#6, []⟩
  | .knot t kd ka => some ⟨.X, pRR t 26#6 kd ka 0#6 3#6, []⟩
  | .brq t off => some ⟨.X, pBL t 27#6 off, []⟩
  | .brk t k cond off => some ⟨.X, pBC t 28#6 k cond off, []⟩
  | .brx t rs cond off => some ⟨.X, pBC t 29#6 rs cond off, []⟩
  | .qskip t q count => some ⟨.X, pRI t 30#6 q 0#6 count, []⟩
  | .ftsel t value => some ⟨.X, pRI t 31#6 0#6 0#6 (0#4 ++ value), []⟩
  | .vseed t rs1 rs2 => some ⟨.X, pRR t 32#6 0#6 rs1 rs2 0#6, []⟩
  | .sflags t rd clr => some ⟨.X, pRR t 33#6 rd 0#6 0#6 (0#5 ++ clr), []⟩
  | .loop body count => some ⟨.J, pJL 0#6 body (0#2 ++ count), []⟩
  | .loopr body ra => some ⟨.J, pJL 1#6 body (0#2 ++ ra ++ 0#10), []⟩
  | .safept id kmask amask smask vmask => some ⟨.J, pJB 2#6 (kmask ++ id ++ 0#4), [amask.extractLsb' 0 32, amask.extractLsb' 32 32, smask, vmask]⟩
  | .pickEnd => some ⟨.J, pJB 3#6 0#24, []⟩
  | .slip window => some ⟨.J, pJB 6#6 (0#16 ++ window), []⟩
  | _ => none

/-- The instruction word of an instruction that has one. -/
def wordOf (i : Instr) : Nat := ((encode i).map (·.word.toNat)).getD 0
/-- The first extension word of an instruction that has one. -/
def extOf (i : Instr) : Nat := ((encode i).map (fun e => (e.exts.headD 0).toNat)).getD 0

/-! ## The limits on fields -/

/-- A limit on a field: if p fails, the cause with the detail. -/
def lim (p : Prop) [Decidable p] (c : EncCause) (d : Nat) : Option Illegal := if p then none else some ⟨c, d⟩

/-- The first limit that fails. -/
def firstOf : List (Option Illegal) → Option Illegal
  | [] => none
  | some c :: _ => some c
  | none :: r => firstOf r

/-- An X scalar field (R120). -/
def regS (r : BitVec 6) : Option Illegal := lim (r.toNat < 32) .register r.toNat
/-- A mask field (R120, R218, R228). -/
def regK (r : BitVec 6) : Option Illegal := lim (r.toNat < 8) .register r.toNat
/-- An X vector source field (R120). -/
def regVs (r : BitVec 6) : Option Illegal := lim (r.toNat < 36) .register r.toNat
/-- An X vector destination field (R120). -/
def regVd (r : BitVec 6) : Option Illegal := lim (r.toNat < 32 ∨ r.toNat = 36 ∨ r.toNat = 37) .register r.toNat
/-- The element types of R125. -/
abbrev allTypes (t : BitVec 4) : Prop := t = 0 ∨ t = 1 ∨ t = 2 ∨ t = 6 ∨ t = 7 ∨ t = 8 ∨ t = 9
/-- The integer element types. -/
abbrev intTypes (t : BitVec 4) : Prop := t = 6 ∨ t = 7 ∨ t = 8 ∨ t = 9
/-- The floating element types. -/
abbrev fpTypes (t : BitVec 4) : Prop := t = 0 ∨ t = 1 ∨ t = 2
/-- The assigned control-register numbers (R126, R304). -/
def csrAssigned (n : Nat) : Bool :=
  n ≤ 5 || n == 8 || n == 0x10 || (0x20 ≤ n && n ≤ 0x23) || (0x30 ≤ n && n ≤ 0x32) || (0x34 ≤ n && n ≤ 0x36)
    || (0x80 ≤ n && n ≤ 0x85)
/-- The combinations of R214. -/
def limSmovq (rd rs1 idx : BitVec 6) : Option Illegal :=
  if ¬(rd.toNat < 32 ∨ rd.toNat = 36 ∨ rd.toNat = 37) then some ⟨.register, rd.toNat⟩
  else if ¬(rs1.toNat < 36) then some ⟨.register, rs1.toNat⟩
  else if idx ≠ 0 ∧ ¬(rd.toNat < 32 ∧ 32 ≤ rs1.toNat) then some ⟨.register, idx.toNat⟩
  else none

/-- The limit that an instruction's fields break, if any (R119, R120, R124 to R126, R131 to R133 and the instructions'
own descriptions), with the cause of R341. SHAPE with more than 2,048 columns, which R124 and R215 do not admit and R341 does not list,
has the cause IMMEDIATE (DEDUCED, log 159). -/
def limit (i : Instr) : Option Illegal :=
  match i with
  | .bfx _ _ _ pos len1 => lim (pos.toNat + len1.toNat + 1 ≤ 64) .immediate (pos ++ len1).toNat
  | .bfi _ _ _ pos len1 => lim (pos.toNat + len1.toNat + 1 ≤ 64) .immediate (pos ++ len1).toNat
  | .astep _ _ _ _ i_ _ => lim (i_.toNat ≤ 2) .subop i_.toNat
  | .ldq _ q _ _ _ => lim (q.toNat < 4) .register q.toNat
  | .stq _ q _ _ _ => lim (q.toNat < 2) .register q.toNat
  | .pref _ hint _ _ _ => lim (hint.toNat ≤ 1) .subop hint.toNat
  | .ldq2d _ q _ _ _ _ _ => lim (q.toNat < 4) .register q.toNat
  | .stq2d _ q _ _ _ _ _ => lim (q.toNat < 2) .register q.toNat
  | .gathq _ q _ _ _ _ _ _ => lim (q.toNat < 4) .register q.toNat
  | .scatq _ q _ _ _ _ _ _ => lim (q.toNat < 2) .register q.toNat
  | .acq _ _ _ scope => lim (scope.toNat ≤ 1) .subop scope.toNat
  | .rel _ _ _ scope => lim (scope.toNat ≤ 2) .subop scope.toNat
  | .relSt _ _ _ _ scope => lim (scope.toNat ≤ 2) .subop scope.toNat
  | .bind _ _ _ _ kind _ => lim (kind.toNat ≤ 3) .subop kind.toNat
  | .barArrive _ _ _ _ scope => lim (scope.toNat ≤ 2) .subop (8 + scope.toNat)
  | .barWait _ _ _ _ scope => lim (scope.toNat ≤ 1) .subop (12 + scope.toNat)
  | .stashPut _ _ _ _ _ _ _ _ place _ => lim (place.toNat ≤ 2) .subop place.toNat
  | .taskPut _ ra rb _ _ _ _ opc => firstOf [lim (1 ≤ ra.toNat ∧ ra.toNat ≤ 62) .register ra.toNat, lim (1 ≤ rb.toNat ∧ rb.toNat ≤ 62) .register rb.toNat, lim (opc.toNat ≤ 3) .subop opc.toNat]
  | .taskPutp _ ra rb _ _ _ _ opc _ _ => firstOf [lim (1 ≤ ra.toNat ∧ ra.toNat ≤ 62) .register ra.toNat, lim (1 ≤ rb.toNat ∧ rb.toNat ≤ 62) .register rb.toNat, lim (opc.toNat ≤ 3) .subop opc.toNat]
  | .csrr _ _ csr => lim (csrAssigned csr.toNat) .csr csr.toNat
  | .csrw _ _ csr => lim (csrAssigned csr.toNat) .csr csr.toNat
  | .linkPark _ _ width _ => lim (width ≠ 3) .immediate width.toNat
  | .linkWake _ _ width _ => lim (width ≠ 3) .immediate width.toNat
  | .sadd _ rd rs1 rs2 => firstOf [regS rd, regS rs1, regS rs2]
  | .ssub _ rd rs1 rs2 => firstOf [regS rd, regS rs1, regS rs2]
  | .smul _ rd rs1 rs2 => firstOf [regS rd, regS rs1, regS rs2]
  | .smin _ rd rs1 rs2 => firstOf [regS rd, regS rs1, regS rs2]
  | .smax _ rd rs1 rs2 => firstOf [regS rd, regS rs1, regS rs2]
  | .sand _ rd rs1 rs2 => firstOf [regS rd, regS rs1, regS rs2]
  | .sor _ rd rs1 rs2 => firstOf [regS rd, regS rs1, regS rs2]
  | .sxor _ rd rs1 rs2 => firstOf [regS rd, regS rs1, regS rs2]
  | .sshl _ rd rs1 rs2 => firstOf [regS rd, regS rs1, regS rs2]
  | .sshr _ rd rs1 rs2 => firstOf [regS rd, regS rs1, regS rs2]
  | .fadd _ rd rs1 rs2 => firstOf [regS rd, regS rs1, regS rs2]
  | .fsub _ rd rs1 rs2 => firstOf [regS rd, regS rs1, regS rs2]
  | .fmul _ rd rs1 rs2 => firstOf [regS rd, regS rs1, regS rs2]
  | .fmin _ rd rs1 rs2 => firstOf [regS rd, regS rs1, regS rs2]
  | .fmax _ rd rs1 rs2 => firstOf [regS rd, regS rs1, regS rs2]
  | .fcmp _ rd rs1 rs2 => firstOf [regS rd, regS rs1, regS rs2]
  | .sfma _ rd rs1 rs2 rs3 => firstOf [regS rd, regS rs1, regS rs2, lim (rs3.toNat < 32) .immediate rs3.toNat]
  | .scvt _ rd rs1 code => firstOf [regS rd, regS rs1, lim (code.toNat ≤ 6) .subop code.toNat]
  | .sli _ rd _ => regS rd
  | .smovq _ rd rs1 idx => limSmovq rd rs1 idx
  | .vadd _ h vd va vb sat => firstOf [regVd vd, regVs va, regVs vb, lim (allTypes h.ty ∧ (sat = 1 → intTypes h.ty)) .type (extOf i)]
  | .vsub _ h vd va vb sat => firstOf [regVd vd, regVs va, regVs vb, lim (allTypes h.ty ∧ (sat = 1 → intTypes h.ty)) .type (extOf i)]
  | .vmul _ h vd va vb sat => firstOf [regVd vd, regVs va, regVs vb, lim (allTypes h.ty ∧ (sat = 1 → intTypes h.ty)) .type (extOf i)]
  | .vmin _ h vd va vb => firstOf [regVd vd, regVs va, regVs vb, lim (allTypes h.ty) .type (extOf i)]
  | .vmax _ h vd va vb => firstOf [regVd vd, regVs va, regVs vb, lim (allTypes h.ty) .type (extOf i)]
  | .vabs _ h vd va sat => firstOf [regVd vd, regVs va, lim (allTypes h.ty ∧ h.ty ≠ 7 ∧ (sat = 1 → intTypes h.ty)) .type (extOf i)]
  | .vneg _ h vd va sat => firstOf [regVd vd, regVs va, lim (allTypes h.ty ∧ (sat = 1 → intTypes h.ty)) .type (extOf i)]
  | .vand _ h vd va vb => firstOf [regVd vd, regVs va, regVs vb, lim (intTypes h.ty) .type (extOf i)]
  | .vor _ h vd va vb => firstOf [regVd vd, regVs va, regVs vb, lim (intTypes h.ty) .type (extOf i)]
  | .vxor _ h vd va vb => firstOf [regVd vd, regVs va, regVs vb, lim (intTypes h.ty) .type (extOf i)]
  | .vshl _ h vd va vb => firstOf [regVd vd, regVs va, regVs vb, lim (intTypes h.ty) .type (extOf i)]
  | .vshr _ h vd va vb => firstOf [regVd vd, regVs va, regVs vb, lim (intTypes h.ty) .type (extOf i)]
  | .vsar _ h vd va vb => firstOf [regVd vd, regVs va, regVs vb, lim (intTypes h.ty) .type (extOf i)]
  | .vmov _ h vd va => firstOf [regVd vd, regVs va, lim (allTypes h.ty) .type (extOf i)]
  | .vaddVs _ h vd va sb sat => firstOf [regVd vd, regVs va, regS sb, lim (allTypes h.ty ∧ (sat = 1 → intTypes h.ty)) .type (extOf i)]
  | .vsubVs _ h vd va sb sat => firstOf [regVd vd, regVs va, regS sb, lim (allTypes h.ty ∧ (sat = 1 → intTypes h.ty)) .type (extOf i)]
  | .vmulVs _ h vd va sb sat => firstOf [regVd vd, regVs va, regS sb, lim (allTypes h.ty ∧ (sat = 1 → intTypes h.ty)) .type (extOf i)]
  | .vminVs _ h vd va sb => firstOf [regVd vd, regVs va, regS sb, lim (allTypes h.ty) .type (extOf i)]
  | .vmaxVs _ h vd va sb => firstOf [regVd vd, regVs va, regS sb, lim (allTypes h.ty) .type (extOf i)]
  | .vandVs _ h vd va sb => firstOf [regVd vd, regVs va, regS sb, lim (intTypes h.ty) .type (extOf i)]
  | .vorVs _ h vd va sb => firstOf [regVd vd, regVs va, regS sb, lim (intTypes h.ty) .type (extOf i)]
  | .vxorVs _ h vd va sb => firstOf [regVd vd, regVs va, regS sb, lim (intTypes h.ty) .type (extOf i)]
  | .vshlVs _ h vd va sb => firstOf [regVd vd, regVs va, regS sb, lim (intTypes h.ty) .type (extOf i)]
  | .vshrVs _ h vd va sb => firstOf [regVd vd, regVs va, regS sb, lim (intTypes h.ty) .type (extOf i)]
  | .vsarVs _ h vd va sb => firstOf [regVd vd, regVs va, regS sb, lim (intTypes h.ty) .type (extOf i)]
  | .vmovVs _ h vd sb => firstOf [regVd vd, regS sb, lim (allTypes h.ty) .type (extOf i)]
  | .vfma _ h vd va vb vc => firstOf [regVd vd, regVs va, regVs vb, regVs vc, lim (fpTypes h.ty) .type (extOf i)]
  | .vfms _ h vd va vb vc => firstOf [regVd vd, regVs va, regVs vb, regVs vc, lim (fpTypes h.ty) .type (extOf i)]
  | .vcmp _ h kd va vb cond => firstOf [lim (cond.toNat ≤ 6) .subop cond.toNat, regK kd, regVs va, regVs vb, lim (allTypes h.ty ∧ (cond.toNat = 6 → fpTypes h.ty)) .type (extOf i)]
  | .vsel _ h vd va vb _ => firstOf [regVd vd, regVs va, regVs vb, lim (allTypes h.ty) .type (extOf i)]
  | .vclamp _ h vd va sb => firstOf [regVd vd, regVs va, lim (1 ≤ sb.toNat ∧ sb.toNat ≤ 30) .register sb.toNat, lim (allTypes h.ty) .type (extOf i)]
  | .vcvt _ h vd va => firstOf [regVd vd, regVs va, lim (allTypes h.ty) .type (extOf i)]
  | .vquant _ h vd va vs => firstOf [regVd vd, regVs va, regVd vs, lim (vs ≠ vd) .register vs.toNat, lim (fpTypes h.ty ∧ h.mask = 0 ∧ h.mz = 0) .type (extOf i)]
  | .vdeq _ h vd va vb => firstOf [regVd vd, regVs va, regVs vb, lim (fpTypes h.ty ∧ h.mask = 0 ∧ h.mz = 0) .type (extOf i)]
  | .vredSumRow _ h vd va wide sat => firstOf [regVd vd, regVs va, lim (allTypes h.ty ∧ (sat = 1 → intTypes h.ty) ∧ (wide = 1 → h.ty ≠ 0 ∧ h.ty ≠ 9) ∧ h.mz = 0) .type (extOf i)]
  | .vredSumCol _ h vd va wide sat => firstOf [regVd vd, regVs va, lim (allTypes h.ty ∧ (sat = 1 → intTypes h.ty) ∧ (wide = 1 → h.ty ≠ 0 ∧ h.ty ≠ 9) ∧ h.mz = 0) .type (extOf i)]
  | .vredMaxRow _ h vd va wide sat => firstOf [regVd vd, regVs va, lim (allTypes h.ty ∧ (sat = 1 → intTypes h.ty) ∧ (wide = 1 → h.ty ≠ 0 ∧ h.ty ≠ 9) ∧ h.mz = 0) .type (extOf i)]
  | .vredMaxCol _ h vd va wide sat => firstOf [regVd vd, regVs va, lim (allTypes h.ty ∧ (sat = 1 → intTypes h.ty) ∧ (wide = 1 → h.ty ≠ 0 ∧ h.ty ≠ 9) ∧ h.mz = 0) .type (extOf i)]
  | .vredMinRow _ h vd va wide sat => firstOf [regVd vd, regVs va, lim (allTypes h.ty ∧ (sat = 1 → intTypes h.ty) ∧ (wide = 1 → h.ty ≠ 0 ∧ h.ty ≠ 9) ∧ h.mz = 0) .type (extOf i)]
  | .vredMinCol _ h vd va wide sat => firstOf [regVd vd, regVs va, lim (allTypes h.ty ∧ (sat = 1 → intTypes h.ty) ∧ (wide = 1 → h.ty ≠ 0 ∧ h.ty ≠ 9) ∧ h.mz = 0) .type (extOf i)]
  | .vshuf _ h vd va vb => firstOf [regVd vd, regVs va, regVs vb, lim (allTypes h.ty ∧ h.mz = 0) .type (extOf i)]
  | .vrotRow _ h vd va _ => firstOf [regVd vd, regVs va, lim (allTypes h.ty ∧ h.mz = 0) .type (extOf i)]
  | .vrotCol _ h vd va _ => firstOf [regVd vd, regVs va, lim (allTypes h.ty ∧ h.mz = 0) .type (extOf i)]
  | .vtran _ h vd va => firstOf [regVd vd, regVs va, lim (allTypes h.ty ∧ h.mz = 0) .type (extOf i)]
  | .vbcRow _ h vd va => firstOf [regVd vd, regVs va, lim (allTypes h.ty ∧ h.mz = 0) .type (extOf i)]
  | .vbcCol _ h vd va => firstOf [regVd vd, regVs va, lim (allTypes h.ty ∧ h.mz = 0) .type (extOf i)]
  | .vexp2 _ h vd va => firstOf [regVd vd, regVs va, lim (fpTypes h.ty) .type (extOf i)]
  | .vlog2 _ h vd va => firstOf [regVd vd, regVs va, lim (fpTypes h.ty) .type (extOf i)]
  | .vrcp _ h vd va => firstOf [regVd vd, regVs va, lim (fpTypes h.ty) .type (extOf i)]
  | .vrsq _ h vd va => firstOf [regVd vd, regVs va, lim (fpTypes h.ty) .type (extOf i)]
  | .vtanh _ h vd va => firstOf [regVd vd, regVs va, lim (fpTypes h.ty) .type (extOf i)]
  | .vsigm _ h vd va => firstOf [regVd vd, regVs va, lim (fpTypes h.ty) .type (extOf i)]
  | .shape _ rlog cols => lim (rlog.toNat ≤ 5 ∧ cols ≠ 0 ∧ cols.toNat ≤ 2048) .immediate (rlog ++ cols).toNat
  | .kset _ kd rs1 pat => firstOf [regK kd, regS rs1, lim (pat.toNat ≤ 2) .subop pat.toNat]
  | .kand _ kd ka kb => firstOf [regK kd, regK ka, regK kb]
  | .kor _ kd ka kb => firstOf [regK kd, regK ka, regK kb]
  | .kxor _ kd ka kb => firstOf [regK kd, regK ka, regK kb]
  | .knot _ kd ka => firstOf [regK kd, regK ka]
  | .brk _ k cond _ => firstOf [regK k, lim (cond.toNat ≤ 2) .subop cond.toNat]
  | .brx _ rs cond _ => firstOf [lim (cond.toNat ≤ 4) .subop cond.toNat, lim (cond.toNat = 4 → rs = 0) .reserved (wordOf i), regS rs]
  | .qskip _ q count => firstOf [lim (32 ≤ q.toNat ∧ q.toNat ≤ 35) .register q.toNat, lim (1 ≤ count.toNat ∧ count.toNat ≤ 8) .immediate count.toNat]
  | .vseed _ rs1 rs2 => firstOf [regS rs1, regS rs2]
  | .sflags _ rd _ => regS rd
  | .safept _ kmask amask smask _ => lim (kmask.getLsbD 0 = false ∧ amask.getLsbD 0 = false ∧ smask.getLsbD 0 = false) .reserved (wordOf i)
  | _ => none

/-- Whether the word is of format Q (R118, R129). -/
def isQ (sp : Space) (w : W32) : Bool :=
  let m := (fld w 24 6).toNat
  sp == .A && ((0x23 ≤ m && m ≤ 0x25) || (0x27 ≤ m && m ≤ 0x2C) || (0x2E ≤ m && m ≤ 0x3D))

/-- Whether the word is of format V or VS (R118, R132). -/
def isV (sp : Space) (w : W32) : Bool :=
  let m := (fld w 24 6).toNat
  sp == .X && 8 ≤ m && m ≤ 0x16

/-- One instruction from its word and the extension words that follow it (R115, R118). The causes are tried in the
order major and sub-op, missing words, reserved fields, limits (DEDUCED, log 21). -/
def decodeInstr (sp : Space) (w : W32) (exts : List W32) : Except Illegal Instr :=
  match lookup sp w with
  | .error e => .error e
  | .ok en =>
    if exts.length < en.count ∨ (isQ sp w ∧ (fld w 0 3).toNat ≠ en.count) then .error ⟨.missing, en.count⟩
    else
      let i := en.build (fun n => exts.getD n 0)
      match encode i with
      | none => .error ⟨.reserved, w.toNat⟩
      | some e =>
        if e.word ≠ w then .error ⟨.reserved, w.toNat⟩
        else match (e.exts.zip exts).find? (fun p => p.1 ≠ p.2) with
          | some p => .error ⟨if isV sp w then .type else .reserved, p.2.toNat⟩
          | none => match limit i with
            | some c => .error c
            | none => .ok i

/-! ## Lines -/

/-- An instruction of a line: its lane, its words and what it is. -/
structure LaneOp where
  lane : Nat
  space : Space
  word : W32
  instr : Instr
  deriving DecidableEq, Repr

/-- An ill-formed line: the offending lane, its word, and the cause with DETAIL1 (R341, R342). -/
structure LineFault where
  lane : Nat
  word : W32
  cause : EncCause
  detail : Nat
  deriving DecidableEq, Repr

/-- A decoded line: its region mode (R113) and its instructions in lane order. -/
structure Line where
  exposed : Bool
  ops : List LaneOp
  deriving DecidableEq, Repr

/-- The lanes of R115 in ascending order; skip is how many extension lanes the instruction before may still take and
room says whether an instruction lane stands right before. -/
def decodeLanes (hdr : W32) : List (Nat × Nat × W32) → (skip : Nat) → Except LineFault (List LaneOp)
  | [], _ => .ok []
  | (n, tag, w) :: rest, skip =>
    let instr (sp : Space) : Except LineFault (List LaneOp) :=
      let exts := (rest.takeWhile (fun l => l.2.1 == 3)).map (·.2.2)
      match decodeInstr sp w exts with
      | .error e => .error ⟨n, w, e.cause, e.detail⟩
      | .ok i =>
        let c := ((encode i).map (·.exts.length)).getD 0
        match decodeLanes hdr rest c with
        | .error e => .error e
        | .ok ops => .ok (⟨n, sp, w, i⟩ :: ops)
    if tag = 0 then
      if w ≠ 0 then .error ⟨n, w, .empty, w.toNat⟩ else decodeLanes hdr rest 0
    else if tag = 1 then instr .A
    else if tag = 2 then instr .X
    else if tag = 3 then
      match skip with
      | 0 => .error ⟨n, w, .extension, n⟩
      | k + 1 => decodeLanes hdr rest k
    else if tag = 4 then
      if (fld w 24 6).toNat = 2 ∧ n > 3 then .error ⟨n, w, .composition, 0⟩ else instr .J
    else .error ⟨n, w, .tag, hdr.toNat⟩

/-- An A-engine branch, CALL or JR (R116). -/
def Instr.isABranch : Instr → Bool
  | .br .. | .beq .. | .bne .. | .blt .. | .bge .. | .bltu .. | .bgeu .. | .call .. | .jr .. => true
  | _ => false

/-- A conditional A-engine branch's offset, and BR's (R151). -/
def Instr.aOffset : Instr → Option Int
  | .br _ off => some off.toInt
  | .beq _ _ _ off | .bne _ _ _ off | .blt _ _ _ off | .bge _ _ _ off | .bltu _ _ _ off | .bgeu _ _ _ off => some off.toInt
  | _ => none

/-- An X-engine branch (R229, R230). -/
def Instr.isXBranch : Instr → Bool
  | .brq .. | .brk .. | .brx .. => true
  | _ => false

/-- RETT, CTX.SAVE and CTX.LOAD (R306). -/
def Instr.isContext : Instr → Bool
  | .rett .. | .ctxSave .. | .ctxLoad .. => true
  | _ => false

/-- An X-engine branch that is the partner of the A-engine branch in its line (R231). -/
def partners (a x : Instr) : Bool :=
  match a, x with
  | .br _ off, .brx _ _ cond off' => cond.toNat == 4 && off.toInt == off'.toInt
  | .br .., _ => false
  | _, .brq _ off' => a.aOffset == some off'.toInt
  | _, _ => false

/-- The lane whose instruction breaks R152, R231 or R306, if any: the higher of the lanes concerned (DEDUCED, log 130). -/
def composition (ops : List LaneOp) : Option LaneOp :=
  let as := ops.filter (·.instr.isABranch)
  let xs := ops.filter (·.instr.isXBranch)
  let cs := ops.filter (·.instr.isContext)
  if 1 < xs.length then xs[1]?
  else if 1 < as.length then as[1]?
  else if cs ≠ [] ∧ (1 < cs.length ∨ as ≠ [] ∨ xs ≠ []) then
    (ops.filter (fun o => o.instr.isABranch || o.instr.isXBranch || o.instr.isContext)).getLast?
  else match as.head?, xs.head? with
    | none, none => none
    | none, some x => match x.instr with
      | .brq .. => some x
      | _ => none
    | some a, none => if a.instr.aOffset.isSome then some a else none
    | some a, some x =>
      if a.instr.aOffset.isSome ∧ partners a.instr x.instr then none
      else if a.lane < x.lane then some x else some a

/-- A line from its eight words (R112 to R116, R342). -/
def decodeLine (ws : List W32) : Except LineFault Line :=
  let hdr := ws.getD 0 0
  if hdr.extractLsb' 29 3 ≠ 0 then .error ⟨0, hdr, .header, hdr.toNat⟩
  else
    let lanes := [1, 2, 3, 4, 5, 6, 7].map (fun n => (n, (hdr.toNat / 2 ^ (4 * (n - 1))) % 16, ws.getD n 0))
    match decodeLanes hdr lanes 0 with
    | .error e => .error e
    | .ok ops =>
      match composition ops with
      | some o => .error ⟨o.lane, o.word, .composition, 0⟩
      | none => .ok ⟨hdr.getLsbD 28, ops⟩

/-- A 32-bit word from four bytes, lowest first (R4). -/
def word32 (bs : List Byte) : W32 := bs.getD 3 0 ++ bs.getD 2 0 ++ bs.getD 1 0 ++ bs.getD 0 0

/-- The eight words of a line from its 32 bytes (R112). -/
def lineWords (bs : List Byte) : List W32 := [0, 1, 2, 3, 4, 5, 6, 7].map (fun n => word32 ((bs.drop (4 * n)).take 4))

/-- The bytes of a word, lowest first (R4). -/
def bytes32 (w : W32) : List Byte := [w.extractLsb' 0 8, w.extractLsb' 8 8, w.extractLsb' 16 8, w.extractLsb' 24 8]

/-- The tag of a space's instruction lanes (R114). -/
def Space.tag : Space → Nat
  | .A => 1 | .X => 2 | .J => 4

/-- The header of a scoreboard line whose first lanes hold one instruction with its extension words (R113, R114). -/
def soloHeader (sp : Space) (exts : Nat) : W32 :=
  BitVec.ofNat 32 (sp.tag + ((List.range exts).map (fun k => 3 * 16 ^ (k + 1))).sum)

/-- The words that the opcode table's numbering of bits gives: the instruction word, then six more. -/
def tableWords (w : Nat) : List W32 := (List.range 7).map (fun k => BitVec.ofNat 32 (w / 2 ^ (32 * k)))

/-- The words as an instruction of one space: its words and the instruction. -/
def decodeIn (sp : Space) (ws : List W32) : Option (Words × Instr) :=
  match decodeInstr sp (ws.headD 0) ws.tail with
  | .ok i => (encode i).map (fun e => (e, i))
  | .error _ => none

/-- A table word has no lane tag, so the spaces are tried in the order A, X, joint (DESIGN CHOICE, log 22). -/
def decodeTable (w : Nat) : Option (Words × Instr) :=
  let ws := tableWords w
  match decodeIn .A ws with
  | some r => some r
  | none => match decodeIn .X ws with
    | some r => some r
    | none => decodeIn .J ws

/-- The instruction that the decoder reads from a word numbered as the opcode table numbers it. -/
def decodeTableWord (_nbits w : Nat) : Option Instr := (decodeTable w).map (·.2)

end Sys2Proof
end

