-- ==== Sys2Proof/Machine/State.lean ====
section
/-!
DEFINITION. The state: every piece of state the spec gives the machine, as plain data; the reasons a step can stop; and
the state right after reset.
-/

namespace Sys2Proof.Machine

/-! ## Loom contexts -/

/-- The engines of a loom that walk bundle lines (R31). -/
inductive Eng where
  | A | X
  deriving DecidableEq, Repr

/-- Why a fault is raised: class and cause (R337, R341, R367, R368, R395), ADDR, the detail words, and where it stood
(R335, R348). `src` is the source code of R348, `unit` the detecting unit as UKIND ++ UNUM where it is not the context's
own loom or copy engine, and `bare` marks a fault that no handler takes (R306). -/
structure FaultInfo where
  cls : Nat
  cause : Nat
  addr : Nat := 0
  d0 : Nat := 0
  d1 : Nat := 0
  d2 : Nat := 0
  d3 : Nat := 0
  precise : Bool := true
  remote : Bool := false
  src : Nat := 0
  line : Nat := 0
  lane : Nat := 0
  stream : Nat := 0
  unit : Option Nat := none
  status : Nat := 0
  bare : Bool := false
  deriving DecidableEq, Repr

/-- Why an engine waits (R32, R33, R34, R36, R37, R45, R65, R97, R154, R159, R169, R171, R181, R195, R307, R350). -/
inductive Wait where
  | reg | lq (n had : Nat) | sq (n : Nat) | bq | token | tokenRoom | slip | rendezvous | crossing | walk (va : Nat) | loads | inFlight
  | counter | channel | fence | acquire | release | barrier (pa phase raw : Nat) | waitC (nl ns nc nt : Nat) | yielding | copyQueue
  | lead | context | data | ended | safept | operand (stream : Nat) (a len : Nat) | room (o : W64)
  deriving DecidableEq, Repr

/-- Where a result lands (R349): a register, a store-queue entry, or nowhere (a0, s0 and k0 discard). `entry` is the number of the
entry that the result reserved; a result that a landing list reinstalled has none and fills the oldest pending entry (R351). -/
inductive Dest where
  | a (r : BitVec 6) | s (r : BitVec 5) | v (r : BitVec 5) | k (r : BitVec 3)
  | sq (q : BitVec 1) (len : Nat) (entry : Option Nat) | none
  deriving DecidableEq, Repr

/-- A result in flight (R350): due is the engine cycle of its engine in which it lands; awaiting names the access whose
data it still lacks. -/
structure Result where
  eng : Eng
  dest : Dest
  value : VReg
  due : Nat
  flags : Flags := 0
  post : Bool := false
  awaiting : Option Nat := none
  failed : Bool := false
  deriving DecidableEq, Repr

/-- An entry of a load or store queue (R33, R207): pending until it is filled, by the access that it names for a load queue and by the
result that reserved it for a store queue. -/
structure QEntry where
  data : VReg
  len : Nat
  pending : Bool
  filler : Option Nat := none
  failed : Bool := false
  deriving DecidableEq, Repr

/-- An entry of bq (R153). -/
inductive BqEntry where
  | outcome (taken : Bool) | count (n : Nat) | redirect (target : W64)
  deriving DecidableEq, Repr

/-- One engine's sequencer (R31, R32, R36, R39, R44, R45, R122, R348): its line and lane, the lines it completed, the
word at that lane, lines and SAFEPTs it counts, its engine cycles, its loop state, the mode of the line it last executed, what the
current line has decided so far, and how many results were in flight and which number came next when it began (R306). -/
structure Engine where
  pc : W64 := 0
  lane : Nat := 1
  word : W32 := 0
  inLine : Bool := false
  lines : Nat := 0
  lineCount : Nat := 0
  safepts : Nat := 0
  cyc : Nat := 0
  depth : Nat := 0
  lc : Vector W32 3 := Vector.replicate 3 0
  ln : Vector W32 3 := Vector.replicate 3 0
  bodies : List (Nat × Nat) := []
  mode : Bool := false
  ran : Bool := false
  target : Option W64 := none
  skip : Option W64 := none
  heldRvz : Bool := false
  heldCtx : Bool := false
  ended : Bool := false
  stoppedSafept : Bool := false
  safeptLine : Bool := false
  waiting : Option Wait := none
  began : Nat × Nat := (0, 0)
  deriving DecidableEq, Repr

/-- The outstanding counters of R128. -/
inductive Counter where
  | ldc | stc | cpc | tkc
  deriving DecidableEq, Repr

/-- An operation that a counter counts (R169): by number, with its declared completion in determinate mode, and, for a write, its
stream, the objects that its bytes are bound to and whether it goes to a peer, by which REL.ST knows what it waits for (R170). -/
structure Outstanding where
  id : Nat
  ctr : Counter
  completed : Bool := false
  due : Option Nat := none
  stream : BitVec 4 := 0
  bound : List Nat := []
  remote : Bool := false
  deriving DecidableEq, Repr

/-- A run of bytes of an access: where it lies in the memory list or at a peer, its virtual address, its length and its
place in the queue entry (R61, R161, R168), with the attributes [55:48] of its page. -/
structure Span where
  pa : Nat
  va : Nat
  len : Nat
  off : Nat
  peer : Option Nat := none
  attrs : BitVec 8 := 0
  deriving DecidableEq, Repr

/-- The atomic operations of R165. -/
inductive AtomicOp where
  | add | and | or | xor | min | max | minu | maxu | swap | cas (new : W64) | faaC
  deriving DecidableEq, Repr

/-- What an access does when it is performed. -/
inductive AccKind where
  | load
  | store (data : List Byte) (mc : Bool)
  | atomic (op : AtomicOp) (operand : W64)
  | relSt (value : W64)
  | barInit (narrive nbase : Nat)
  | barExpect (n : Nat)
  | barArrive
  | barTest
  | barFlags
  | timedOut
  | count (n : Nat) (fl : Flags)
  | value (v : W64)
  | bobArm (desc : Nat)
  | bobDisarm (h : W64)
  | bobRead (h : W64)
  | suspMk (desc head : Nat)
  | peek
  deriving DecidableEq, Repr

/-- Where an access's data go: a register, a load queue, or the instruction that waits at issue for what it reads first. -/
inductive AccDest where
  | none | reg (r : BitVec 6) | lq (q : BitVec 2) | operand
  deriving DecidableEq, Repr

/-- An access that has issued and is not performed (R94 to R97, R156). `after` are the operations that must be performed
before it: engine commands of its stream that read bytes which it writes, and those that its release covers. `sent` and `done` are
the spans, by place, whose request has gone to a peer and that are performed; `got` holds the data so far by their offset, `wrote` the
runs of bytes that a store has performed and not counted yet, and `value` what a return value will be. `issued` is its place in the
issue order of the module, `left` its place in the order in which accesses leave their bolts (R57, R319), and `combined` says that it has
been to a combining switch. -/
structure Access where
  id : Nat
  kind : AccKind
  stream : BitVec 4
  spans : List Span
  dest : AccDest
  len : Nat := 0
  after : List Nat := []
  unit : Nat := 1
  line : Nat := 0
  lane : Nat := 0
  word : W32 := 0
  obj : Option Nat := none
  bound : List Nat := []
  sent : List Nat := []
  done : List Nat := []
  got : List (Nat × List Byte) := []
  wrote : List (Nat × Nat) := []
  replays : Nat := 0
  failed : Bool := false
  value : W64 := 0
  issued : Nat := 0
  left : Option Nat := none
  combined : Bool := false
  deriving DecidableEq, Repr

/-- A fence in force (R97): the streams it covers and the accesses that must be performed first. -/
structure Fence where
  mask : BitVec 16
  ids : List Nat
  deriving DecidableEq, Repr

/-- A pending release (R176): its object, the streams covered, its scope and the accesses it covers. -/
structure PendRel where
  obj : Nat
  mask : BitVec 16
  covers : List Nat
  deriving DecidableEq, Repr

/-- What a copy command does (R198, R205, R192). -/
inductive CopyKind where
  | cpy | red (ty : BitVec 2) | mc | dec (slot : BitVec 2) | ctbl (slot : BitVec 2) | csum | send (channel : Nat) | fill
  deriving DecidableEq, Repr

/-- A command of a copy queue (R195 to R201): its number and sequence number, its ranges as bytes lie in order, its
predecessors, its barrier, the accesses that the releases which its count carries cover (R101), and how far it is: how much of its source has been asked for, read, and written, and what has come
from peers and is not used yet. `sum` is the sum of R201, or the block that the decoder has reached. -/
structure CopyCmd where
  id : Nat
  seq : Option (BitVec 16)
  kind : CopyKind
  stream : BitVec 4
  src : List Span
  dst : List Span
  len : Nat
  decoded : Nat := 0
  barrier : Option Span := none
  preds : List (BitVec 16) := []
  after : List Nat := []
  carries : List Nat := []
  started : Bool := false
  sentTo : Nat := 0
  readTo : Nat := 0
  got : List (Nat × List Byte) := []
  wroteTo : Nat := 0
  sum : Nat := 0
  window : Bool := false
  faulted : Bool := false
  replays : Nat := 0
  line : Nat := 0
  lane : Nat := 0
  word : W32 := 0
  deriving DecidableEq, Repr

/-- A numbered command that has not completed (R196), with the scratchpad ranges that the checker of R253 compares; `reading`
while a tile task has not read its operands. -/
structure NumCmd where
  seq : BitVec 16
  id : Nat
  reads : List (Nat × Nat)
  writes : List (Nat × Nat)
  preds : List (BitVec 16)
  stream : BitVec 4 := 0
  reading : Bool := false
  deriving DecidableEq, Repr

/-- An ACC.INIT or ACC.DRAIN that has issued and is not performed (R250, R256 to R258). -/
structure AccOp where
  id : Nat
  drain : Bool
  tile : Nat
  value : W64 := 0
  caddr : W64 := 0
  slots : List Span := []
  asked : Bool := false
  slotGot : List (Nat × List Byte) := []
  rows : List Span := []
  waitRows : List Nat := []
  rowFlags : List Flags := []
  bound : List Nat := []
  ofmt : Nat := 0
  rnd : Nat := 0
  after : List Nat := []
  barrier : Option Span := none
  stream : BitVec 4 := 0
  line : Nat := 0
  lane : Nat := 0
  word : W32 := 0
  deriving DecidableEq, Repr

/-- A read that has returned an update of an object (R104): the object, the stream, and for a barrier where it lies and the phase that
was current. -/
structure Seen where
  obj : Nat
  stream : Nat
  bar : Nat := 0
  phase : Nat := 0
  deriving DecidableEq, Repr

/-- What a context does (R41, R46, R305, R313, R356). -/
inductive Activity where
  | idle | running | stopped | parked | draining | dead
  deriving DecidableEq, Repr

/-- A fault that has stopped a context (R305): the fault, whether it is handled, and whether its record has its RSEQ. -/
structure StopInfo where
  fault : FaultInfo
  handled : Bool
  rseq : Option (BitVec 16) := none
  deriving DecidableEq, Repr

/-- A pre-emption or cancel that has reached the loom, with its k (R45). -/
structure ReqInfo where
  preempt : Bool
  k : Nat
  launch : Nat := 0
  deriving DecidableEq, Repr

/-- The evaluation that a context runs (R41, R190, R191). -/
structure Evaluation where
  sid : W32
  chain : List W32
  head : Nat
  headVa : W64
  extent : Nat
  arg : W64
  entry : W64
  picktag : W64
  wver : W64
  gangid : W64
  peer : Nat
  deriving DecidableEq, Repr

/-- What a saved context or a frame has no place for and the loom keeps beside it, under the address of its area (DEDUCED, log 9):
the bodies of the active loops of the two engines, and the outcomes of rendezvous lines that only the X-engine has
completed. -/
structure Kept where
  bodiesA : List (Nat × Nat)
  bodiesX : List (Nat × Nat)
  rvz : List (Option W64)
  deriving DecidableEq, Repr

/-- One context of a loom (R41, R122). The pick context and the evaluator context each have one. -/
structure Ctx where
  act : Activity := .idle
  peer : Nat := 0
  a : Vector W64 64 := Vector.replicate 64 0
  s : Vector W32 32 := Vector.replicate 32 0
  v : Vector VReg 32 := Vector.replicate 32 0
  k : Vector KReg 8 := Vector.replicate 8 0
  vshape : W32 := 0x200
  flags : Flags := 0
  pickFlags : Flags := 0
  ftx : W32 := 3
  g : W64 := 0
  picktag : W64 := 0
  pass : W64 := 0
  wver : W64 := 0
  gangid : W64 := 0
  slipw : BitVec 8 := 64
  ftbase : BitVec 8 := 3
  tvec : W64 := 0
  tframe : W64 := 0
  tcause : W64 := 0
  ea : Engine := {}
  ex : Engine := {}
  lq : Vector (List QEntry) 4 := Vector.replicate 4 []
  sq : Vector (List QEntry) 2 := Vector.replicate 2 []
  bq : List BqEntry := []
  tokAX : Nat := 0
  tokXA : Nat := 0
  resAX : Nat := 0
  resXA : Nat := 0
  inFlight : List Result := []
  accs : List Access := []
  outs : List Outstanding := []
  nextId : Nat := 0
  fences : List Fence := []
  rels : List PendRel := []
  seen : List Seen := []
  barWait : Option (Nat × Nat × Nat) := none
  barSeen : Option (Nat × Nat) := none
  operands : List (Nat × List Byte) := []
  seq : BitVec 16 := 0
  cmds : List NumCmd := []
  copyLoad : List CopyCmd := []
  copyStore : List CopyCmd := []
  accOps : List AccOp := []
  detCyc : Nat := 0
  xferEnd : Nat × Nat := (0, 0)
  ahead : List (Option W64) := []
  rvz : List (Option W64) := []
  stop : Option StopInfo := none
  more : List FaultInfo := []
  req : Option ReqInfo := none
  eval : Option Evaluation := none
  pick : Option Nat := none
  yielding : Option Bool := none
  faulted : Bool := false
  cancelled : Bool := false
  kept : SMap Kept := []
  safept : Nat × W64 × W32 × W32 × BitVec 8 := (0, 0, 0, 0, 0)
  plane : Nat := 0
  lastStore : Option Bool := none
  deriving DecidableEq, Repr

/-- A loom (R41, R42, R55, R58): its two contexts, its L1 lines, its instruction cache, its evaluation queue, and how many more lines
each engine gives the pick context before the next evaluation takes priority. -/
structure Loom where
  pick : Ctx := {}
  ev : Ctx := {}
  l1 : SMap (List Byte) := []
  icache : SMap (List W32) := []
  evalQ : List Evaluation := []
  shareA : Nat := 0
  shareX : Nat := 0
  deriving DecidableEq, Repr

/-! ## Translation -/

/-- A valid leaf held by a translation buffer (R63 to R65): the partition, the first virtual address and size of its
page, its physical address and its attribute bits [55:48]. -/
structure TlbEntry where
  peer : Nat
  va : Nat
  size : Nat
  pa : Nat
  attrs : BitVec 8
  deriving DecidableEq, Repr

/-- A walk in progress (R66, R414): the partition and 64 KiB page, who waits for it, the level it reaches next and the
table it reads there. -/
structure Walk where
  id : Nat
  peer : Nat
  page : Nat
  who : List (Nat × Nat)
  level : Nat
  table : Nat
  deriving DecidableEq, Repr

/-- A walk that failed, kept until the access that waited for it takes its cause (R367): who, the page, the class 0x03
cause, the level and the entry. -/
structure BadWalk where
  who : Nat × Nat
  peer : Nat
  page : Nat
  cause : Nat
  level : Nat
  entry : Nat
  deriving DecidableEq, Repr

/-- An uncorrectable error that a line has and that no access has met yet (R369, R379): in the data of some of its sectors, or in
its metadata. -/
inductive Damage where
  | none | data (sectors : BitVec 4) | side
  deriving DecidableEq, Repr

/-- What a line of HBM or LPDDR holds besides its bytes (R68 to R71, R369 to R371, R379): cell state, compression code,
poison, whether it has been written whole since it was last poisoned, and an error not yet met. -/
structure LineMeta where
  cell : BitVec 2 := 0
  code : BitVec 3 := 0
  poison : Bool := false
  rewritten : Bool := false
  damage : Damage := .none
  deriving DecidableEq, Repr

/-! ## Bolts: scheduler, matrix engines, decoder -/

/-- A tile-task record that a bolt task scheduler has accepted (R238, R248, R251). `loom` and `ev` name the issuing
context and the key of R244; preds are the tasks and commands it waits for, `after` the operations that
its reads follow and `carries` those that its count follows (R101). `a` and `b` are DESC0 and DESC1. -/
structure Task where
  id : Nat
  peer : Nat
  loom : Nat
  ev : Bool
  seq : BitVec 16
  w0 : W64
  caddr : W64
  a : W64 × W64
  b : W64 × W64
  fmt : BitVec 16
  tile : Nat
  int : Bool
  baraddr : W64 := 0
  barrier : Option Span := none
  predTasks : List Nat := []
  predSeqs : List (BitVec 16) := []
  after : List Nat := []
  carries : List Nat := []
  cmd : Option Nat := none
  handle : Option W64 := none
  checked : Bool := true
  engine : Option Nat := none
  sent : Bool := false
  merged : Bool := false
  cancelled : Bool := false
  badPred : Bool := false
  flags : Flags := 0
  line : Nat := 0
  lane : Nat := 0
  stream : BitVec 4 := 0
  deriving DecidableEq, Repr

/-- A code table of the inline decoder (R199). -/
structure CodeTable where
  counts : List Nat := List.replicate 16 0
  symbols : List Byte := []
  deriving DecidableEq, Repr

/-- A CPY.DEC or CTBL that the decoder has accepted (R71): the context and command. -/
structure DecJob where
  loom : Nat
  ev : Bool
  cmd : Nat
  deriving DecidableEq, Repr

/-- A block that the decoder has decoded and not written whole (R320): its job, where its bytes begin in the decoded output, and how many
of them have been written. -/
structure DecodedBlock where
  job : DecJob
  base : Nat
  data : List Byte
  wrote : Nat := 0
  deriving DecidableEq, Repr

/-- A bolt (R65, R71, R251, R320): its decoder holds what the feeding copy has given it, what it has taken of the block that it decodes,
and up to two decoded blocks. -/
structure Bolt where
  tlb : List TlbEntry := []
  recs : List Task := []
  nextTask : Nat := 0
  tables : Vector CodeTable 4 := Vector.replicate 4 {}
  dec : List DecJob := []
  decIn : List Byte := []
  decTaken : List Byte := []
  decOut : List DecodedBlock := []
  badWalks : List BadWalk := []
  deriving DecidableEq, Repr

/-! ## Bobbins, suspensions, tiles, stages -/

/-- A bobbin (R182 to R186): region bytes as physical extents, what it does when it fires, and its counts; `by'` are the contexts
whose writes have counted into it since its last firing, and `heldBy` those whose writes caused the firings that it holds (R46). -/
structure Bobbin where
  state : Nat := 0
  gen : BitVec 16 := 0
  peer : Nat := 0
  regionVa : Nat := 0
  extents : List (Nat × Nat) := []
  target : Nat := 0
  action : Nat := 0
  operand : BitVec 61 := 0
  rearm : Bool := false
  count : Nat := 0
  fires : BitVec 8 := 0
  overcount : Bool := false
  counting : Bool := false
  held : Nat := 0
  by' : List (Nat × Bool) := []
  heldBy : List (Nat × Bool) := []
  deriving DecidableEq, Repr

/-- Bytes that a barrier has counted (R107), which the waiters of their phase acquire: the barrier, the phase once it has flipped, the
place among the bytes of the current phase until then, and the run; or the flags of a write whose first byte lies beyond the expected
total (R180). -/
structure Counted where
  bar : Nat
  phase : Option Nat
  pos : Nat
  pa : Nat
  len : Nat
  flags : Nat := 0
  deriving DecidableEq, Repr

/-- A waiter on a suspended region (R110, R380): the head line it is ordered at, who it is, and whether it holds at most
one answer for its whole access. -/
structure Waiter where
  head : Nat
  loom : Nat
  ev : Bool
  who : Loader
  deriving DecidableEq, Repr

/-- The record of a launched evaluation (R190, R191, R380, R381). `failing` is 0 until the evaluation fails, then why: 1 its
context or pick faulted or was cancelled, 2 it ended with a line unfilled, 3 its stage has no E entry, 4 the suspension
limit. -/
structure EvalRec where
  head : Nat
  headVa : Nat
  peer : Nat
  extent : Nat
  lines : List Nat
  sid : W32
  chain : List W32
  loom : Option Nat
  avoid : Option Nat := none
  place : Nat
  filled : Bool := false
  failing : Nat := 0
  held : Option Evaluation := none
  posting : Bool := false
  desc : List Byte := []
  deriving DecidableEq, Repr

/-- The states of an accumulator tile (R243). -/
inductive TileState where
  | idle | open | complete
  deriving DecidableEq, Repr

/-- A key of R244: peer, context, loom and sequence number. -/
structure Key where
  peer : Nat
  ev : Bool
  loom : Nat
  seq : BitVec 16
  deriving DecidableEq, Repr

/-- A contribution that waits at a slice (R243 to R245): its key, the elements it adds and the byte of the tile at which they begin, its flags, the
task or command that it comes from, whether it is all or the last of what its source contributes (R243), and whether it stands in the partial buffer or in which unit of the overflow area. -/
structure Contribution where
  key : Key
  first : Nat
  int : Bool
  values : List Nat
  adds : Bool := true
  flags : Flags
  task : Option (Nat × Nat) := none
  cmd : Option (Nat × Bool × Nat) := none
  remote : Option (Nat × Nat) := none
  closes : Bool := true
  buffered : Bool := false
  overflow : Option Nat := none
  deriving DecidableEq, Repr

/-- An accumulator tile (R243, R244), by the number of its first 64 KiB unit; `slotData` is what a peer has sent of its slot table. -/
structure Tile where
  state : TileState := .idle
  merged : Nat := 0
  expect : Nat := 0
  int : Bool := false
  held : List Contribution := []
  slotSpans : List Span := []
  slotData : List (Nat × List Byte) := []
  deriving DecidableEq, Repr

/-- An arrival (R261); `fired` are the bytes that the firing which posted it makes visible (R108), none if that is not known: a release
covers every write (R275), and a spill record does not say. -/
structure Arrival where
  tag : W32
  queue : Nat
  source : Nat
  payload : W64 := 0
  passed : Nat := 0
  fired : Option (List (Nat × Nat)) := none
  deriving DecidableEq, Repr

/-- A slot of the version table (R271): 0 FREE, 1 CURRENT, 2 HELD; for a published version, the looms that have observed its
publication (R268, R273). -/
structure VersionSlot where
  state : Nat := 0
  version : W32 := 0
  pins : Nat := 0
  seenBy : Option (List Nat) := none
  deriving DecidableEq, Repr

/-- A spill ring (R262, R285): the ring in use, its head and tail, and whether it is fenced (R404). -/
structure Ring where
  base : Nat := 0
  len : Nat := 0
  head : Nat := 0
  tail : Nat := 0
  fenced : Bool := false
  deriving DecidableEq, Repr

/-- Who waits until a held arrival is posted (R403): a bobbin, the posting of an evaluation, or nobody. -/
inductive Origin where
  | none | bobbin (key : Nat) | eval (head : Nat)
  deriving DecidableEq, Repr

/-- An arrival that is held at its source until its queue has room (R403). -/
structure HeldArrival where
  arr : Arrival
  src : Origin
  deriving DecidableEq, Repr

/-- A stage (R259 to R287, R403 to R405), at its leading Treadle. -/
structure Stage where
  queues : Vector (List Arrival) 4 := Vector.replicate 4 []
  rings : Vector Ring 4 := Vector.replicate 4 {}
  heldArr : Vector (List HeldArrival) 4 := Vector.replicate 4 []
  fullNoted : Vector Bool 4 := Vector.replicate 4 false
  acc : Vector (BitVec 8) 32 := Vector.replicate 32 0
  slots : Vector VersionSlot 4 := Vector.replicate 4 {}
  pins : List (W32 × Nat) := []
  decisions : BitVec 32 := 0
  armedBefore : Bool := false
  due : Bool := false
  replay : List (W32 × Nat) := []
  replayPos : Nat := 0
  stallNoted : Bool := false
  deriving DecidableEq, Repr

/-- A stash entry (R202, R203): its key, its policy and where the tensor lies. -/
structure StashEntry where
  panel : Nat
  stage : Nat
  tag : W32
  tensor : BitVec 12
  peer : Nat
  policy : BitVec 2
  tier : BitVec 1
  place : BitVec 2
  arg : W64
  region : Nat
  loom : Nat
  len : Nat
  dropped : Bool := false
  store : Nat := 0
  size : Nat := 0
  codes : List (BitVec 3) := []
  bad : Bool := false
  deriving DecidableEq, Repr

/-- A STASH command that a panel's stash engine has accepted, or a prefetch of its Treadle (R202, R203, R270): what it does, its
key, and what came with it. `since` is the number that the context's next operation had when it issued; `pick` is the pick that a prefetch serves (R270); `head` the region whose fill it waits for. -/
structure StashOp where
  id : Nat
  kind : Nat
  panel : Nat
  stage : Nat
  tag : W32
  tensor : BitVec 12
  peer : Nat
  loom : Nat := 0
  ev : Bool := false
  line : Nat := 0
  lane : Nat := 0
  word : W32 := 0
  stream : BitVec 4 := 0
  policy : BitVec 2 := 0
  tier : BitVec 1 := 0
  place : BitVec 2 := 0
  arg : W64 := 0
  region : Nat := 0
  len : Nat := 0
  spans : List Span := []
  other : Bool := false
  barrier : Option Span := none
  after : List Nat := []
  since : Nat := 0
  owner : W64 × W64 × W64 := (0, 0, 0)
  pick : Option Nat := none
  next : Bool := false
  head : Option Nat := none
  deriving DecidableEq, Repr

/-! ## Partitions -/

/-- A running, waiting or parked pick (R46, R268): its launch, stage, gang, tag and pass, its counter and the state its
looms start from; `fired` is what its arrival makes visible to them (R108). -/
structure Pick where
  id : Nat
  launch : Nat
  panel : Nat
  stage : Nat
  gang : List Nat
  looms : List Nat
  tag : W32
  pass : BitVec 2
  wver : W64
  counter : Nat
  entry : W64
  a123 : Nat × Nat × Nat := (0, 0, 0)
  started : Bool := false
  parked : List Nat := []
  retired : List Nat := []
  plane : Nat := 0
  fired : Option (List (Nat × Nat)) := none
  evalHead : Option Nat := none
  evalSid : W32 := 0
  evalChain : List W32 := []
  deriving DecidableEq, Repr

/-- An armed launch (R21, R314): its counter, its stage, the bolts of each gang, and whether it is parked. -/
structure Launch where
  counter : Nat
  panel : Nat
  stage : Nat
  gangs : List (List Nat)
  parked : Bool := false
  preempting : Bool := false
  deriving DecidableEq, Repr

/-- A send channel (R204, R296): bytes subtracted, the highest F received, sends counted, and whether it is held. -/
structure SendCh where
  sent : Nat := 0
  freed : Nat := 0
  count : Nat := 0
  held : Bool := false
  deriving DecidableEq, Repr

/-- A receive channel (R204, R296, R403): the bytes written of each slot not yet freed, F, and whether a WINDOW flit is withheld. -/
structure RecvCh where
  filled : List Nat := []
  freed : Nat := 0
  owed : Bool := false
  deriving DecidableEq, Repr

/-- A member entry of the fabric table (R292). -/
structure Member where
  peer : Nat
  lat : Nat
  swbase : Nat
  deriving DecidableEq, Repr

/-- A channel entry of the fabric table (R292). -/
structure Channel where
  index : Nat := 0
  far : Nat := 0
  slots : Nat := 0
  slotSize : Nat := 0
  base : Nat := 0
  deriving DecidableEq, Repr

/-- The fabric table (R292); roles holds a port, its ROLE and the group index that its entry names. -/
structure Fabric where
  phase : W32
  self : Nat
  dims : Nat × Nat × Nat
  roles : List (Nat × Nat × Nat)
  send : List Channel
  recv : List Channel
  members : List Member
  raw : List Byte := []
  deriving DecidableEq, Repr

/-- A difference that waits or is being applied (R279, R285). -/
structure Diff where
  image : Nat
  barrier : Option Span
  deriving DecidableEq, Repr

/-- A launch that is held until every panel of its gangs is in full service (R17): its request, the class of the message and what it
asks for. -/
structure HeldArm where
  req : HostReq
  cls : Nat
  args : ArmArgs
  deriving DecidableEq, Repr

/-- A partition (R314, R315). -/
structure Partition where
  panels : BitVec 8
  level0 : Nat
  counterTable : Nat
  counterSize : Nat
  counters : List Nat := []
  ctxPool : List (Nat × Nat)
  stashHbm : List (Nat × (Nat × Nat)) := []
  stashLp : List (Nat × (Nat × Nat)) := []
  overflow : List (Nat × (Nat × Nat)) := []
  accCount : Nat := 0
  barrierLimit : Nat := 0
  suspLimit : Nat := 0
  stallLimit : Nat := 0
  determinate : Bool := false
  macs : List Nat := []
  ips : List Nat := []
  udps : List Nat := []
  sid : W32 := 0
  plane : List Byte := []
  planeNo : Nat := 0
  oldPlanes : SMap (List Byte) := []
  diffs : List Diff := []
  diffing : Bool := false
  shadow : List Byte := []
  rollBack : Option (Nat × Nat) := none
  fabric : Option Fabric := none
  cong : List (Nat × Nat) := []
  sendCh : SMap SendCh := []
  recvCh : SMap RecvCh := []
  drain : Option W32 := none
  drainReq : Option HostReq := none
  drained : Bool := false
  fabricNext : Option (HostReq × Fabric) := none
  launches : List Launch := []
  picks : List Pick := []
  preempts : List (Nat × HostReq × Bool) := []
  nextPick : Nat := 0
  rseq : BitVec 16 := 0
  dropped : Nat := 0
  records : Nat := 0
  powerMode : Nat := 0
  budget : Nat := 0
  duty : Nat := 16
  held : Bool := false
  resets : Nat := 0
  resetting : Bool := false
  resetReq : Option (Option HostReq) := none
  scrubbed : Bool := false
  heldArms : List HeldArm := []
  invalidations : List (HostReq × Nat × Nat) := []
  attested : Bool := false
  key : BitVec 384 := 0
  planeStale : Bool := false
  badBridges : List (Nat × Nat) := []
  resizing : Option HostReq := none
  arrWait : Option (HostReq × List W64) := none
  capSince : Nat := 0
  formLimits : Nat × Nat × Nat := (0, 0, 0)
  deriving DecidableEq, Repr

/-! ## Ports, host, Agate -/

/-- Whose request is outstanding at a peer: a span of an access, a merged request of a combining entry, bytes of a copy command that it reads or writes, or an
operation on a barrier there, a row of a drain, or bytes of a slot table. -/
inductive ReqFor where
  | acc (id part : Nat) | combined (entry : Nat) | copyRead (cmd off len : Nat) | copyWrite (cmd off len : Nat) | barrier (raw : Nat) | drainRow (op row : Nat)
  | slots (op off len : Nat)
  deriving DecidableEq, Repr

/-- A request outstanding at a peer (R295, R298, R376): its tag, the partition and context that issued it, the flit to send again and
the new value of a CAS, the port that carried it unless it is held, how often it has been sent again, and whether the peer has asked
for a retry. -/
structure Request where
  rtag : Nat
  peer : Nat
  dpeer : Nat
  loom : Nat
  ev : Bool
  owner : ReqFor
  flit : Flit
  kind : Nat
  casNew : Option W64 := none
  port : Nat := 0
  unsent : Bool := false
  tries : Nat := 0
  refused : Bool := false
  deriving DecidableEq, Repr

/-- A request or a reply with data from a peer (R295, R376): its port and flit, the data that have arrived, whether it has been to a
combining switch, the channel or slice whose sequence filter has it, whether it is in the filter already, and the answer recorded there. -/
structure Incoming where
  port : Nat
  flit : Flit
  kind : Nat
  data : List (Nat × List Byte) := []
  need : Nat := 0
  taken : Bool := false
  combined : Bool := false
  casNew : Option W64 := none
  done : Bool := false
  dup : Bool := false
  chan : Nat := 0
  answer : Option Flit := none
  deriving DecidableEq, Repr

/-- An optical port (R288 to R298, R396 to R399): the awake set of each direction as its width code, a wider set that still locks,
lost wavelengths, the link sequence numbers, what is kept for a retry and what waits for room there, the outbound data queue with the
sources told of its congestion, the set that its beats are dealt over and the next in turn, the sets that each direction changes to
from a data flit on, data flits that came before an earlier one, those that no request has claimed, requests carried for others whose
reply has not come back, which planes wait for a flit to be sent again and how often it has failed, and link errors. -/
structure Port where
  up : Bool := false
  width : BitVec 2 := 0
  rxWidth : BitVec 2 := 0
  pendingWidth : Option (BitVec 2) := none
  lost : List Nat := []
  lseqTx : BitVec 16 := 0
  lseqRx : BitVec 16 := 0
  dseqTx : BitVec 16 := 0
  dseqRx : BitVec 16 := 0
  held : List (Nat × Flit) := []
  heldData : List DataFlit := []
  waiting : List (Nat × Flit) := []
  queue : List DataFlit := []
  noticed : List Nat := []
  stripe : BitVec 2 := 0
  deal : Nat := 0
  txPark : List (BitVec 16 × BitVec 2) := []
  rxPark : List (BitVec 16 × BitVec 2) := []
  early : List DataFlit := []
  unclaimed : List DataFlit := []
  carried : List (Nat × Nat × Nat) := []
  gotSince : Nat := 0
  ctlWait : Bool := false
  dataWait : Bool := false
  retries : Nat := 0
  badWaves : List (Option Nat) := []
  drainSent : Bool := false
  drainGot : Bool := false
  relockIn : Option W32 := none
  errors : Nat := 0
  errWaves : Nat := 0
  deriving DecidableEq, Repr

/-- A message that leaves the device: a flit of a port, a data flit with the wavelengths of its eight beats, bytes of a Fleolapin message of a class to an endpoint, the
acknowledgement of one, or an operation on a barrier or bobbin at a peer, for which the spec gives no flit (DEDUCED, log 16). -/
inductive Output where
  | flit (port kind : Nat) (f : Flit)
  | data (port : Nat) (d : DataFlit) (waves : List Nat)
  | object (peer rtag : Nat) (op : AccKind) (addr : Nat)
  | message (peer cls : Nat) (endpoint : Nat) (bytes : List Byte)
  | ack (peer endpoint status : Nat)
  deriving DecidableEq, Repr

/-- A Fleolapin endpoint (R299, R300): the next sequence number to send and to receive, what is not acknowledged, the image writes that
were refused, and the messages of an unassigned class that it has dropped. -/
structure Endpoint where
  txSeq : W32 := 0
  rxSeq : W32 := 0
  unacked : List (Nat × Nat × List Byte) := []
  refused : List W32 := []
  unassigned : Nat := 0
  deriving DecidableEq, Repr

/-- One request of a combining entry: its input port, its requester as loom, context and access, or as the port and tag of a peer's
request, or the entry that it merges, and its addend (R166). -/
structure CombPart where
  port : Nat
  req : Option (Nat × Bool × Nat) := none
  far : Option (Nat × Nat) := none
  child : Nat := 0
  addend : W64
  deriving DecidableEq, Repr

/-- A combining entry of a switch, then its decombining record (R166, R321, R388): the switch, the word, the requests in order of
ports, whether it has left, and the base of the reply when the switch above has split it. -/
structure Combining where
  id : Nat
  switch : Nat
  target : Nat
  parts : List CombPart
  departed : Bool := false
  base : Option W64 := none
  deriving DecidableEq, Repr

/-- The service states of a panel (R324). -/
inductive Service where
  | reset | training | early | full | down
  deriving DecidableEq, Repr

/-- A panel (R66, R315, R323 to R328, R409): its owner, its service state, the looms that have moved to full service, how often its
training or calibration has failed, its walks, the misses that wait for a free walk in order of arrival, its thermal duty, whether its
rails are off, and its panel faults within 24 hours. -/
structure Panel where
  owner : Option Nat := none
  service : Service := .reset
  calibrated : Bool := false
  moved : List Nat := []
  broughtUp : Bool := false
  tries : Nat := 0
  walks : List Walk := []
  walkQ : List ((Nat × Nat) × List (Nat × Nat)) := []
  nextWalk : Nat := 0
  thermal : Nat := 16
  faulted : Bool := false
  trips : Nat := 0
  deriving DecidableEq, Repr

/-- What Agate holds (R323): whether it has verified the firmware, or has failed to. -/
structure Agate where
  verified : Bool := false
  failed : Bool := false
  deriving DecidableEq, Repr

/-! ## The order of the units, and the outcome of the last step -/

/-- Which engine of which context of which loom. -/
structure Sel where
  loom : Nat
  ev : Bool
  eng : Eng
  deriving DecidableEq, Repr

/-- A Fleolapin message as it comes in (R299): its header and payload, and for arguments whose bytes the spec does not lay out what the
firmware reads there (DESIGN CHOICE, log 153). -/
structure HostMsg where
  version : Nat := 1
  cls : Nat
  endpoint : Nat := 0
  seq : W32
  length : Nat
  crc : W32
  payload : List Byte
  args : Option Instr := none
  deriving DecidableEq, Repr

/-- One move of the machine: an engine tries its next lane or line, or an event happens. Plain data says which unit moves
next (DESIGN CHOICE, log 1); an agenda stands for the order that the spec leaves open and for what reaches the device from outside. -/
inductive Move where
  | issue (e : Sel)
  | event (i : Instr)
  | damage (line : Nat) (kind : Damage)
  | badBobbin (key : Nat)
  | badPlane (panel off : Nat)
  | firmware (pa : Nat) (entry : W64)
  | firmwareLine (pa : Nat) (bytes : List Byte)
  | flit (port : Nat) (w : BitVec 256)
  | beats (port : Nat)
  | message (peer : Nat) (m : HostMsg)
  | badConfig
  deriving DecidableEq, Repr

/-- What came of the last instruction or event: it had its effect, its engine waits, it raised a fault, or it was an
event that the state does not enable. -/
inductive Disp where
  | idle | issued | waits (w : Wait) | faults (f : FaultInfo) | ignored
  deriving DecidableEq, Repr

/-- The whole machine. `out` is what has left it, in order, which nothing reads (DESIGN CHOICE, log 4); `freeIdx` numbers the free values that
have been used, the places at which the opaque constants of Config are taken (DESIGN CHOICE, log 3). -/
structure State where
  mem : Memory := []
  lineMeta : SMap LineMeta := []
  retiredPages : SMap Nat := []
  fencedChannels : List Nat := []
  fenceRecords : List Nat := []
  corrections : SMap Nat := []
  looms : SMap Loom := []
  bolts : SMap Bolt := []
  panels : SMap Panel := []
  bobbins : SMap Bobbin := []
  tally : List Counted := []
  waiters : List Waiter := []
  evals : List EvalRec := []
  tiles : SMap Tile := []
  stages : SMap Stage := []
  stash : List StashEntry := []
  stashOps : List StashOp := []
  nextStash : Nat := 0
  parts : SMap Partition := []
  keptCounters : SMap Nat := []
  ports : SMap Port := []
  requests : List Request := []
  incoming : List Incoming := []
  nextTag : Nat := 0
  sseqs : SMap (BitVec 16) := []
  endpoints : SMap Endpoint := []
  combining : List Combining := []
  nextCombining : Nat := 0
  agate : Agate := {}
  out : List Output := []
  freeIdx : Nat := 0
  nextStamp : Nat := 0
  cur : Sel := ⟨0, false, .A⟩
  agenda : List Move := []
  disp : Disp := .idle
  deriving DecidableEq, Repr

/-- Why a step stops the model. -/
inductive Fault where
  /-- Raised by `step` when the agenda names a loom, which no input of the device can, that the device does not have.
  Safe: the device has no such unit to move. -/
  | noSuchLoom (n : Nat)
  deriving DecidableEq, Repr

/-- Why the model refuses. -/
inductive Refusal where
  /-- Raised by `exec` for an instruction whose meaning is not written yet. Safe: nothing is claimed of it. -/
  | notModelled (mnemonic : String)
  deriving DecidableEq, Repr

/-- The machine right after reset (R323): no firmware verified, every panel in reset and unowned, no partition, every
context idle, every register at its reset value, memory with nothing listed (DESIGN CHOICE, log 6) (DESIGN CHOICE, log 10). -/
def State.reset : State := {}

end Sys2Proof.Machine
end

