-- ==== Sys2Proof/Machine/Ops.lean ====
section
/-!
DEFINITION. The operations that every loom instruction shares: reaching a context, reading registers under the
scoreboard, results in flight and their landing, tokens, queues, and how a meaning ends.
-/

namespace Sys2Proof.Machine

/-- Why an instruction does not issue: it waits, or it raises a precise fault. -/
inductive Stop where
  | wait (w : Wait) | fault (f : FaultInfo)
  deriving DecidableEq, Repr

/-- What an instruction's effect answers. -/
abbrev Act (α : Type) := Except Stop α

/-! ## Reaching units -/

/-- A loom; one that nothing has touched is as after reset. -/
def State.loom (s : State) (n : Nat) : Loom := SMap.getD s.looms n {}
/-- Replaces a loom. -/
def State.setLoom (s : State) (n : Nat) (l : Loom) : State := { s with looms := SMap.set s.looms n l }
/-- A loom's pick context or evaluator context (R41). -/
def Loom.ctx (l : Loom) (ev : Bool) : Ctx := if ev then l.ev else l.pick
/-- Replaces one of a loom's contexts. -/
def Loom.setCtx (l : Loom) (ev : Bool) (c : Ctx) : Loom := if ev then { l with ev := c } else { l with pick := c }
/-- A context by loom and kind. -/
def State.ctxAt (s : State) (n : Nat) (ev : Bool) : Ctx := (s.loom n).ctx ev
/-- Replaces a context. -/
def State.setCtxAt (s : State) (n : Nat) (ev : Bool) (c : Ctx) : State := s.setLoom n ((s.loom n).setCtx ev c)
/-- The context whose engine moves. -/
def State.ctx (s : State) : Ctx := s.ctxAt s.cur.loom s.cur.ev
/-- Replaces the context whose engine moves. -/
def State.setCtx (s : State) (c : Ctx) : State := s.setCtxAt s.cur.loom s.cur.ev c
/-- A bolt. -/
def State.bolt (s : State) (n : Nat) : Bolt := SMap.getD s.bolts n {}
/-- Replaces a bolt. -/
def State.setBolt (s : State) (n : Nat) (b : Bolt) : State := { s with bolts := SMap.set s.bolts n b }
/-- A panel. -/
def State.panel (s : State) (n : Nat) : Panel := SMap.getD s.panels n {}
/-- Replaces a panel. -/
def State.setPanel (s : State) (n : Nat) (p : Panel) : State := { s with panels := SMap.set s.panels n p }
/-- The bolt of a loom and the panel of a loom (R11): eight looms a bolt, five bolts a panel. -/
def boltOf (loom : Nat) : Nat := loom / 8
/-- The panel of a loom. -/
def panelOf (loom : Nat) : Nat := loom / 40
/-- An engine of a context. -/
def Ctx.eng (c : Ctx) (e : Eng) : Engine := match e with | .A => c.ea | .X => c.ex
/-- Replaces an engine of a context. -/
def Ctx.setEng (c : Ctx) (e : Eng) (g : Engine) : Ctx := match e with | .A => { c with ea := g } | .X => { c with ex := g }
/-- The other engine. -/
def Eng.other : Eng → Eng | .A => .X | .X => .A

/-! ## Results in flight (R9, R36, R350) -/

/-- The engine cycle in which the engine's current line executes. -/
def Ctx.now (c : Ctx) (e : Eng) : Nat := (c.eng e).cyc + 1

/-- Whether the line that the engine executes is exposed (R36). -/
def Ctx.exposed (c : Ctx) (e : Eng) : Bool := (c.eng e).mode

/-- Whether a result is bound for a vector register, mask register or store queue (DKIND 1 to 3 of R349). -/
def Dest.wide : Dest → Bool
  | .v _ | .k _ | .sq .. => true
  | _ => false

/-- Adds a result to those in flight; at most 32, of which at most 30 wide (R350). -/
def Ctx.addResult (c : Ctx) (r : Result) : Act Ctx :=
  if 32 ≤ c.inFlight.length then .error (.wait .inFlight)
  else if r.dest.wide ∧ 30 ≤ (c.inFlight.filter (·.dest.wide)).length then .error (.wait .inFlight)
  else .ok { c with inFlight := c.inFlight ++ [r] }

/-- A value on its way to a register, due after its declared latency. -/
def Ctx.emit (c : Ctx) (e : Eng) (d : Dest) (v : Nat) (lat : Nat) (t : Tok) (fl : Flags := 0) : Act Ctx :=
  c.addResult { eng := e, dest := d, value := BitVec.ofNat 16384 v, due := c.now e + lat, flags := fl, post := t.ps }

/-- A token that the engine pushes to the other one, whose entry was reserved (R34). -/
def Ctx.pushTok (c : Ctx) (e : Eng) : Ctx :=
  match e with
  | .A => { c with resAX := c.resAX - 1, tokAX := c.tokAX + 1 }
  | .X => { c with resXA := c.resXA - 1, tokXA := c.tokXA + 1 }

/-- Fills the entry of a store queue that a result reserved, or the oldest pending one for a result that names none (R207, R351). -/
def fillSq (q : List QEntry) (entry : Option Nat) (v : VReg) (len : Nat) (failed : Bool) : List QEntry :=
  match q with
  | [] => []
  | en :: r =>
    if en.pending && (entry.isNone || en.filler == entry) then { en with data := v, len := len, pending := false, failed := failed } :: r
    else en :: fillSq r entry v len failed

/-- Writes a result to its destination; a0, s0 and k0 discard (R121). -/
def Ctx.write (c : Ctx) (d : Dest) (v : VReg) (failed : Bool := false) : Ctx :=
  match d with
  | .none => c
  | .a r => if r = 0 then c else { c with a := c.a.set r.toNat (v.setWidth 64) r.isLt }
  | .s r => if r = 0 then c else { c with s := c.s.set r.toNat (v.setWidth 32) r.isLt }
  | .v r => { c with v := c.v.set r.toNat v r.isLt }
  | .k r => if r = 0 then c else { c with k := c.k.set r.toNat (v.setWidth 2048) r.isLt }
  | .sq q len entry => { c with sq := c.sq.set q.toNat (fillSq c.sq[q.toNat] entry v len failed) q.isLt }

/-- Lands one result: its destination, its flags, its token (R208, R351) (DEDUCED, log 33). -/
def Ctx.landOne (c : Ctx) (r : Result) : Ctx :=
  let c := c.write r.dest r.value r.failed
  let c := { c with flags := c.flags ||| r.flags, pickFlags := c.pickFlags ||| r.flags }
  if r.post then c.pushTok r.eng else c

/-- Whether a result lands in the engine's current cycle. -/
def Result.ripe (r : Result) (e : Eng) (now : Nat) : Bool := r.eng == e && r.awaiting == none && Nat.ble r.due now

/-- Lands every result of the engine that is due, in issue order, so that of two that fall on one register the later
prevails (R36, R350). -/
def Ctx.land (c : Ctx) (e : Eng) : Ctx :=
  let now := c.now e
  let c' := { c with inFlight := c.inFlight.filter (fun r => !r.ripe e now) }
  (c.inFlight.filter (·.ripe e now)).foldl Ctx.landOne c'

/-- Whether a register load of an exposed line is due and its data have not come, which holds the engine (R158). -/
def Ctx.dataHeld (c : Ctx) (e : Eng) : Bool :=
  c.inFlight.any (fun r => r.eng == e && r.awaiting != none && r.due != 0 && Nat.ble r.due (c.now e))

/-! ## Reading registers -/

/-- Whether an earlier write of the register by the engine has not landed. -/
def Ctx.pending (c : Ctx) (d : Dest) : Bool := c.inFlight.any (fun r => r.dest == d)

/-- In a scoreboard line a reader waits for every earlier write of the register (R36). -/
def Ctx.ready (c : Ctx) (e : Eng) (d : Dest) : Act Unit :=
  if !c.exposed e && d != .none && c.pending d then .error (.wait .reg) else .ok ()

/-- The value of an a-register; a0 reads zero (R121). -/
def Ctx.aVal (c : Ctx) (r : BitVec 6) : W64 := if r = 0 then 0 else c.a[r.toNat]
/-- The value of an s-register; s0 reads zero (R121). -/
def Ctx.sVal (c : Ctx) (r : BitVec 5) : W32 := if r = 0 then 0 else c.s[r.toNat]
/-- The value of a mask register; k0 reads all ones (R121). -/
def Ctx.kVal (c : Ctx) (r : BitVec 3) : KReg := if r = 0 then BitVec.allOnes 2048 else c.k[r.toNat]

/-- Reads an a-register. -/
def Ctx.rdA (c : Ctx) (r : BitVec 6) : Act W64 :=
  match c.ready .A (if r = 0 then .none else .a r) with
  | .error w => .error w
  | .ok () => .ok (c.aVal r)
/-- Reads an s-register named by a 6-bit field. -/
def Ctx.rdS (c : Ctx) (r : BitVec 6) : Act W32 :=
  let r := r.setWidth 5
  match c.ready .X (if r = 0 then .none else .s r) with
  | .error w => .error w
  | .ok () => .ok (c.sVal r)
/-- Reads a mask register. -/
def Ctx.rdK (c : Ctx) (r : BitVec 3) : Act KReg :=
  match c.ready .X (if r = 0 then .none else .k r) with
  | .error w => .error w
  | .ok () => .ok (c.kVal r)

/-! ## Tokens (R34) -/

/-- Pops the token that WT asks for. -/
def Ctx.popTok (c : Ctx) (e : Eng) (t : Tok) : Act Ctx :=
  if !t.wt then .ok c
  else match e with
    | .A => if c.tokXA = 0 then .error (.wait .token) else .ok { c with tokXA := c.tokXA - 1 }
    | .X => if c.tokAX = 0 then .error (.wait .token) else .ok { c with tokAX := c.tokAX - 1 }

/-- Reserves the entry that PS asks for; the FIFO holds 32. -/
def Ctx.reserveTok (c : Ctx) (e : Eng) (t : Tok) : Act Ctx :=
  if !t.ps then .ok c
  else match e with
    | .A => if 32 ≤ c.tokAX + c.resAX then .error (.wait .tokenRoom) else .ok { c with resAX := c.resAX + 1 }
    | .X => if 32 ≤ c.tokXA + c.resXA then .error (.wait .tokenRoom) else .ok { c with resXA := c.resXA + 1 }

/-- The token words of an instruction: pop, then reserve. -/
def Ctx.tokens (c : Ctx) (e : Eng) (t : Tok) : Act Ctx := do (← c.popTok e t).reserveTok e t

/-- The push of an instruction that has no register result: at once. -/
def Ctx.postNow (c : Ctx) (e : Eng) (t : Tok) : Ctx := if t.ps then c.pushTok e else c

/-! ## How a meaning ends -/

/-- What the step makes of an instruction's effect: it issued, it waits with nothing changed, or it raises a precise fault
with nothing changed (R344). -/
def State.done (s : State) (r : Act State) : Host.Outcome State Fault Refusal :=
  match r with
  | .ok t => .next { t with disp := .issued }
  | .error (.wait w) => .next { s with disp := .waits w }
  | .error (.fault f) => .next { s with disp := .faults f }

/-- An effect on the moving engine's context alone, with its token words. -/
def State.local (s : State) (e : Eng) (t : Tok) (f : Ctx → Act Ctx) : Host.Outcome State Fault Refusal :=
  s.done (do
    let c ← s.ctx.tokens e t
    let c ← f c
    return s.setCtx c)

/-- The same for an instruction that has no register result, whose token is pushed at issue. -/
def State.localNow (s : State) (e : Eng) (t : Tok) (f : Ctx → Act Ctx) : Host.Outcome State Fault Refusal :=
  s.local e t (fun c => do return (← f c).postNow e t)

/-- An event that the state enables, or that it does not. -/
def State.event (s : State) (r : Option State) : Host.Outcome State Fault Refusal :=
  match r with
  | some t => .next { t with disp := .issued }
  | none => .next { s with disp := .ignored }

/-- A precise fault of a class and cause. -/
def faultOf (cls cause : Nat) (addr d1 : Nat := 0) : Stop := .fault { cls := cls, cause := cause, addr := addr, d1 := d1 }

/-- A check at issue. -/
def check (p : Bool) (f : Stop) : Act Unit := if p then .ok () else .error f

end Sys2Proof.Machine
end

