-- ==== Sys2Proof/Machine/Tables.lean ====
section
/-!
DEFINITION. What a context finds in its partition: the configuration plane, its stage's block, the format table and the
service its panel is in (R14, R127, R136, R137, R281, R282).
-/

namespace Sys2Proof.Machine

/-- A partition by its peer ID. -/
def State.part? (s : State) (peer : Nat) : Option Partition := SMap.find? s.parts peer
/-- Replaces a partition. -/
def State.setPart (s : State) (peer : Nat) (p : Partition) : State := { s with parts := SMap.set s.parts peer p }
/-- Changes a partition, if it exists. -/
def State.modPart (s : State) (peer : Nat) (f : Partition → Partition) : State :=
  match s.part? peer with
  | some p => s.setPart peer (f p)
  | none => s

/-- The bytes of a plane by its number: the resident one or an older one that a pick still uses (R285). -/
def Partition.planeBytes (p : Partition) (n : Nat) : List Byte :=
  if n = p.planeNo then p.plane else SMap.getD p.oldPlanes n p.plane

/-- The number in n bytes of a plane from an offset; bytes that a plane lacks read as zero. -/
def planeLE (bs : List Byte) (off n : Nat) : Nat := leNat ((bs.drop off).take n)

/-- Where the block of a stage lies in a plane (R281). -/
def stageBlock (panel stage : Nat) : Nat := 0x2100 + 512 * (5 * panel + stage)

/-- The panel of a context's leading Treadle and its stage index there (R29). -/
def Ctx.stagePanel (c : Ctx) : Nat := (c.gangid.extractLsb' 40 3).toNat
/-- The stage index of GANGID. -/
def Ctx.stageIdx (c : Ctx) : Nat := (c.gangid.extractLsb' 32 8).toNat

/-- Entry idx of a context's format table (R136). -/
def State.fmtEntry (s : State) (c : Ctx) (idx : Nat) : BitVec 16 :=
  match s.part? c.peer with
  | some p => BitVec.ofNat 16 (planeLE (p.planeBytes c.plane) (stageBlock c.stagePanel c.stageIdx + 0x100 + 2 * (idx % 64)) 2)
  | none => 0

/-- The entry that a selector names with an engine's loop counters (R127). -/
def selIndex (sel : BitVec 8) (lc : Vector W32 3) : Nat :=
  let off := (sel.extractLsb' 2 6).toNat
  let k := (sel.extractLsb' 0 2).toNat
  if k = 3 then off else ((lc.toList.getD k 0).toNat + off) % 64

/-- Whether a loom is in full service (R325). -/
def State.fullService (s : State) (loom : Nat) : Bool :=
  (s.panel (panelOf loom)).service == .full || (s.panel (panelOf loom)).moved.contains loom

/-- Fields of a format-table entry (R136). -/
def entAFMT (e : BitVec 16) : Nat := (e.extractLsb' 12 4).toNat
/-- BFMT. -/
def entBFMT (e : BitVec 16) : Nat := (e.extractLsb' 8 4).toNat
/-- SCL. -/
def entSCL (e : BitVec 16) : Bool := e.getLsbD 7
/-- OFMT. -/
def entOFMT (e : BitVec 16) : Nat := (e.extractLsb' 3 4).toNat
/-- RND. -/
def entRND (e : BitVec 16) : Nat := (e.extractLsb' 0 3).toNat

/-- A format fault of R341, with the entry in DETAIL1. -/
def fmtFault (cause : Nat) (e : BitVec 16) : Stop := faultOf 6 cause 0 e.toNat

/-- Whether a format of the format table is withheld in early service (R14): all but FP32 and BF16. -/
def withheld (full : Bool) (code : Nat) : Bool := !full && 2 ≤ code

/-- Whether an instruction names a withheld format by a code of R76, which comes before every other cause (R236); a code that is no
format names none. -/
def namesWithheld (full : Bool) (code : Nat) : Bool := withheld full code && code ≤ 9

end Sys2Proof.Machine
end

