-- ==== Sys2Proof/Machine/Translate.lean ====
section
/-!
DEFINITION. Addresses and their translation: the spaces (R52 to R54), physical memory (R61), page tables and walks
(R62 to R67, R377), and the checks that an instruction makes at issue in the order of R416.
-/

namespace Sys2Proof.Machine

/-! ## Spaces -/

/-- What an address names (R52). -/
inductive Place where
  | virt (va : Nat) | loom (off : Nat) | bolt (off : Nat) | multicast (off : Nat) | peer (p va : Nat) | striped (off : Nat)
  deriving DecidableEq, Repr

/-- The place of an address; none for an unassigned space or a non-zero bit outside its fields (R52). -/
def place (a : W64) : Option Place :=
  let low (n : Nat) : Option Nat := if a.toNat % 2 ^ 60 < 2 ^ n then some (a.toNat % 2 ^ n) else none
  match (a.extractLsb' 60 4).toNat with
  | 0 => (low 48).map .virt
  | 1 => (low 20).map .loom
  | 2 => (low 23).map .bolt
  | 3 => (low 20).map .multicast
  | 4 => some (.peer (a.extractLsb' 48 12).toNat (a.toNat % 2 ^ 48))
  | 6 => (low 48).map .striped
  | _ => none

/-- One past the last offset of the place's space, and the offset within it (R155). -/
def Place.offset : Place → Nat × Nat
  | .virt v => (v, 2 ^ 48)
  | .loom o => (o, 2 ^ 20)
  | .bolt o => (o, 2 ^ 23)
  | .multicast o => (o, 2 ^ 20)
  | .peer _ v => (v, 2 ^ 48)
  | .striped o => (o, 2 ^ 48)

/-! ## Physical memory (R61) -/

/-- Whether a physical address lies in HBM. -/
def inHbm (pa : Nat) : Bool := Nat.blt pa (2 ^ 41)
/-- Whether a physical address lies in a populated part of an LPDDR window. -/
def inLpddr (pa : Nat) : Bool := Nat.ble (2 ^ 42) pa && Nat.blt pa (2 ^ 42 + 2 ^ 41) && Nat.blt (pa % 2 ^ 38) 0x3000000000
/-- Whether a physical address lies in the accumulator range. -/
def inAcc (pa : Nat) : Bool := Nat.ble 0x60000000000 pa && Nat.blt pa 0x60020000000 && !pa.testBit 22
/-- The panel of a physical address. -/
def panelOfPa (pa : Nat) : Nat := if inAcc pa then (pa / 2 ^ 26) % 8 else (pa / 2 ^ 38) % 8
/-- The stack of an HBM address, numbered as R11 does. -/
def stackOf (pa : Nat) : Nat := 4 * panelOfPa pa + (pa / 2 ^ 8) % 4
/-- The home slice of a line, numbered over the module (R59). -/
def sliceOf (pa : Nat) : Nat :=
  if inAcc pa then 8 * panelOfPa pa + (pa / 2 ^ 23) % 8 else 8 * panelOfPa pa + (pa / 2 ^ 10) % 8

/-- The attribute bits of a leaf (R63), numbered from bit 48. -/
def attrC : Nat := 0
/-- MS. -/
def attrMS : Nat := 1
/-- Z. -/
def attrZ : Nat := 2
/-- T. -/
def attrT : Nat := 3
/-- LP. -/
def attrLP : Nat := 4
/-- AW. -/
def attrAW : Nat := 5
/-- W. -/
def attrW : Nat := 6
/-- X. -/
def attrX : Nat := 7

/-! ## Walks -/

/-- What one level of a walk gives (R63, R64, R367). -/
inductive WalkRes where
  | next (table : Nat) | leaf (size pa : Nat) (attrs : BitVec 8) | bad (cause : Nat) (entry : Nat)
  deriving DecidableEq, Repr

/-- Bytes that an entry of each level maps (R62). -/
def levelSize : Nat → Nat
  | 0 => 2 ^ 39 | 1 => 2 ^ 30 | 2 => 2 ^ 21 | _ => 2 ^ 16
/-- Entries of a table of each level. -/
def levelEntries : Nat → Nat
  | 3 => 32 | _ => 512
/-- Size and alignment of a table of each level. -/
def tableSize : Nat → Nat
  | 3 => 256 | _ => 4096

/-- Whether a leaf's attributes satisfy R64. -/
def attrsOk (accCount level pa : Nat) (at' : BitVec 8) : Bool :=
  let has := at'.getLsbD
  (!has attrAW || (inAcc pa && Nat.blt ((pa / 2 ^ 16) % 64) accCount && level == 3 && !has attrC && !has attrMS
    && !has attrZ && !has attrT && !has attrLP && !has attrX))
  && (!has attrLP || (inLpddr pa && !has attrMS && !has attrZ && !has attrT && !has attrAW))
  && (!has attrT || (has attrMS && !has attrC && !has attrLP && !has attrAW))
  && (!has attrMS || (inHbm pa && !has attrC && !has attrLP && !has attrAW))
  && (!has attrZ || (inHbm pa && !has attrLP && !has attrAW))
  && (has attrAW || has attrLP || inHbm pa)

/-- What the entry read at a level gives (R63, R64), for a partition of these panels and accumulator count. -/
def walkEntry (panels : BitVec 8) (accCount level : Nat) (e : W64) : WalkRes :=
  let at' := e.extractLsb' 48 8
  let leaf := e.getLsbD 1
  let pa := ((e.extractLsb' 8 35).toNat) * 256
  let own := panels.getLsbD (panelOfPa pa)
  if !e.getLsbD 0 then .bad 1 e.toNat
  else if e.extractLsb' 56 8 ≠ 0 ∨ e.extractLsb' 43 5 ≠ 0 ∨ e.extractLsb' 2 6 ≠ 0 ∨ (!leaf ∧ at' ≠ 0) then .bad 2 e.toNat
  else if (leaf ∧ level = 0) ∨ (!leaf ∧ 3 ≤ level) then .bad 3 e.toNat
  else if leaf then
    if pa % levelSize level ≠ 0 then .bad 4 e.toNat
    else if !attrsOk accCount level pa at' then .bad 5 e.toNat
    else if !own then .bad 6 e.toNat
    else .leaf (levelSize level) pa at'
  else if pa % tableSize (level + 1) ≠ 0 then .bad 4 e.toNat
  else if !(inHbm pa && own) then .bad 6 e.toNat
  else .next pa

/-- The address of the entry that a walk reads at a level. -/
def entryPa (table level va : Nat) : Nat := table + 8 * ((va / levelSize level) % levelEntries level)

/-- One level of a walk, read from memory as it stands (R66); a table line with an error gives WALKDATA (R377). A table that does not
lie in a panel of the partition, as after RESIZE, is not read (R315; DEDUCED, log 140). -/
def State.walkLevel (s : State) (p : Partition) (va level table : Nat) : WalkRes :=
  let pa := entryPa table level va
  let m := SMap.getD s.lineMeta (pa / 128) {}
  if !p.panels.getLsbD (panelOfPa pa) then .bad 6 0
  else if m.poison ∨ m.damage ≠ .none ∨ (SMap.find? s.retiredPages (pa / 65536)).isSome then .bad 8 (pa / 128 * 128)
  else walkEntry p.panels p.accCount level (BitVec.ofNat 64 (Memory.readLE s.mem pa 8))

/-- A whole walk at once, for the units whose walks the model does not spread over steps (the partition manager, the
record writer and Agate). -/
def State.walkAll (s : State) (p : Partition) (va : Nat) : (fuel level table : Nat) → WalkRes
  | 0, _, _ => .bad 3 0
  | fuel + 1, level, table =>
    match s.walkLevel p va level table with
    | .next t => s.walkAll p va fuel (level + 1) t
    | r => r

/-- The physical address and attributes of a virtual address by a walk at once. -/
def State.translateNow (s : State) (p : Partition) (va : Nat) : Option (Nat × BitVec 8) :=
  match s.walkAll p va 4 0 p.level0 with
  | .leaf size pa at' => some (pa + va % size, at')
  | _ => none

/-- The bytes from a virtual address by walks at once, page by page; none if a page does not translate. -/
def State.readVaPages (s : State) (p : Partition) : (fuel va n : Nat) → Option (List Byte)
  | 0, _, n => if n = 0 then some [] else none
  | fuel + 1, va, n =>
    if n = 0 then some []
    else
      let k := Nat.min n (65536 - va % 65536)
      match s.translateNow p va with
      | none => none
      | some x => (s.readVaPages p fuel (va + k) (n - k)).map (fun r => Memory.readN s.mem x.1 k ++ r)

/-- The bytes from a virtual address. -/
def State.readVa (s : State) (p : Partition) (va n : Nat) : Option (List Byte) := s.readVaPages p (n / 65536 + 2) va n

/-- The entry of a bolt's translation buffer for a virtual address (R65). -/
def Bolt.lookup (b : Bolt) (peer va : Nat) : Option TlbEntry :=
  b.tlb.find? (fun t => t.peer == peer && Nat.ble t.va va && Nat.blt va (t.va + t.size))

/-- Who waits for a walk, as a pair of a unit code and a number: 0 the engines of contexts, 1 the matrix side of a bolt. -/
abbrev Who := Nat × Nat
/-- An engine of a context. -/
def Sel.who (e : Sel) : Who := (0, 4 * e.loom + (if e.ev then 2 else 0) + (match e.eng with | .A => 0 | .X => 1))

/-- The bolt whose buffer a unit uses. -/
def Who.bolt (w : Who) : Nat := if w.1 = 0 then w.2 / 32 else w.2

/-- The page of a virtual address, as walks are joined by it (R66). -/
def pageOf (va : Nat) : Nat := va / 65536

/-- Translates one virtual address at issue: its page's entry, or the wait for its walk, or the fault of the walk that
failed (R65, R377). -/
def State.translate (s : State) (w : Who) (peer va : Nat) : Act TlbEntry :=
  let b := s.bolt w.bolt
  match b.lookup peer va with
  | some t => .ok t
  | none =>
    match b.badWalks.find? (fun x => x.who == w && x.peer == peer && x.page == pageOf va) with
    | some x => .error (.fault { cls := 3, cause := x.cause, addr := va, d0 := x.entry, d1 := x.level })
    | none => .error (.wait (.walk va))

/-! ## Operations and what admits them (R54) -/

/-- The operations of R54, and the writing and the reading of a context area, whose page must be writable, MS clear and untagged in
both cases (R308, R309). -/
inductive MemOp where
  | load | store | atomic | faa | copySrc | copyDst | redDst | mcDst | decDst | fetch | object | armed | tileC | save | restore
  deriving DecidableEq, Repr

/-- Whether a store, atomic or copy write is asked for (W of R63). -/
def MemOp.writes : MemOp → Bool
  | .store | .atomic | .faa | .copyDst | .redDst | .mcDst | .decDst | .save => true
  | _ => false

/-- Whether a page must have W for it (R63): what writes, and the area that CTX.LOAD reads (R309). -/
def MemOp.needsW (op : MemOp) : Bool := op.writes || op == .restore

/-- Whether a space other than 0x0 admits an operation. -/
def MemOp.inSpace (op : MemOp) (pl : Place) : Bool :=
  match pl, op with
  | .bolt _, .decDst => true
  | _, .decDst => false
  | .virt _, .save | .virt _, .restore => true
  | _, .save | _, .restore => false
  | .virt _, .mcDst => false
  | .virt _, _ => true
  | .loom _, .fetch | .loom _, .armed | .loom _, .redDst | .loom _, .mcDst | .loom _, .tileC => false
  | .loom _, _ => true
  | .bolt _, .fetch | .bolt _, .redDst | .bolt _, .mcDst | .bolt _, .tileC => false
  | .bolt _, _ => true
  | .multicast _, .load | .multicast _, .store | .multicast _, .mcDst => true
  | .multicast _, _ => false
  | .peer .., .fetch | .peer .., .mcDst | .peer .., .tileC => false
  | .peer .., _ => true
  | .striped _, .fetch | .striped _, .mcDst | .striped _, .object | .striped _, .tileC => false
  | .striped _, _ => true

/-- Whether a page of space 0x0 admits an operation. -/
def MemOp.inPage (op : MemOp) (at' : BitVec 8) : Bool :=
  let aw := at'.getLsbD attrAW
  match op with
  | .load | .copySrc => true
  | .store | .atomic | .faa | .copyDst => !aw
  | .save | .restore => !aw && !at'.getLsbD attrZ && !at'.getLsbD attrT && !at'.getLsbD attrMS
  | .redDst | .tileC => aw
  | .mcDst | .decDst => false
  | .fetch => at'.getLsbD attrX
  | .object | .armed => at'.getLsbD attrMS

/-- The completion counter that a run of physical bytes meets, if any (R21). -/
def Partition.counterAt (p : Partition) (pa len : Nat) : Option Nat :=
  if p.counterTable < pa + len ∧ pa < p.counterTable + p.counterSize then some ((pa - p.counterTable) / 16) else none

/-- The completion counters that writes to a run of pages meet: the first address whose page is translated into the table, and the
counter's index; the walks of the pages come first, and a page whose walk has failed meets none (R416 step 5; DEDUCED, log 14). -/
def State.pagesCounter (s : State) (w : Who) (peer : Nat) : (fuel va len : Nat) → Act (Option (Nat × Nat))
  | 0, _, _ => .ok none
  | fuel + 1, va, len =>
    if len = 0 then .ok none
    else
      match s.translate w peer va with
      | .error (.wait w) => .error (.wait w)
      | .error (.fault _) =>
        let n := Nat.min len (65536 - va % 65536)
        s.pagesCounter w peer fuel (va + n) (len - n)
      | .ok t =>
        let n := Nat.min len (t.va + t.size - va)
        match (s.part? peer).bind (fun p => p.counterAt (t.pa + (va - t.va)) n) with
        | some i => .ok (some (va, i))
        | none => s.pagesCounter w peer fuel (va + n) (len - n)

/-- Translates every page of a run of bytes in ascending order, checking permission and admission page by page (R416
step 7); the spans it gives lie in ascending order. -/
def State.pages (s : State) (w : Who) (peer : Nat) (op : MemOp) (maj : Nat) (off : Nat) :
    (fuel va len : Nat) → Act (List Span)
  | 0, _, _ => .ok []
  | fuel + 1, va, len =>
    if len = 0 then .ok []
    else do
      let t ← s.translate w peer va
      let at' := t.attrs
      let n := Nat.min len (t.va + t.size - va)
      if op.needsW && !at'.getLsbD attrW then
        .error (.fault { cls := 3, cause := 7, addr := va, d0 := leafBits t, d1 := 3 })
      else if !op.inPage at' then .error (if op = .fetch then faultOf 2 5 va else faultOf 2 3 va maj)
      else
        let rest ← s.pages w peer op maj (off + n) fuel (va + n) (len - n)
        return { pa := t.pa + (va - t.va), va := va, len := n, off := off, attrs := at' } :: rest
where
  /-- The leaf as the table holds it (R63). -/
  leafBits (t : TlbEntry) : Nat := t.attrs.toNat * 2 ^ 48 + t.pa + 3

/-! ## The fabric group (R53, R167) -/

/-- The members of the current fabric group in group order. -/
def State.members (s : State) (peer : Nat) : List Member :=
  match s.part? peer with
  | some p => (p.fabric.map (·.members)).getD []
  | none => []

/-- The coordinates of a member on the torus (R292). -/
def Fabric.coords (f : Fabric) (m : Nat) : List Nat :=
  [m % f.dims.1, (m / f.dims.1) % f.dims.2.1, m / (f.dims.1 * f.dims.2.1)]

/-- The torus role towards a member: the lowest dimension that differs, the shorter way round, + where both are equal
(R294). -/
def Fabric.torusRole (f : Fabric) (m : Nat) : Option Nat :=
  let here := f.coords f.self
  let there := f.coords m
  let size := [f.dims.1, f.dims.2.1, f.dims.2.2]
  ([0, 1, 2].find? (fun d => here.getD d 0 != there.getD d 0)).map (fun d =>
    let n := size.getD d 1
    let up := (there.getD d 0 + n - here.getD d 0) % n
    if up ≤ n - up then 2 * d + 1 else 2 * d + 2)

/-- The port by which a request leaves for the member of an index (R294): ports that are down take no part (R399). -/
def State.route (s : State) (peer : Nat) (red : Bool) (m : Nat) : Option Nat :=
  match (s.part? peer).bind (·.fabric) with
  | none => none
  | some f =>
    let up := f.roles.filter (fun r => (SMap.getD s.ports r.1 {}).up)
    let pick (rs : List (Nat × Nat × Nat)) : Option Nat := (rs[m % rs.length]?).map (·.1)
    let express := up.filter (fun r => r.2.1 == 9 && r.2.2 == m)
    let ring := up.filter (fun r => red && (r.2.1 == 7 || r.2.1 == 8) && r.2.2 == m)
    if express ≠ [] then pick express
    else if ring ≠ [] then pick ring
    else (f.torusRole m).bind (fun role => pick (up.filter (fun r => r.2.1 == role)))

/-- The group index of a peer. -/
def State.memberOf (s : State) (peer target : Nat) : Option Nat := (s.members peer).findIdx? (·.peer == target)

/-- Whether a peer is reachable: a port leads to its member, or it is the issuing partition itself (R167, R400). -/
def State.reachable (s : State) (peer target : Nat) (red : Bool := false) : Bool :=
  target == peer || ((s.memberOf peer target).bind (s.route peer red)).isSome

/-- The reachability check at issue (R167, R400), whose record names the line of the instruction; while the partition drains, requests to peers are held (R298). -/
def State.checkPeer (s : State) (peer target : Nat) (red : Bool := false) : Act Unit :=
  if ((s.part? peer).bind (·.drain)).isSome then .error (.wait .data)
  else if s.reachable peer target red then .ok ()
  else .error (.fault { cls := 0x20, cause := 5, d0 := target })

/-- The peer and peer address of a striped offset (R53). -/
def State.stripe (s : State) (peer off : Nat) : Option (Nat × Nat) :=
  let ms := s.members peer
  let n := off / 65536
  if ms.length = 0 then none
  else (ms[n % ms.length]?).map (fun m => (m.peer, m.swbase + (n / ms.length) * 65536 + off % 65536))

/-- The parts of a striped run of bytes (R168). -/
def State.stripes (s : State) (peer off : Nat) : (fuel va len : Nat) → Option (List Span)
  | 0, _, _ => some []
  | fuel + 1, va, len =>
    if len = 0 then some []
    else
      match s.stripe peer va with
      | none => none
      | some (p, pva) =>
        let n := Nat.min len (65536 - va % 65536)
        (s.stripes peer (off + n) fuel (va + n) (len - n)).map (fun r =>
          { pa := 0, va := pva, len := n, off := off, peer := some p } :: r)

/-! ## The checks of R416 from step 4 -/

/-- Step 4: the space, then the offset range (DEDUCED, log 57). -/
def checkSpace (a : W64) (len : Nat) : Act Place :=
  match place a with
  | none => .error (faultOf 2 1 a.toNat)
  | some pl => if pl.offset.1 + len ≤ pl.offset.2 then .ok pl else .error (faultOf 2 2 a.toNat len)

/-- Step 5: admission by the space, then the completion-counter table. -/
def State.checkAdmits (s : State) (w : Who) (peer : Nat) (op : MemOp) (maj : Nat) (a : W64) (pl : Place) (len : Nat) : Act Unit :=
  if !op.inSpace pl then .error (faultOf 2 3 a.toNat maj)
  else
    match pl with
    | .virt va =>
      if !op.writes then .ok ()
      else
        match s.pagesCounter w peer (len / 65536 + 2) va len with
        | .error x => .error x
        | .ok (some (x, i)) => .error (faultOf 2 4 x i)
        | .ok none => .ok ()
    | _ => .ok ()

/-- The parts of a run of bytes that lie at peers: one in space 0x4, one for each stripe in space 0x6; none for another space, and none
where the group has no member (R53, R168). -/
def State.peerParts (s : State) (peer off : Nat) (pl : Place) (len : Nat) : Option (List Span) :=
  match pl with
  | .peer q va => some [{ pa := 0, va := va, len := len, off := off, peer := some q }]
  | .striped o => s.stripes peer off (len / 65536 + 2) o len
  | _ => some []

/-- Step 6: every part at a peer is reachable. -/
def State.checkReach (s : State) (peer : Nat) (op : MemOp) (pl : Place) (len : Nat) : Act Unit :=
  match s.peerParts peer 0 pl len with
  | some sps => sps.forM (fun sp => s.checkPeer peer (sp.peer.getD 0) (op == .redDst))
  | none => .error (.fault { cls := 0x20, cause := 5 })

/-- Step 7: the spans of a place, translated, permitted and admitted page by page. -/
def State.spansOf (s : State) (w : Who) (loom peer : Nat) (op : MemOp) (maj off : Nat) (a : W64) (pl : Place) (len : Nat) :
    Act (List Span) :=
  match pl with
  | .virt va => s.pages w peer op maj off (len / 65536 + 2) va len
  | .loom o => .ok [{ pa := loomPad loom o, va := a.toNat, len := len, off := off }]
  | .bolt o => .ok [{ pa := boltPad (boltOf loom) o, va := a.toNat, len := len, off := off }]
  | .multicast o => .ok [{ pa := loomPad loom o, va := a.toNat, len := len, off := off }]
  | pl => .ok ((s.peerParts peer off pl len).getD [])

/-- A run of bytes that a command names: what it does there, the major it belongs to, where it stands among the command's data,
its address and its length. -/
structure Run where
  op : MemOp
  maj : Nat
  off : Nat
  addr : W64
  len : Nat
  deriving DecidableEq, Repr

/-- Steps 4 to 7 of R416 over the runs of an instruction or command, each step over all of them before the next begins, in the order in
which the runs are given. -/
def State.checkCommand (s : State) (w : Who) (loom peer : Nat) (runs : List Run) : Act (List (List Span)) := do
  let pls ← runs.mapM (fun r => do return (r, ← checkSpace r.addr r.len))
  pls.forM (fun x => s.checkAdmits w peer x.1.op x.1.maj x.1.addr x.2 x.1.len)
  pls.forM (fun x => s.checkReach peer x.1.op x.2 x.1.len)
  pls.mapM (fun x => s.spansOf w loom peer x.1.op x.1.maj x.1.off x.1.addr x.2 x.1.len)

/-- Steps 4 to 7 for one run of bytes. -/
def State.checkRun (s : State) (w : Who) (loom peer : Nat) (op : MemOp) (maj off : Nat) (a : W64) (len : Nat) :
    Act (List Span) := do
  return (← s.checkCommand w loom peer [⟨op, maj, off, a, len⟩]).flatten

/-- Puts a run among runs of rising addresses. -/
def insertRun (r : Run) : List Run → List Run
  | [] => [r]
  | x :: rest => if r.addr.toNat < x.addr.toNat then r :: x :: rest else x :: insertRun r rest

/-- The spans of the rows or elements of one access, in ascending address order (R168, R416). -/
def State.checkRuns (s : State) (w : Who) (loom peer : Nat) (op : MemOp) (maj : Nat) (runs : List (Nat × W64 × Nat)) :
    Act (List Span) := do
  let rising := runs.foldl (fun rs r => insertRun ⟨op, maj, r.1, r.2.1, r.2.2⟩ rs) []
  return (← s.checkCommand w loom peer rising).flatten

/-- The declared latency of a place (R158). A peer that the fabric table does not list, as the partition's own where no table lists it,
has a LAT of 0 (DESIGN CHOICE, log 141). -/
def State.latency (s : State) (peer : Nat) (sp : Span) (a : W64) : Nat :=
  match place a with
  | some (.loom _) | some (.multicast _) => 96
  | some (.bolt _) => 384
  | some (.virt _) => if sp.attrs.getLsbD attrAW then 384 else if sp.attrs.getLsbD attrLP then 3072 else 1536
  | some (.peer q _) => ((s.members peer).find? (·.peer == q)).elim 0 (·.lat)
  | some (.striped _) => (sp.peer.bind (fun q => (s.members peer).find? (·.peer == q))).elim 0 (·.lat)
  | none => 0

end Sys2Proof.Machine
end

