-- ==== Sys2Proof/Machine/Memory.lean ====
section
/-!
DEFINITION. What memory does with an access: the line codec (R68 to R70), errors, poison and retirement (R369 to R373),
metadata (R379), bobbins that count writes (R185), barriers (R179, R180), and the L1 (R58).
-/

namespace Sys2Proof.Machine

/-! ## The line codec (R69) -/

/-- The 32-bit words of a line. -/
def wordsOf (bs : List Byte) (n : Nat) : List W32 := (List.range n).map (fun i => word32 ((bs.drop (4 * i)).take 4))

/-- The compression code that the controller chooses for a line (R69). -/
def lineCode (ws : List W32) : BitVec 3 :=
  let b := ws.headD 0
  let d := ws.map (fun w => (w - b).toInt)
  if ws.all (· == 0) then 1
  else if ws.all (· == b) then 2
  else if d.all (fun x => decide (-128 ≤ x) && decide (x ≤ 127)) then 3
  else if d.all (fun x => decide (-32768 ≤ x) && decide (x ≤ 32767)) then 4
  else 0

/-- The bytes that a line stores under a code (R69); the rest of its sectors is zero. -/
def storedBytes (code : BitVec 3) (ws : List W32) : List Byte :=
  let b := ws.headD 0
  match code.toNat with
  | 1 => []
  | 2 => bytes32 b
  | 3 => bytes32 b ++ ws.map (fun w => (w - b).setWidth 8)
  | 4 => bytes32 b ++ ws.flatMap (fun w => [(w - b).extractLsb' 0 8, (w - b).extractLsb' 8 8])
  | _ => ws.flatMap bytes32

/-- The words that stored bytes stand for (R69). -/
def decodeStored (code : BitVec 3) (bs : List Byte) : List W32 :=
  let b := word32 (bs.take 4)
  match code.toNat with
  | 1 => List.replicate 32 0
  | 2 => List.replicate 32 b
  | 3 => (List.range 32).map (fun i => b + (bs.getD (4 + i) 0).signExtend 32)
  | 4 => (List.range 32).map (fun i => b + ((bs.getD (5 + 2 * i) 0) ++ (bs.getD (4 + 2 * i) 0) : BitVec 16).signExtend 32)
  | _ => (List.range 32).map (fun i => word32 ((bs.drop (4 * i)).take 4))

/-- Sectors transferred for a code (R69). -/
def codeSectors (code : BitVec 3) : Nat := [4, 0, 1, 2, 3].getD code.toNat 4

/-! ## Errors and metadata of a line -/

/-- A line's record; a line of which nothing has happened holds VALUE and RAW. -/
def State.line (s : State) (pa : Nat) : LineMeta := SMap.getD s.lineMeta (pa / 128) {}
/-- Replaces a line's record. -/
def State.setLine (s : State) (pa : Nat) (m : LineMeta) : State :=
  { s with lineMeta := if m = {} then SMap.erase s.lineMeta (pa / 128) else SMap.set s.lineMeta (pa / 128) m }

/-- The unit that holds a byte, as UKIND ++ UNUM (R336, R367) (DEDUCED, log 64). -/
def unitOf (pa : Nat) : Nat :=
  if inHbm pa then 4 * 512 + stackOf pa
  else if inAcc pa then 3 * 512 + sliceOf pa
  else if pa < 2 ^ 43 then 5 * 512 + 2 * panelOfPa pa + (pa / 256) % 2
  else if pa < 2 ^ 44 then (pa - 2 ^ 43) / 2 ^ 20
  else 14 * 512 + (pa - 2 ^ 44) / 2 ^ 23

/-- The memory channel of a line: 16 for each stack, then the LPDDR channels (R372). -/
def channelOf (pa : Nat) : Nat :=
  if inHbm pa then 16 * stackOf pa + (pa / 2 ^ 11) % 16 else 512 + 2 * panelOfPa pa + (pa / 256) % 2

/-- Whether a byte lies in HBM or LPDDR. -/
def offChip (pa : Nat) : Bool := inHbm pa || inLpddr pa

/-- Fences a channel; its unit record is written at the end of the step (R372). -/
def State.fenceChannel (s : State) (chan : Nat) : State :=
  if chan ∈ s.fencedChannels then s
  else { s with fencedChannels := chan :: s.fencedChannels, fenceRecords := s.fenceRecords ++ [chan] }

/-- Whether the 64 KiB page of a byte is retired (R371). -/
def State.pageRetired (s : State) (pa : Nat) : Bool := (SMap.find? s.retiredPages (pa / 65536)).isSome

/-- The retirement table of a channel: one for the 16 channels of a stack, one for each LPDDR channel (R371). -/
def retireTable (chan : Nat) : Nat := if chan < 512 then chan / 16 else chan

/-- Retires the page of a line for the channel of that line, and fences the channel when it holds 8 retired pages or its table is full
(R371, R372). -/
def State.retire (s : State) (pa : Nat) : State :=
  let chan := channelOf pa
  let room := if chan < 512 then 128 else 32
  if s.pageRetired pa then s
  else if room ≤ (s.retiredPages.filter (fun x => retireTable x.2 == retireTable chan)).length then s.fenceChannel chan
  else
    let pages := SMap.set s.retiredPages (pa / 65536) chan
    let s := { s with retiredPages := pages }
    if 8 ≤ (pages.filter (fun x => x.2 == chan)).length then s.fenceChannel chan else s

/-- What a read that meets an uncorrectable error does to the line: it is poisoned, or its page is retired when the line
had been written whole since it was last poisoned (R370, R371). -/
def State.meetError (s : State) (pa : Nat) : State :=
  let m := s.line pa
  let s := if m.rewritten && offChip pa then s.retire pa else s
  s.setLine pa { m with poison := true, damage := .none, rewritten := false }

/-- A fault of the classes 0x10 to 0x15 that memory raises; it is asynchronous against a loom (R346). -/
def memFault (pa cls cause va d0 d1 : Nat) : FaultInfo :=
  { cls := cls, cause := cause, addr := va, d0 := d0, d1 := d1, precise := false, src := 4, unit := some (unitOf pa) }

/-- ACCDATA (R391): the tile that holds a byte of the accumulator range, and the offset in elements (DEDUCED, log 157). -/
def State.accFault (s : State) (pa va : Nat) : FaultInfo :=
  let n := pa / 65536
  let int := (SMap.getD s.tiles (n / 2 * 2) {}).int
  let base := 65536 * (if int then n / 2 * 2 else n)
  memFault pa 21 6 va base ((pa - base) / (if int then 8 else 4))

/-- Whether an error lies in one of some sectors. -/
def Damage.in' (d : Damage) (sectors : BitVec 4) : Bool :=
  match d with
  | .data bad => bad &&& sectors != 0
  | _ => false

/-- What an access to one line meets, and the state after it (R370 to R372, R379): `whole` says that it writes all 128
bytes, `reads` which sectors of the line it reads or merges with. -/
def State.meetLine (s : State) (pa va : Nat) (at' : BitVec 8) (whole : Bool) (reads : BitVec 4) : State × Option FaultInfo :=
  let l := pa / 128 * 128
  let m := s.line pa
  let code := m.cell.toNat + 4 * m.code.toNat
  if offChip pa ∧ s.pageRetired pa = true then (s, some (memFault pa 16 3 va (pa / 65536 * 65536) (unitOf pa)))
  else if offChip pa ∧ channelOf pa ∈ s.fencedChannels then (s, some (memFault pa 16 4 va l (channelOf pa)))
  else if inAcc pa ∧ (s.panel (panelOfPa pa)).faulted = true then (s, some (memFault pa 16 4 va l (sliceOf pa)))
  else if whole then (s, none)
  else if m.poison then
    (s, some (if inAcc pa then s.accFault pa va else memFault pa 16 2 va l (unitOf pa)))
  else if m.damage = .side then (s.meetError pa, some (memFault pa 17 3 va l 0))
  else if m.damage.in' reads then
    (s.meetError pa, some (if inAcc pa then s.accFault pa va else memFault pa 16 1 va l (unitOf pa)))
  else if m.cell = 3 then (s, some (memFault pa 17 1 va l code))
  else if 5 ≤ m.code.toNat then (s, some (memFault pa 17 2 va l code))
  else if inHbm pa ∧ ((m.cell ≠ 0 ∧ !at'.getLsbD attrT) ∨ (m.code ≠ 0 ∧ !at'.getLsbD attrZ)) then
    (s, some (memFault pa 17 4 va l code))
  else (s, none)

/-- Whether a line is SUSPENDED or EVALUATING. -/
def State.suspended (s : State) (pa : Nat) : Bool := inHbm pa && ((s.line pa).cell == 1 || (s.line pa).cell == 2)

/-! ## Pieces of a span within lines -/

/-- A piece of a run of bytes that lies in one 128-byte line. -/
structure Piece where
  pa : Nat
  va : Nat
  off : Nat
  len : Nat
  deriving DecidableEq, Repr

/-- The sectors from one of a line to another. -/
def sectorMask (lo hi : Nat) : BitVec 4 := BitVec.ofNat 4 (2 ^ (hi + 1) - 2 ^ lo)

/-- The sectors of its line that a read of a piece reads (R69, R70): on a page with Z those that the line's code uses, else those that
it touches. A line of LPDDR is one unit of error correction (R369). -/
def State.readMask (s : State) (at' : BitVec 8) (p : Piece) : BitVec 4 :=
  if inLpddr p.pa then 0xF
  else if inHbm p.pa && at'.getLsbD attrZ then sectorMask 0 (codeSectors (s.line p.pa).code) &&& ~~~(sectorMask (codeSectors (s.line p.pa).code) 3)
  else sectorMask (p.pa % 128 / 32) ((p.pa % 128 + p.len - 1) / 32)

/-- The sectors of its line that a write of a piece reads and merges (R70): none for a whole line; on a page with Z those that the
line's code uses, else those that it writes only in part. -/
def State.mergeMask (s : State) (at' : BitVec 8) (p : Piece) : BitVec 4 :=
  if p.len = 128 then 0
  else if inLpddr p.pa ∨ at'.getLsbD attrZ then s.readMask at' p
  else
    let first := p.pa % 128 / 32
    let last := (p.pa % 128 + p.len - 1) / 32
    (if p.pa % 32 = 0 then 0 else sectorMask first first) ||| (if (p.pa + p.len) % 32 = 0 then 0 else sectorMask last last)
      ||| (if first = last ∧ p.len < 32 then sectorMask first first else 0)

/-- Whether an access meets a suspended line as a suspension: the line is on a tagged page and nothing that R370 to R372 and R379 name
comes before its cell state (DEDUCED, log 47). -/
def State.meetsCell (s : State) (p : Piece) (at' : BitVec 8) : Bool :=
  s.suspended p.pa && at'.getLsbD attrT && (s.meetLine p.pa p.va at' false (s.readMask at' p)).2.isNone

/-- Whether a line refuses a store because it is SUSPENDED or EVALUATING (R110), which a write of all of it meets on an untagged page
too (R379); what R370 to R372 name comes before. -/
def State.refusesStore (s : State) (p : Piece) (at' : BitVec 8) : Bool :=
  s.suspended p.pa && (at'.getLsbD attrT || p.len == 128) && (s.meetLine p.pa p.va (at' ||| 0xC) false (s.mergeMask at' p)).2.isNone

/-- Cuts a run of bytes at lines, ascending. -/
def pieces (pa va off : Nat) : (fuel len : Nat) → List Piece
  | 0, _ => []
  | fuel + 1, len =>
    if len = 0 then []
    else
      let n := Nat.min len (128 - pa % 128)
      ⟨pa, va, off, n⟩ :: pieces (pa + n) (va + n) (off + n) fuel (len - n)

/-- The pieces of a span. -/
def Span.pieces (sp : Span) : List Piece := Machine.pieces sp.pa sp.va sp.off (sp.len / 128 + 2) sp.len

/-- Reads the pieces of a span until one faults; no byte of a line that faults is returned (R332). -/
def State.readPieces (s : State) (at' : BitVec 8) : List Piece → State × List Byte × Option FaultInfo
  | [] => (s, [], none)
  | p :: r =>
    match s.meetLine p.pa p.va at' false (s.readMask at' p) with
    | (s, some f) => (s, [], some f)
    | (s, none) =>
      let (s, bs, f) := s.readPieces at' r
      (s, Memory.readN s.mem p.pa p.len ++ bs, f)

/-- Reads a span. -/
def State.readSpan (s : State) (sp : Span) : State × List Byte × Option FaultInfo := s.readPieces sp.attrs sp.pieces

/-! ## Bobbins (R185) -/

/-- How many bytes two runs share. -/
def overlapLen (a n b m : Nat) : Nat := Nat.min (a + n) (b + m) - Nat.max a b

/-- The firings that a count makes: how many, the count left and whether a surplus was carried (R185); the contexts whose bytes it
counted have caused them (R46). -/
def Bobbin.fire (b : Bobbin) : Bobbin :=
  if b.target = 0 ∨ (b.count < b.target) then b
  else if b.rearm then
    let k := b.count / b.target
    { b with count := b.count % b.target, fires := b.fires + BitVec.ofNat 8 k, state := 2, held := b.held + k,
             overcount := b.overcount || decide (b.count % b.target ≠ 0 ∨ 1 < k), heldBy := (b.heldBy ++ b.by').eraseDups,
             by' := if b.count % b.target = 0 then [] else b.by'.drop (b.by'.length - 1) }
  else { b with count := 0, counting := false, fires := b.fires + 1, state := 2, held := b.held + 1, heldBy := b.by', by' := [] }

/-- Adds the bytes of one write to a bobbin; `who` is the context that wrote. -/
def Bobbin.add (b : Bobbin) (n : Nat) (who : Option (Nat × Bool)) : Bobbin :=
  if b.counting && n != 0 then { b with count := b.count + n, by' := b.by'.filter (fun x => some x != who) ++ who.toList }.fire else b

/-- The bytes of runs that lie in the region of a bobbin. -/
def Bobbin.share (b : Bobbin) (runs : List (Nat × Nat)) : Nat :=
  (runs.map (fun r => (b.extents.map (fun e => overlapLen r.1 r.2 e.1 e.2)).sum)).sum

/-- Adds the bytes of one performed write, which may be several runs, to every bobbin armed on them, as one update of each (R185). -/
def State.countWrite (s : State) (runs : List (Nat × Nat)) (who : Option (Nat × Bool) := none) : State :=
  { s with bobbins := s.bobbins.map (fun (k, b) => (k, b.add (b.share runs) who)) }

/-- A bobbin; one that was never armed is free. -/
def State.bobbin (s : State) (k : Nat) : Bobbin := SMap.getD s.bobbins k {}
/-- Replaces a bobbin. -/
def State.setBobbin (s : State) (k : Nat) (b : Bobbin) : State := { s with bobbins := SMap.set s.bobbins k b }

/-- A freed bobbin, which keeps its GEN (DEDUCED, log 12). -/
def Bobbin.freed (b : Bobbin) : Bobbin :=
  { state := 0, gen := b.gen, peer := b.peer, fires := b.fires, overcount := b.overcount, rearm := b.rearm }

/-- A firing's action is posted, or counts as posted: the bobbin is armed again, or freed, once no other waits. -/
def State.actionPosted (s : State) (k : Nat) : State :=
  let b := s.bobbin k
  let b := { b with held := b.held - 1, heldBy := if b.held ≤ 1 then [] else b.heldBy }
  if b.held ≠ 0 then s.setBobbin k b
  else if b.rearm then s.setBobbin k { b with state := 1 }
  else s.setBobbin k b.freed

/-! ## Writing -/

/-- The bytes of the line that a byte lies in. -/
def State.lineBytes (s : State) (pa : Nat) : List Byte := Memory.readN s.mem (pa / 128 * 128) 128

/-- The record of a line after a write: a whole write gives fresh metadata and clears poison, and on a page with Z the code
follows the contents (R69 to R71, R371, R379). A cell state that can be read and that only the suspension mechanism changes stays
(R68). -/
def State.metaAfter (s : State) (pa : Nat) (at' : BitVec 8) (whole : Bool) : LineMeta :=
  let m := s.line pa
  let code := if inHbm pa && at'.getLsbD attrZ then lineCode (wordsOf (s.lineBytes pa) 32) else if whole then 0 else m.code
  let kept := (m.cell == 1 || m.cell == 2) && !m.poison && m.damage != .side
  if whole then { cell := if kept then m.cell else 0, code := code, poison := false, rewritten := m.poison || m.rewritten, damage := .none }
  else { m with code := code }

/-- Writes the bytes of one piece of a store or copy write at its point of coherence. -/
def State.putPiece (s : State) (at' : BitVec 8) (p : Piece) (bs : List Byte) : State :=
  let s := { s with mem := Memory.writeN s.mem p.pa bs }
  s.setLine p.pa (s.metaAfter p.pa at' (p.len == 128))

/-- Writes the pieces of a span until one faults; what was performed stays performed (R332), and the runs of it are answered. The
data stand at the pieces' offsets. A line that is SUSPENDED or EVALUATING refuses the write (R110). -/
def State.writePieces (s : State) (at' : BitVec 8) (data : List Byte) : List Piece → State × List (Nat × Nat) × Option FaultInfo
  | [] => (s, [], none)
  | p :: r =>
    if s.refusesStore p at' then
      (s, [], some (memFault p.pa 18 1 p.va (p.va / 128 * 128) ((s.line p.pa).cell.toNat)))
    else
      match s.meetLine p.pa p.va at' (p.len == 128) (s.mergeMask at' p) with
      | (s, some f) => (s, [], some f)
      | (s, none) =>
        let (s, runs, f) := (s.putPiece at' p ((data.drop p.off).take p.len)).writePieces at' data r
        (s, (p.pa, p.len) :: runs, f)

/-- Writes several spans from data that stand at their offsets until one faults; the runs performed are answered, and no bobbin has
counted them yet. -/
def State.writeRuns (s : State) (data : List Byte) : List Span → State × List (Nat × Nat) × Option FaultInfo
  | [] => (s, [], none)
  | sp :: r =>
    match s.writePieces sp.attrs data sp.pieces with
    | (s, runs, some f) => (s, runs, some f)
    | (s, runs, none) =>
      let (s, more, f) := s.writeRuns data r
      (s, runs ++ more, f)

/-- Performs one write over several spans: each bobbin counts it in one update (R185). `who` is the context that writes, if one
does. -/
def State.writeSpans (s : State) (data : List Byte) (sps : List Span) (who : Option (Nat × Bool) := none) : State × Option FaultInfo :=
  let (s, runs, f) := s.writeRuns data sps
  (s.countWrite runs who, f)

/-- Performs one write of a span. -/
def State.writeSpan (s : State) (sp : Span) (data : List Byte) (who : Option (Nat × Bool) := none) : State × Option FaultInfo :=
  s.writeSpans data [sp] who

/-- Reads several spans until one faults. -/
def State.readSpans (s : State) : List Span → State × List Byte × Option FaultInfo
  | [] => (s, [], none)
  | sp :: r =>
    match s.readSpan sp with
    | (s, bs, some f) => (s, bs, some f)
    | (s, bs, none) =>
      let (s, more, f) := s.readSpans r
      (s, bs ++ more, f)

/-! ## The L1 (R58) -/

/-- Whether a page's lines may stand in an L1. -/
def l1Page (sp : Span) : Bool := sp.attrs.getLsbD attrC && !sp.attrs.getLsbD attrMS && offChip sp.pa

/-- The set of the L1 that a line falls in: 2,048 lines, 8-way (R55; the choice of the set is the model's: DESIGN CHOICE, log 142). -/
def l1Set (line : Nat) : Nat := line % 256

/-- Takes a line into an L1; a full set gives up the line that a free choice names (R55; DESIGN CHOICE, log 142). -/
def l1Insert (l1 : SMap (List Byte)) (free : Nat) (line : Nat) (bs : List Byte) : SMap (List Byte) :=
  let set' := (l1.map (·.1)).filter (fun x => l1Set x == l1Set line && x != line)
  let l1 := if 8 ≤ set'.length then SMap.erase l1 (set'.getD (Config.evicted free % set'.length) 0) else l1
  SMap.set l1 line bs

/-- Fills the loom's L1 with the lines of a span as memory holds them. -/
def State.l1Fill (s : State) (loom : Nat) (sp : Span) : State :=
  if !l1Page sp then s
  else sp.pieces.foldl (fun s p =>
    let l := s.loom loom
    { s.setLoom loom { l with l1 := l1Insert l.l1 s.freeIdx (p.pa / 128) (s.lineBytes p.pa) } with freeIdx := s.freeIdx + 1 }) s

/-- The bytes of a span from the loom's L1, if it holds every line. -/
def State.l1Read (s : State) (loom : Nat) (sp : Span) : Option (List Byte) :=
  if !l1Page sp then none
  else (sp.pieces.mapM (fun p =>
    (SMap.find? (s.loom loom).l1 (p.pa / 128)).map (fun bs => (bs.drop (p.pa % 128)).take p.len))).map List.flatten

/-- A store updates the lines that the loom's own L1 holds, and allocates none. -/
def State.l1Update (s : State) (loom : Nat) (sp : Span) : State :=
  sp.pieces.foldl (fun s p =>
    let l := s.loom loom
    if (SMap.find? l.l1 (p.pa / 128)).isSome then
      s.setLoom loom { l with l1 := SMap.set l.l1 (p.pa / 128) (s.lineBytes p.pa) }
    else s) s

/-- Drops every line of a loom's L1 (FENCE.D). -/
def State.l1Clear (s : State) (loom : Nat) : State := s.setLoom loom { s.loom loom with l1 := [] }

/-! ## The binding table (R283) -/

/-- A valid entry of the binding table: its place, base, length, object and kind. -/
structure Binding where
  idx : Nat
  base : Nat
  len : Nat
  obj : Nat
  kind : Nat
  deriving DecidableEq, Repr

/-- The valid entries of a partition's binding table: the binding section of the resident plane (R281, R283). -/
def Partition.bindings (p : Partition) : List Binding :=
  (List.range 256).filterMap (fun i =>
    let at' (off n : Nat) := planeLE p.plane (0x100 + 32 * i + off) n
    let k := at' 24 1
    if k.testBit 2 then some ⟨i, at' 0 8, at' 8 8, at' 16 8, k % 4⟩ else none)

/-- The bindings that a context's partition holds. -/
def State.bindingsOf (s : State) (peer : Nat) : List Binding := ((s.part? peer).map (·.bindings)).getD []

/-- The 64-bit address of a span's first byte, as a program names it. -/
def Span.raw (sp : Span) : Nat :=
  match sp.peer with
  | some q => 4 * 2 ^ 60 + q * 2 ^ 48 + sp.va
  | none => sp.va

/-- The address by which a partition's bindings know a span's first byte (R100): the partition's own peer ID names its own memory, and
the multicast window writes the loom scratchpads. -/
def Span.rawFor (sp : Span) (self : Nat) : Nat :=
  match sp.peer with
  | some q => if q = self then sp.va else 4 * 2 ^ 60 + q * 2 ^ 48 + sp.va
  | none => if sp.va / 2 ^ 60 = 3 then 2 ^ 60 + sp.va % 2 ^ 60 else sp.va

/-- The objects that the regions bind whose bytes a run meets (R100). -/
def State.objectsAt (s : State) (peer : Nat) (sps : List Span) : List Nat :=
  ((s.bindingsOf peer).filter (fun b => sps.any (fun sp => overlapLen (sp.rawFor peer) sp.len b.base b.len != 0))).map (·.obj)

/-- Drops from a loom's L1 the lines of every region bound to an object that satisfies a test (R58, R104). -/
def State.l1DropIf (s : State) (loom peer : Nat) (obj : Nat → Bool) : State :=
  let regions := (s.bindingsOf peer).filter (fun b => obj b.obj && Nat.blt b.base (2 ^ 48))
  let held (line : Nat) : Bool := regions.any (fun b =>
    (List.range (b.len / 65536 + 2)).any (fun i =>
      let page := (b.base / 65536 + i) * 65536
      ((s.part? peer).bind (fun p => s.translateNow p page)).any (fun x =>
        x.1 / 65536 == line * 128 / 65536 &&
        overlapLen (page + line * 128 % 65536) 128 b.base b.len != 0)))
  let l := s.loom loom
  s.setLoom loom { l with l1 := l.l1.filter (fun x => !held x.1) }

/-- Drops from a loom's L1 the lines of every region bound to an object. -/
def State.l1Drop (s : State) (loom peer obj : Nat) : State := s.l1DropIf loom peer (· == obj)

/-! ## Barriers (R179, R180) -/

/-- The fields of a barrier (R179). -/
structure Barrier where
  phase : Nat
  narrive : Nat
  arrived : Nat
  nbase : Nat
  nbytes : Nat
  bytes : Nat
  cflags : Nat
  lflags : Nat
  overcount : Bool
  timedout : Bool
  state : Nat
  deriving DecidableEq, Repr

/-- A barrier from its 32 bytes. -/
def Barrier.ofNat (x : Nat) : Barrier :=
  let f (lo n : Nat) := (x / 2 ^ lo) % 2 ^ n
  { phase := f 224 32, narrive := f 192 32, arrived := f 160 32, nbase := f 112 48, nbytes := f 64 48, bytes := f 16 48,
    cflags := f 10 6, lflags := f 4 6, overcount := x.testBit 3, timedout := x.testBit 2, state := f 0 2 }

/-- The 32 bytes of a barrier, as a number. -/
def Barrier.toNat (b : Barrier) : Nat :=
  (b.phase % 2 ^ 32) * 2 ^ 224 + (b.narrive % 2 ^ 32) * 2 ^ 192 + (b.arrived % 2 ^ 32) * 2 ^ 160
    + (b.nbase % 2 ^ 48) * 2 ^ 112 + (b.nbytes % 2 ^ 48) * 2 ^ 64 + (b.bytes % 2 ^ 48) * 2 ^ 16
    + (b.cflags % 64) * 2 ^ 10 + (b.lflags % 64) * 16 + (if b.overcount then 8 else 0) + (if b.timedout then 4 else 0)
    + b.state % 4

/-- One turn of the procedure of R180. -/
def Barrier.flip (b : Barrier) : Barrier :=
  let sa := b.arrived - b.narrive
  let sb := b.bytes - b.nbytes
  { b with overcount := b.overcount || decide (sa > 0) || decide (sb > 0), lflags := b.cflags, cflags := 0,
           arrived := sa, bytes := sb, nbytes := b.nbase, phase := (b.phase + 1) % 2 ^ 32 }

/-- Whether the current phase is complete. -/
def Barrier.full (b : Barrier) : Bool :=
  Nat.ble b.narrive b.arrived && Nat.ble b.nbytes b.bytes && Nat.blt 0 (b.narrive + b.nbytes)

/-- The procedure of R180. With NARRIVE and NBASE zero it stops after one flip, since NARRIVE + NBYTES is zero from then
on; otherwise each turn takes NARRIVE arrivals or NBASE bytes away, so the surplus bounds the turns. -/
def Barrier.settle (b : Barrier) : (fuel : Nat) → Barrier
  | 0 => b
  | fuel + 1 => if b.full then b.flip.settle fuel else b

/-- Applies R180 after an update; a flip takes away at least one arrival or one byte except the first. -/
def Barrier.update (b : Barrier) : Barrier :=
  -- turns beyond the first keep their flags clear, so many of them may be taken at once
  b.settle (b.arrived + b.bytes + 2)

/-- Whether a phase has flipped (R181). -/
def Barrier.flipped (b : Barrier) (p : Nat) : Bool :=
  let d := (b.phase + 2 ^ 32 - p % 2 ^ 32) % 2 ^ 32
  Nat.ble 1 d && Nat.ble d (2 ^ 31)

/-- Reads a barrier. -/
def State.barrier (s : State) (pa : Nat) : Barrier := .ofNat (Memory.readLE s.mem pa 32)

/-- The piece that a barrier's 32 bytes are. -/
def Span.barrierPiece (sp : Span) : Piece := ⟨sp.pa, sp.va, 0, 32⟩

/-- What an update or a read of a barrier meets in its line (R70, R370 to R372, R379). -/
def State.meetBarrier (s : State) (sp : Span) : State × Option FaultInfo :=
  s.meetLine sp.pa sp.va sp.attrs false (s.readMask sp.attrs sp.barrierPiece)

/-- Writes a barrier; on a page with Z its line is compressed afresh (R69, R70). -/
def State.setBarrier (s : State) (sp : Span) (b : Barrier) : State := s.putPiece sp.attrs sp.barrierPiece (leBytes 32 b.toNat)

/-- Which of the phases that an update flips, or `k` for the one after them, a byte counted at a place of the current phase belongs to
(R107, R180): the current phase takes NBYTES, and each later one NBASE. -/
def Barrier.phaseAt (b : Barrier) (k pos : Nat) : Nat :=
  if pos < b.nbytes then 0 else if b.nbase = 0 then k else Nat.min k (1 + (pos - b.nbytes) / b.nbase)

/-- Counted bytes after an update that flips `k` phases: those of a phase that flips take its number, and the others their place in
the phase that is then current. -/
def Counted.flipped (b : Barrier) (k : Nat) : (fuel : Nat) → Counted → List Counted
  | 0, _ => []
  | fuel + 1, x =>
    let i := b.phaseAt k x.pos
    if k ≤ i then [{ x with pos := x.pos - (b.nbytes + (k - 1) * b.nbase) }]
    else
      let stop := b.nbytes + i * b.nbase
      let part : Counted := { x with phase := some ((b.phase + i) % 2 ^ 32), len := Nat.min x.len (stop - x.pos) }
      if x.pos + x.len ≤ stop then [part]
      else part :: Counted.flipped b k fuel { x with pos := stop, pa := x.pa + (stop - x.pos), len := x.len - (stop - x.pos) }

/-- The flags of entries, together. -/
def flagsOf (xs : List Counted) : Nat := xs.foldl (fun n x => n ||| x.flags) 0

/-- Applies R180 to a barrier and stores it. The flags of a write whose first byte was counted beyond the expected total wait for the
phase in which that byte is (R107, R180; DEDUCED, log 143). -/
def State.updateBarrier (s : State) (sp : Span) (b : Barrier) : State :=
  let mine (x : Counted) : Bool := x.bar == sp.pa && x.phase == none
  let early (x : Counted) : Bool := mine x && x.flags != 0 && Nat.blt x.pos b.nbytes
  let b := { b with cflags := b.cflags ||| flagsOf (s.tally.filter early) }
  let rest := s.tally.filter (fun x => !early x)
  let b' := b.update
  let k := (b'.phase + 2 ^ 32 - b.phase) % 2 ^ 32
  if k = 0 then { s with tally := rest }.setBarrier sp b'
  else
    let late := rest.filter (fun x => mine x && x.flags != 0)
    let now (x : Counted) : Bool := b.phaseAt k x.pos == k && (b.nbase == 0 || Nat.blt (x.pos - (b.nbytes + (k - 1) * b.nbase)) b.nbase)
    let b' := { b' with lflags := if k = 1 then b'.lflags else flagsOf (late.filter (fun x => b.phaseAt k x.pos == k - 1)),
                        cflags := flagsOf (late.filter now) }
    let gone (x : Counted) : Bool := mine x && x.flags != 0 && (now x || Nat.blt (b.phaseAt k x.pos) k)
    let kept := (rest.filter (fun x => !gone x)).flatMap (fun x => if mine x then x.flipped b k (k + 1) else [x])
    { s with tally := kept }.setBarrier sp b'

/-- The entries of runs of bytes that are counted from a place of the current phase on. -/
def countedRuns (bar : Nat) : (pos : Nat) → List (Nat × Nat) → List Counted
  | _, [] => []
  | pos, (pa, len) :: r => { bar := bar, phase := none, pos := pos, pa := pa, len := len } :: countedRuns bar (pos + len) r

/-- Counts bytes of one write, with its flags, into a barrier (R107, R180): the flags go to the phase in which the first
byte is counted. `runs` are the bytes, of which those that a loom may hold in its L1 are remembered. A barrier that is not ready
counts nothing. -/
def State.countBarrier (s : State) (sp : Span) (n : Nat) (fl : Flags) (runs : List (Nat × Nat) := []) : State × Option FaultInfo :=
  match s.meetBarrier sp with
  | (s, some f) => (s, some f)
  | (s, none) =>
    let b := s.barrier sp.pa
    if b.state ≠ 1 then (s, none)
    else
      let late := Nat.blt 0 b.nbytes && Nat.ble b.nbytes b.bytes && fl != 0
      let entries := (countedRuns sp.pa b.bytes runs).filter (fun x => offChip x.pa)
        ++ (if late then [{ bar := sp.pa, phase := none, pos := b.bytes, pa := 0, len := 0, flags := fl.toNat }] else [])
      ({ s with tally := s.tally ++ entries }.updateBarrier sp
        { b with bytes := b.bytes + n, cflags := if late then b.cflags else b.cflags ||| fl.toNat }, none)

/-- Whether a phase of a barrier is not later than another (R181). -/
def notLater (phase upTo : Nat) : Bool := Nat.blt ((upTo + 2 ^ 32 - phase) % 2 ^ 32) (2 ^ 31)

/-- Drops from a loom's L1 the lines that hold bytes of runs. -/
def State.l1DropRuns (s : State) (loom : Nat) (runs : List (Nat × Nat)) : State :=
  let l := s.loom loom
  s.setLoom loom { l with l1 := l.l1.filter (fun x => !runs.any (fun r => overlapLen (x.1 * 128) 128 r.1 r.2 != 0)) }

/-- Drops from a loom's L1 the lines of the bytes that a barrier has counted up to a phase (R58, R107). -/
def State.l1DropCounted (s : State) (loom bar phase : Nat) : State :=
  s.l1DropRuns loom ((s.tally.filter (fun x => x.bar == bar && x.phase.any (fun p => notLater p phase))).map (fun x => (x.pa, x.len)))

end Sys2Proof.Machine
end

