-- ==== Sys2Proof/Machine/Link.lean ====
section
/-!
DEFINITION. Sending on the optical ports: flits, their sequence numbers and the store for retry (R288 to R291, R295,
R396), and requests to peers.
-/

namespace Sys2Proof.Machine

/-! ## Flit kinds (R291) -/

/-- IDLE. -/
def kIdle : Nat := 0x00
/-- READ. -/
def kRead : Nat := 0x01
/-- WRITE. -/
def kWrite : Nat := 0x02
/-- ATOMIC. -/
def kAtomic : Nat := 0x03
/-- CASNEW. -/
def kCasNew : Nat := 0x04
/-- REDUCE. -/
def kReduce : Nat := 0x05
/-- RELST. -/
def kRelSt : Nat := 0x06
/-- CHWRITE. -/
def kChWrite : Nat := 0x07
/-- READ REPLY. -/
def kReadReply : Nat := 0x08
/-- ACK. -/
def kAck : Nat := 0x09
/-- ATOMIC REPLY. -/
def kAtomicReply : Nat := 0x0A
/-- WINDOW. -/
def kWindow : Nat := 0x10
/-- CONGESTION. -/
def kCongestion : Nat := 0x11
/-- DRAIN. -/
def kDrain : Nat := 0x12
/-- RELOCK. -/
def kRelock : Nat := 0x13
/-- PARK. -/
def kPark : Nat := 0x14
/-- WAKE. -/
def kWake : Nat := 0x15
/-- LACK. -/
def kLack : Nat := 0x16
/-- LRETRY. -/
def kLRetry : Nat := 0x17

/-- A flit with every field zero. -/
def noFlit : Flit :=
  { speer := 0, dpeer := 0, lseq := 0, rtag := 0, addr := 0, stream := 0, lenM1 := 0, opa := 0, sseq := 0, status := 0,
    aop := 0, data := [] }

/-! ## The layout of flits (R290, R291) -/

/-- The bits [255:32] of a control flit. -/
def flitBits (kind : Nat) (f : Flit) : Nat :=
  kind % 256 * 2 ^ 216 + f.speer.toNat * 2 ^ 204 + f.dpeer.toNat * 2 ^ 192 + f.lseq.toNat * 2 ^ 176 + f.rtag.toNat * 2 ^ 160
    + f.addr.toNat * 2 ^ 112 + f.stream.toNat * 2 ^ 108 + f.lenM1.toNat * 2 ^ 97 + f.reserved.toNat * 2 ^ 96 + f.opa.toNat * 2 ^ 32
    + f.sseq.toNat * 2 ^ 16 + f.status.toNat * 2 ^ 8 + f.aop.toNat

/-- The CRC that a control flit must carry. -/
def flitCrc (kind : Nat) (f : Flit) : W32 := BitVec.ofNat 32 (crc32c (leBytes 28 (flitBits kind f)))

/-- The 256 bits of a control flit. -/
def flitWord (kind : Nat) (f : Flit) : BitVec 256 := BitVec.ofNat 256 (flitBits kind f * 2 ^ 32 + f.crc.toNat)

/-- Whether a control flit carries its CRC. -/
def flitOk (kind : Nat) (f : Flit) : Bool := f.crc == flitCrc kind f

/-- A control flit with its CRC. -/
def sealFlit (kind : Nat) (f : Flit) : Flit := { f with crc := flitCrc kind f }

/-- The kind and the fields of 256 bits. -/
def flitOf (w : BitVec 256) : Nat × Flit :=
  ((w.extractLsb' 248 8).toNat,
    { speer := w.extractLsb' 236 12, dpeer := w.extractLsb' 224 12, lseq := w.extractLsb' 208 16, rtag := w.extractLsb' 192 16,
      addr := w.extractLsb' 144 48, stream := w.extractLsb' 140 4, lenM1 := w.extractLsb' 129 11, reserved := w.extractLsb' 128 1,
      opa := w.extractLsb' 64 64, sseq := w.extractLsb' 48 16, status := w.extractLsb' 40 8, aop := w.extractLsb' 32 8,
      crc := w.extractLsb' 0 32, data := [] })

/-- The bits [127:32] of a flit tag. -/
def tagBits (d : DataFlit) : Nat :=
  d.dseq.toNat * 2 ^ 80 + d.rtag.toNat * 2 ^ 64 + d.speer.toNat * 2 ^ 52 + d.index.toNat * 2 ^ 48 + (if d.last then 2 ^ 47 else 0)
    + d.reserved.toNat

/-- The CRC that the tag of a data flit must carry. -/
def dataCrc (d : DataFlit) : W32 :=
  BitVec.ofNat 32 (crc32c (d.data ++ List.replicate (512 - d.data.length) 0 ++ leBytes 12 (tagBits d)))

/-- Whether a data flit carries its CRC and the line code of all its beats held. -/
def dataOk (d : DataFlit) : Bool := d.crc == dataCrc d && d.badWave.isNone

/-- A data flit with its CRC. -/
def sealData (d : DataFlit) : DataFlit := { d with crc := dataCrc d }

/-- Whether a kind is a request to a peer. -/
def isRequest (kind : Nat) : Bool :=
  kind == kRead || kind == kWrite || kind == kAtomic || kind == kReduce || kind == kRelSt || kind == kChWrite
/-- Whether a kind is a reply. -/
def isReply (kind : Nat) : Bool := kind == kReadReply || kind == kAck || kind == kAtomicReply

/-- A port. -/
def State.port (s : State) (q : Nat) : Port := SMap.getD s.ports q {}
/-- Replaces a port. -/
def State.setPort (s : State) (q : Nat) (p : Port) : State := { s with ports := SMap.set s.ports q p }

/-! ## The data plane (R288, R289) -/

/-- Data wavelengths of a width code, as a PARK flit names the set (R302, R289). -/
def widthCount (code : BitVec 2) : Nat := match code.toNat with | 0 => 7 | 1 => 3 | _ => 1

/-- The awake wavelengths of a width code: the lowest that work (R289, R398). -/
def Port.awake (p : Port) (code : BitVec 2) : List Nat :=
  ((List.range 8).filter (fun w => w != 0 && !p.lost.contains w)).take (widthCount code)

/-- Whether a sequence number is another one or comes after it. -/
def notBefore (x from' : BitVec 16) : Bool := Nat.blt (x - from').toNat (2 ^ 15)

/-- The set that a data flit is striped over, and the changes that come later. -/
def stripeAt (dseq : BitVec 16) (code : BitVec 2) : List (BitVec 16 × BitVec 2) → BitVec 2 × List (BitVec 16 × BitVec 2)
  | [] => (code, [])
  | x :: r => if notBefore dseq x.1 then stripeAt dseq x.2 r else (code, x :: r)

/-- The wavelengths of the eight beats of a data flit, dealt in turn. -/
def dealt (ws : List Nat) (deal : Nat) : List Nat := (List.range 8).map (fun i => ws.getD ((deal + i) % ws.length) 0)

/-! ## Sending -/

/-- The data flits that carry bytes (R291). -/
def dataFlits (dseq : BitVec 16) (f : Flit) : (fuel idx : Nat) → List Byte → List DataFlit
  | 0, _, _ => []
  | fuel + 1, idx, bs =>
    if bs = [] then []
    else
      sealData { dseq := dseq + BitVec.ofNat 16 idx, rtag := f.rtag, speer := f.speer, index := BitVec.ofNat 4 idx,
                 last := decide (bs.length ≤ 512), data := bs.take 512 }
        :: dataFlits dseq f fuel (idx + 1) (bs.drop 512)

/-- Whether a port has room for a flit with its data flits: in its store for retry (R396) and in its outbound queue of 64 data flits
(R297). -/
def Port.room (p : Port) (f : Flit) : Bool :=
  Nat.blt p.held.length 1024
  && (f.data == [] || (Nat.ble (p.heldData.length + 4) 2048 && Nat.ble (p.queue.length + 4) 64))

/-- Sends one control flit, and keeps it until a LACK covers it (R396). -/
def State.emitControl (s : State) (q kind : Nat) (f : Flit) : State :=
  let p := s.port q
  let f := sealFlit kind { f with lseq := p.lseqTx }
  let s := s.setPort q { p with lseqTx := p.lseqTx + 1, held := p.held ++ [(kind, f)] }
  { s with out := s.out ++ [Output.flit q kind f] }

/-- A source's congestion level towards a member rises by 1, up to 7 (R297). -/
def Partition.raiseLevel (p : Partition) (m : Nat) : Partition :=
  { p with cong := SMap.set p.cong m (Nat.min 7 (SMap.getD p.cong m 0 + 1)) }

/-- A port whose outbound queue held 48 data flits or more tells the source of a request that added to it, at most once in 1,024 cycles;
its own partition learns it at once (R297; DEDUCED, log 111). -/
def State.noticeCongestion (s : State) (q kind : Nat) (f : Flit) : State :=
  let p := s.port q
  match (s.panel (q / 2)).owner with
  | none => s
  | some peer =>
    if f.data == [] || !isRequest kind || Nat.blt p.queue.length 48 then s
    else
      let noticed := if Config.newWindow s.freeIdx then [] else p.noticed
      let s := { s with freeIdx := s.freeIdx + 1 }
      let src := f.speer.toNat
      if noticed.contains src then s.setPort q { p with noticed := noticed }
      else
        let s := s.setPort q { p with noticed := src :: noticed }
        match s.memberOf peer f.dpeer.toNat with
        | none => s
        | some m =>
          if src = peer then s.modPart peer (fun p => p.raiseLevel m)
          else
            match (s.memberOf peer src).bind (s.route peer false) with
            | some out => s.emitControl out kCongestion
                { noFlit with speer := BitVec.ofNat 12 peer, dpeer := f.speer, opa := BitVec.ofNat 64 m }
            | none => s

/-- Sends one flit; its data flits join the outbound queue of the port, and all are kept until a LACK covers them (R396). -/
def State.emitFlit (s : State) (q kind : Nat) (f : Flit) : State :=
  let s := (s.noticeCongestion q kind f).emitControl q kind f
  let p := s.port q
  let ds := dataFlits p.dseqTx f 4 0 f.data
  s.setPort q { p with dseqTx := p.dseqTx + BitVec.ofNat 16 ds.length, heldData := p.heldData ++ ds, queue := p.queue ++ ds }

/-- Sends a flit, or queues it while the port has no room; a dark port carries nothing. -/
def State.sendFlit (s : State) (q kind : Nat) (f : Flit) : State :=
  let p := s.port q
  if !p.up then s
  else if p.room f && p.waiting.isEmpty then s.emitFlit q kind f
  else s.setPort q { p with waiting := p.waiting ++ [(kind, f)] }

/-- Sends what waited, as far as there is room. -/
def State.flushPort (s : State) (q : Nat) : (fuel : Nat) → State
  | 0 => s
  | fuel + 1 =>
    let p := s.port q
    match p.waiting with
    | [] => s
    | (k, f) :: r => if p.room f then ((s.setPort q { p with waiting := r }).emitFlit q k f).flushPort q fuel else s

/-- The oldest data flit of a port's outbound queue leaves: its beats are dealt over the awake wavelengths in turn, in ascending number
(R288, R289); when it does, the agenda says (log 1). -/
def State.dataOut (s : State) (q : Nat) : Option State :=
  let p := s.port q
  match p.queue with
  | [] => none
  | d :: r =>
    let (code, parks) := stripeAt d.dseq p.stripe p.txPark
    let ws := p.awake code
    let deal := if code = p.stripe then p.deal else 0
    let s := s.setPort q { p with queue := r, stripe := code, txPark := parks, deal := (deal + 8) % ws.length }
    some ({ s with out := s.out ++ [Output.data q d (dealt ws deal)] }.flushPort q p.waiting.length)

/-- A link control flit, which is not sequenced: it carries the LSEQ that it names (DEDUCED, log 102). -/
def State.linkFlit (s : State) (q kind : Nat) (f : Flit) : State := { s with out := s.out ++ [Output.flit q kind (sealFlit kind f)] }

/-! ## Requests (R295) -/

/-- The number of a context as a source of requests (R375). -/
def ctxSource (loom : Nat) (ev : Bool) : Nat := 4 * loom + (if ev then 1 else 0)
/-- The number of a loom's copy engine as a source (DEDUCED, log 65). -/
def copySource (loom : Nat) : Nat := 4 * loom + 2

/-- Bytes as a request or reply carries them: inline in OPA for 8 or fewer, else in data flits (R291). -/
def inline (bs : List Byte) : W64 := if bs.length ≤ 8 then BitVec.ofNat 64 (leNat bs) else 0
/-- The bytes of a flit with this many bytes. -/
def Flit.bytes (f : Flit) (n : Nat) : List Byte := if n ≤ 8 then leBytes n f.opa.toNat else f.data.take n

/-- Sends the flits of a request by the port that leads to its peer now; none when no port does (R294, R400) (DEDUCED, log 105). -/
def State.transmit (s : State) (r : Request) : Option (State × Nat) :=
  ((s.memberOf r.peer r.dpeer).bind (s.route r.peer (r.kind == kReduce))).map (fun q =>
    let s := s.sendFlit q r.kind r.flit
    match r.casNew with
    | some v => (s.sendFlit q kCasNew { noFlit with speer := r.flit.speer, dpeer := r.flit.dpeer, rtag := r.flit.rtag, opa := v }, q)
    | none => (s, q))

/-- Sends a request of a source to a peer and records it until its reply comes. While the partition drains it is held, and so is one
whose peer no port reaches any more, which the end of the step gives up (R298, R400); a reset refuses it (R317). -/
def State.request (s : State) (src peer dpeer loom : Nat) (ev : Bool) (owner : ReqFor) (kind : Nat) (f : Flit)
    (casNew : Option W64 := none) : State :=
  if (s.part? peer).any (·.resetting) then s else
  let sseq := SMap.getD s.sseqs src 0
  let f := { f with speer := BitVec.ofNat 12 peer, dpeer := BitVec.ofNat 12 dpeer, rtag := BitVec.ofNat 16 s.nextTag,
                    sseq := sseq }
  let r : Request := { rtag := s.nextTag, peer := peer, dpeer := dpeer, loom := loom, ev := ev, owner := owner, flit := f,
                       kind := kind, casNew := casNew }
  let s := { s with sseqs := SMap.set s.sseqs src (sseq + 1), nextTag := (s.nextTag + 1) % 65536 }
  let sent := if ((s.part? peer).bind (·.drain)).isSome then none else s.transmit r
  match sent with
  | some (s, q) => { s with requests := s.requests ++ [{ r with port := q }] }
  | none => { s with requests := s.requests ++ [{ r with unsent := true }] }

/-- The reply to a request (R291, R295); a refusal that is not to be retried carries AOP 1 (R401). -/
def replyTo (req : Flit) (kind status : Nat) (opa : W64) (bs : List Byte) : Flit :=
  { noFlit with speer := req.dpeer, dpeer := req.speer, rtag := req.rtag, opa := opa,
                status := BitVec.ofNat 8 (status % 256), aop := BitVec.ofNat 8 (status / 256), data := bs,
                lenM1 := if kind == kReadReply then req.lenM1 else 0 }

/-- The source and tag of a request as one number. -/
def reqKey (f : Flit) : Nat := f.speer.toNat * 65536 + f.rtag.toNat

/-- Whether it is a request of this source and tag that this device performs and has not answered. -/
def Incoming.mine (i : Incoming) (port key : Nat) : Bool :=
  i.port == port && reqKey i.flit == key && !i.done && !i.dup && i.kind != kReadReply

/-- Keeps the last 64 answers for each source at each channel or slice (R376). -/
def pruneFilter : List Incoming → List Incoming
  | [] => []
  | i :: r =>
    let later := (r.filter (fun x => x.done && x.flit.speer == i.flit.speer && x.chan == i.chan)).length
    if i.done ∧ 64 ≤ later then pruneFilter r else i :: pruneFilter r

/-- Sends a reply of a partition to a peer (R294): by the port that leads to the peer, or the one that the request came by. -/
def State.sendReply (s : State) (port kind : Nat) (f : Flit) : State :=
  let q := (s.memberOf f.speer.toNat f.dpeer.toNat).bind (s.route f.speer.toNat false)
  s.sendFlit (q.getD port) kind f

/-- Answers a request that a port received and keeps the answer for the sequence filter (R295, R376). A STATUS above 255 is a
final refusal. -/
def State.answer (s : State) (port : Nat) (req : Flit) (kind status : Nat) (opa : W64) (bs : List Byte) : State :=
  let f := replyTo req kind status opa bs
  let mark (i : Incoming) : Incoming :=
    if i.mine port (reqKey req) then { i with done := true, answer := some f } else i
  let done := s.incoming.map mark
  let turn := done.filter (fun i => !(i.done && i.answer == some f)) ++ done.filter (fun i => i.done && i.answer == some f)
  ({ s with incoming := pruneFilter turn }).sendReply port kind f

/-- The request of a source and tag that a port holds unanswered. -/
def State.incoming? (s : State) (port key : Nat) : Option Incoming := s.incoming.find? (fun i => i.mine port key)

/-- Changes a request that a port holds unanswered. -/
def State.modIncoming (s : State) (port key : Nat) (f : Incoming → Incoming) : State :=
  { s with incoming := s.incoming.map (fun i => if i.mine port key then f i else i) }

end Sys2Proof.Machine
end

