-- ==== Sys2Proof/Machine/Levels.lean ====
section
/-!
DEFINITION. Levels of work: completion counters, retirement and cancel (R20 to R24), and what a pick's retirement does to
its stage (R46, R272, R280).
-/

namespace Sys2Proof.Machine

/-! ## Completion counters (R22, R23) -/

/-- The fields of a completion counter (R22). -/
structure CompCounter where
  done : Nat
  expect : Nat
  parent : Nat
  level : Nat
  state : Nat
  faulted : Bool
  cancelled : Bool
  aflags : Flags
  deriving DecidableEq, Repr

/-- A counter from its 16 bytes. -/
def CompCounter.ofNat (x : Nat) : CompCounter :=
  let f (lo n : Nat) := (x / 2 ^ lo) % 2 ^ n
  { done := f 96 32, expect := f 64 32, parent := f 48 16, level := f 40 8, state := f 32 8, faulted := x.testBit 23,
    cancelled := x.testBit 22, aflags := BitVec.ofNat 6 (f 16 6) }

/-- The 16 bytes of a counter, as a number. -/
def CompCounter.toNat (c : CompCounter) : Nat :=
  (c.done % 2 ^ 32) * 2 ^ 96 + (c.expect % 2 ^ 32) * 2 ^ 64 + (c.parent % 2 ^ 16) * 2 ^ 48 + (c.level % 256) * 2 ^ 40
    + (c.state % 256) * 2 ^ 32 + (if c.faulted then 2 ^ 23 else 0) + (if c.cancelled then 2 ^ 22 else 0)
    + c.aflags.toNat * 2 ^ 16

/-- Where a counter lies. -/
def Partition.counterPa (p : Partition) (idx : Nat) : Nat := p.counterTable + 16 * idx

/-- The partition manager keeps the counters of a partition whose table lies in a panel that has left it (R316), under the peer ID of the
partition; none while the table is the partition's own. -/
def State.tableKeeper (s : State) (p : Partition) : Option Nat :=
  if p.panels.getLsbD (panelOfPa p.counterTable) then none
  else ((List.range 8).find? (fun n => p.panels.getLsbD n)).bind (fun n => (s.panel n).owner)

/-- Reads a counter. -/
def State.counter (s : State) (p : Partition) (idx : Nat) : CompCounter :=
  .ofNat (match s.tableKeeper p with
    | none => Memory.readLE s.mem (p.counterPa idx) 16
    | some peer => SMap.getD s.keptCounters (65536 * peer + idx) 0)
/-- Writes a counter. -/
def State.setCounter (s : State) (p : Partition) (idx : Nat) (c : CompCounter) : State :=
  match s.tableKeeper p with
  | none => { s with mem := Memory.writeLE s.mem (p.counterPa idx) 16 c.toNat }
  | some peer => { s with keptCounters := SMap.set s.keptCounters (65536 * peer + idx) c.toNat }

/-- Whether a counter has reached a final state. -/
def CompCounter.final (c : CompCounter) : Bool := c.state == 1 || c.state == 3 || c.state == 4

/-- The index that a new counter takes: the lowest that no counter uses, else the first whose counter is final and has no open child;
the spec names no choice (R21; DESIGN CHOICE, log 151). -/
def State.freeCounter (s : State) (p : Partition) : Option Nat :=
  let size := Nat.min (p.counterSize / 16) 65535
  ((List.range (p.counters.length + 1)).find? (fun i => Nat.blt i size && !p.counters.contains i)).or
    (p.counters.find? (fun i => (s.counter p i).final && !p.counters.any (fun j => (s.counter p j).parent == i && !(s.counter p j).final)))

/-- Creates a counter (R22). -/
def State.newCounter (s : State) (peer idx level expect parent : Nat) : State :=
  match s.part? peer with
  | none => s
  | some p =>
    let s := s.setCounter p idx { done := 0, expect := expect, parent := parent, level := level, state := 0, faulted := false,
                                  cancelled := false, aflags := 0 }
    s.setPart peer { p with counters := if p.counters.contains idx then p.counters else p.counters ++ [idx] }

/-! ## Stages at the retirement of a pick -/

/-- The key of a stage. -/
def stageKey (panel idx : Nat) : Nat := 5 * panel + idx
/-- A stage. -/
def State.stage (s : State) (panel idx : Nat) : Stage := SMap.getD s.stages (stageKey panel idx) {}
/-- Replaces a stage. -/
def State.setStage (s : State) (panel idx : Nat) (st : Stage) : State :=
  { s with stages := SMap.set s.stages (stageKey panel idx) st }

/-- Drops the pin of a tag (R272). -/
def Stage.unpin (st : Stage) (tag : W32) : Stage :=
  match st.pins.find? (·.1 == tag) with
  | none => st
  | some (_, slot) =>
    let drop (v : VersionSlot) : VersionSlot :=
      { v with pins := v.pins - 1, state := if v.state = 2 ∧ v.pins ≤ 1 then 0 else v.state }
    { st with pins := st.pins.filter (·.1 != tag), due := true,
              slots := Vector.ofFn (fun i => if i.val = slot then drop st.slots[i] else st.slots[i]) }

/-- A byte range of a stage's block in the plane of a number. -/
def Partition.stageWord (p : Partition) (planeNo panel idx off n : Nat) : Nat :=
  planeLE (p.planeBytes planeNo) (stageBlock panel idx + off) n

/-- What the retirement of a pick does: its gang is free, its pin is dropped as UNPINAT says (R272), its stage may decide
again (R266), and an evaluation that it carried and has not filled fails (R380). -/
def State.pickRetired (s : State) (peer : Nat) (k : Pick) (cancelled : Bool) : State :=
  let s := s.modPart peer (fun p => { p with picks := p.picks.filter (·.id != k.id) })
  let unpinAt : Nat := ((s.part? peer).map (fun p => p.stageWord k.plane k.panel k.stage 0x1D4 1)).getD 0
  let st := s.stage k.panel k.stage
  let st := if k.pass = 2 ∨ (k.pass = 1 ∧ unpinAt = 1) then st.unpin k.tag else st
  let s := s.setStage k.panel k.stage { st with due := true }
  { s with evals := s.evals.map (fun r => if some r.head = k.evalHead ∧ !r.filled ∧ r.failing = 0 then
      { r with failing := if cancelled then 1 else 2 } else r) }

/-! ## Retirement and cancel (R23, R24) -/

/-- A child of a counter retires; a counter whose DONE reaches EXPECT takes its final state and retires as a child of its
parent (R23); a child that retires after that changes DONE and the flags only. -/
def State.retireChild (s : State) (peer : Nat) : (fuel idx : Nat) → (faulted cancelled : Bool) → Flags → State
  | 0, _, _, _, _ => s
  | fuel + 1, idx, faulted, cancelled, fl =>
    match s.part? peer with
    | none => s
    | some p =>
      let c := s.counter p idx
      let c := { c with done := c.done + 1, faulted := c.faulted || faulted, cancelled := c.cancelled || cancelled,
                        aflags := c.aflags ||| fl }
      if c.done ≠ c.expect then s.setCounter p idx c
      else
        let c := { c with state := if c.faulted then 4 else if c.cancelled then 3 else 1 }
        let s := s.setCounter p idx c
        let s :=
          if c.level = 0 then
            match p.picks.find? (·.counter == idx) with
            | some k => s.pickRetired peer k c.cancelled
            | none => s
          else if c.level = 1 then s.modPart peer (fun p => { p with launches := p.launches.filter (·.counter != idx) })
          else s
        if c.parent = 0xFFFF then s else s.retireChild peer fuel c.parent c.faulted c.cancelled c.aflags

/-- Retires several children at once with CANCELLED (DEDUCED, log 80). -/
def State.retireCancelled (s : State) (peer idx : Nat) : (n : Nat) → State
  | 0 => s
  | n + 1 => (s.retireChild peer 6 idx false true 0).retireCancelled peer idx n

/-- A cancel reaches a loom: it takes effect at the k-th SAFEPT, the lowest count that neither engine has reached, and ends a
YIELD at once (R45, R307). A cancel that comes with a pre-emption pending wins (R313). -/
def Ctx.requestCancel (c : Ctx) : Ctx :=
  { c with cancelled := true,
           req := some (match c.req with
             | some r => { r with preempt := false }
             | none => { preempt := false, k := Nat.max c.ea.safepts c.ex.safepts + 1 }),
           yielding := c.yielding.map (fun _ => true) }

/-- A cancel reaches one loom of a started pick: it stops at its SAFEPT or PICK.END if it runs, or if a handler takes its fault, which
defers the request; it retires at once, with CANCELLED, if it is parked; any other retires with CANCELLED when it has executed what it
has queued (R24, R313). -/
def State.cancelLoom (s : State) (peer : Nat) (k : Pick) (loom : Nat) : State :=
  let c := s.ctxAt loom false
  if c.pick ≠ some k.id then s
  else if c.act = .running ∨ c.act = .stopped ∧ c.stop.any (·.handled) then s.setCtxAt loom false c.requestCancel
  else if c.act = .parked then
    let s := s.setCtxAt loom false { c with act := .idle, pick := none, req := none }
    let s := s.modPart peer (fun p => { p with picks := p.picks.map (fun x =>
      if x.id = k.id then { x with retired := x.retired ++ [loom] } else x) })
    s.retireChild peer 6 k.counter c.faulted true c.pickFlags
  else s.setCtxAt loom false { c with cancelled := true }

/-- Cancels one pick: loom by loom if it has started; one that has not started retires at once, with CANCELLED (R24)
(DEDUCED, log 11). -/
def State.cancelPick (s : State) (peer : Nat) (k : Pick) : State :=
  if k.started then k.looms.foldl (fun s l => s.cancelLoom peer k l) s
  else s.retireCancelled peer k.counter (k.looms.length - k.retired.length)

/-- Empties the queues, spill rings and pins of a stage whose last open launch is cancelled, lifts a fence and discards held
arrivals (R280, R403, R404). -/
def Stage.emptied (st : Stage) : Stage :=
  { st with queues := Vector.replicate 4 [], heldArr := Vector.replicate 4 [], fullNoted := Vector.replicate 4 false, pins := [],
            rings := st.rings.map (fun r => { r with head := 0, tail := 0, fenced := false }),
            slots := st.slots.map (fun v => { v with pins := 0, state := if v.state = 2 then 0 else v.state }) }

/-- Empties a stage; a bobbin's action whose arrival was held counts as posted (R403). -/
def State.emptyStage (s : State) (panel idx : Nat) : State :=
  let st := s.stage panel idx
  let s := s.setStage panel idx st.emptied
  (st.heldArr.toList.flatten).foldl (fun s h => match h.src with | .bobbin k => s.actionPosted k | _ => s) s

/-- Cancels a counter and, recursively, every open child (R24). Children that were never created count as cancelled at once,
so that DONE reaches EXPECT. -/
def State.cancelCounter (s : State) (peer : Nat) : (fuel idx : Nat) → State
  | 0, _ => s
  | fuel + 1, idx =>
    match s.part? peer with
    | none => s
    | some p =>
      let c := s.counter p idx
      if c.state ≠ 0 then s
      else
        let s := s.setCounter p idx { c with state := 2 }
        if c.level = 0 then
          match p.picks.find? (·.counter == idx) with
          | some k => s.cancelPick peer k
          | none => s
        else
          let kids := p.counters.filter (fun i => i != idx && (s.counter p i).parent == idx && !(s.counter p i).final)
          let s := kids.foldl (fun s i => s.cancelCounter peer fuel i) s
          let unborn := c.expect - c.done - kids.length
          let s := s.retireCancelled peer idx unborn
          if c.level = 1 then
            match p.launches.find? (·.counter == idx) with
            | some l =>
              let others := ((s.part? peer).map (fun p => p.launches.filter (fun m =>
                m.panel == l.panel && m.stage == l.stage && m.counter != idx && (s.counter p m.counter).state == 0))).getD []
              if others = [] then s.emptyStage l.panel l.stage else s
            | none => s
          else s

/-- Cancels every counter of the partition whose parent is none (a job). -/
def State.cancelJob (s : State) (peer : Nat) : State :=
  match s.part? peer with
  | none => s
  | some p =>
    (p.counters.filter (fun i => (s.counter p i).parent == 0xFFFF)).foldl (fun s i => s.cancelCounter peer 6 i) s

/-- The job counter of a partition, if it has one. -/
def State.jobCounter (s : State) (p : Partition) : Option Nat :=
  p.counters.find? (fun i => (s.counter p i).parent == 0xFFFF && !(s.counter p i).final)

end Sys2Proof.Machine
end

