-- ==== Sys2Proof/Machine/Faults.lean ====
section
/-!
DEFINITION. Fault records and their ring (R335 to R340), messages to the host (R299, R300), and raising a fault for a
context: what stops, what is recorded and what is cancelled, in that order (R333, R343 to R345, R356, R357, R415).
-/

namespace Sys2Proof.Machine

/-! ## Messages to the host (R299) -/

/-- An endpoint's record; module-level messages use the key 2^20. -/
def endpointKey (peer endpoint : Nat) : Nat := 256 * peer + endpoint
/-- An endpoint. -/
def State.endpoint (s : State) (k : Nat) : Endpoint := SMap.getD s.endpoints k {}

/-- A whole Fleolapin message: its 16-byte header and payload (R299). -/
def framed (cls endpoint : Nat) (seq : W32) (payload : List Byte) : List Byte :=
  let head := [1, BitVec.ofNat 8 cls] ++ leBytes 2 endpoint ++ leBytes 4 seq.toNat ++ leBytes 4 payload.length
  head ++ leBytes 4 (crc32c (head ++ [0, 0, 0, 0] ++ payload)) ++ payload

/-- Sends a message on an endpoint; it is kept until it is acknowledged. -/
def State.sendMessage (s : State) (peer endpoint cls : Nat) (payload : List Byte) : State :=
  let k := endpointKey peer endpoint
  let e := s.endpoint k
  let bs := framed cls endpoint e.txSeq payload
  let e' := { e with txSeq := e.txSeq + 1, unacked := e.unacked ++ [(e.txSeq.toNat, cls, bs)] }
  { s with endpoints := SMap.set s.endpoints k e', out := s.out ++ [Output.message peer cls endpoint bs] }

/-! ## The fault record (R335 to R340) -/

/-- What a record holds besides the fault: the unit as UKIND ++ UNUM, the tag, the context, the level and the counter
cancelled, and whether a handler takes it. -/
structure RecordInfo where
  unit : Nat
  tag : Nat := 0
  ev : Bool := false
  level : Nat := 7
  cindex : Nat := 0xFFFF
  handled : Bool := false
  deriving DecidableEq, Repr

/-- The 64 bytes of a record (R335). -/
def recordBytes (peer : Nat) (f : FaultInfo) (r : RecordInfo) (rseq time : Nat) : List Byte :=
  let w0 := (r.unit / 512 % 16) * 2 ^ 60 + (r.unit % 512) * 2 ^ 48 + (f.cls % 256) * 2 ^ 40 + (f.cause % 256) * 2 ^ 32
    + (r.cindex % 65536) * 65536 + rseq % 65536
  let w1 := (r.level % 8) * 2 ^ 61 + (if r.handled then 2 ^ 60 else 0) + (if r.ev then 2 ^ 59 else 0)
    + (if f.remote then 2 ^ 58 else 0) + (if f.remote then f.status % 256 else 0) * 2 ^ 48 + (peer % 4096) * 2 ^ 36
    + r.tag % 2 ^ 32
  leBytes 8 w0 ++ leBytes 8 w1 ++ leBytes 8 time ++ leBytes 8 f.addr ++ leBytes 8 f.d0 ++ leBytes 8 f.d1
    ++ leBytes 8 f.d2 ++ leBytes 8 f.d3

/-- The lowest panel of a partition. -/
def Partition.lowPanel (p : Partition) : Nat := ((List.range 8).find? (fun i => p.panels.getLsbD i)).getD 0

/-- The base of the fault ring (R338) (DEDUCED, log 123). -/
def Partition.ring (p : Partition) : Nat := (p.ctxPool.getD p.lowPanel (0, 0)).1 + 20 * 2 ^ 20

/-- Writes bytes at a virtual address by walks at once, page by page; a page that does not translate is not written. -/
def State.writeVaPages (s : State) (p : Partition) : (fuel va : Nat) → List Byte → State
  | 0, _, _ => s
  | fuel + 1, va, bs =>
    if bs.isEmpty then s
    else
      let n := Nat.min bs.length (65536 - va % 65536)
      let s := match s.translateNow p va with
        | some x => (s.writeSpan { pa := x.1, va := va, len := n, off := 0, attrs := x.2 } (bs.take n)).1
        | none => s
      s.writeVaPages p fuel (va + n) (bs.drop n)

/-- Writes bytes at a virtual address. -/
def State.writeVa (s : State) (p : Partition) (va : Nat) (bs : List Byte) : State :=
  s.writeVaPages p (bs.length / 65536 + 2) va bs

/-- Where a record lies in the ring (R338). -/
def Partition.ringSlot (p : Partition) (n : Nat) : Nat := p.ring + 64 + 64 * (n % 16384)

/-- Whether a further record may be sent on an endpoint: fewer than 256 of its records are unacknowledged (R340). -/
def State.recordRoom (s : State) (k : Nat) : Bool := Nat.blt ((s.endpoint k).unacked.filter (fun m => m.2.1 == 5)).length 256

/-- Sends a record to the host unless 256 records are unacknowledged, which DROPPED counts (R338, R340). -/
def State.deliverRecord (s : State) (peer : Nat) (p : Partition) (bs : List Byte) : State :=
  if s.recordRoom (endpointKey peer 0) then
    (s.sendMessage peer 0 5 bs).modPart peer (fun p => { p with rseq := p.rseq + 1 })
  else
    (s.writeVa p (p.ring + 8) (leBytes 8 (p.dropped + 1))).modPart peer (fun p =>
      { p with rseq := p.rseq + 1, dropped := p.dropped + 1 })

/-- The record writer: gives the record its RSEQ, places it in the ring, then updates HEAD, and delivers it (R338 to
R340). It answers the RSEQ. -/
def State.writeRecord (s : State) (peer : Nat) (f : FaultInfo) (r : RecordInfo) : State × BitVec 16 :=
  match s.part? peer with
  | none => (s, 0)
  | some p =>
    let bs := recordBytes peer f r p.rseq.toNat (Config.time s.freeIdx).toNat
    let s := s.writeVa p (p.ringSlot p.records) bs
    let s := s.writeVa p p.ring (leBytes 8 (p.records + 1))
    let s := { s with freeIdx := s.freeIdx + 1 }.modPart peer (fun p => { p with records := p.records + 1 })
    (s.deliverRecord peer p bs, p.rseq)

/-- A unit record: no requester, tag 0, level 7 (R367) (DEDUCED, log 78). -/
def State.unitRecord (s : State) (peer unit : Nat) (f : FaultInfo) : State := (s.writeRecord peer f { unit := unit }).1

/-- A module-level record, which goes on Agate's endpoint and to no ring (R335, R340), unless 256 of its records are unacknowledged. -/
def State.moduleRecord (s : State) (unit : Nat) (f : FaultInfo) : State :=
  let bs := recordBytes 0xFFF f { unit := unit } 0 (Config.time s.freeIdx).toNat
  let t := { s with freeIdx := s.freeIdx + 1 }
  if s.recordRoom (endpointKey 0xFFF 0) then t.sendMessage 0xFFF 0 5 bs else t

/-- A unit record that cancels the job of a partition (LEVEL 4). -/
def State.jobRecord (s : State) (peer unit : Nat) (f : FaultInfo) : State :=
  match s.part? peer with
  | none => s
  | some p =>
    match s.jobCounter p with
    | some i =>
      if (s.counter p i).state = 0 then
        ((s.writeRecord peer f { unit := unit, level := 4, cindex := i }).1).cancelCounter peer 6 i
      else (s.writeRecord peer f { unit := unit }).1
    | none => (s.writeRecord peer f { unit := unit }).1

/-! ## Stopping a context -/

/-- Takes back the completion of the line that an engine stands at, so that a frame names it as the line to resume at. -/
def Ctx.uncomplete (c : Ctx) (e : Eng) (lane : Nat) : Ctx :=
  let g := c.eng e
  { c.setEng e { g with lines := g.lines - 1, lineCount := g.lineCount - 1, lane := lane, ended := false, heldRvz := false }
    with ahead := if (c.eng e.other).lines < g.lines then c.ahead.dropLast else some g.pc :: c.ahead }

/-- Where the engines of a stopping context resume: an A-engine that a rendezvous holds resumes at the end of its rendezvous
line (DEDUCED, log 15), and an engine that has executed PICK.END resumes at its lane (R231, R345). -/
def Ctx.settleStop (c : Ctx) : Ctx :=
  let c := if c.ea.heldRvz then c.uncomplete .A 8 else if c.ea.ended then c.uncomplete .A c.ea.lane else c
  if c.ex.ended then c.uncomplete .X c.ex.lane else c

/-- The key of an engine's waits for walks. -/
def ctxWho (loom : Nat) (ev : Bool) (e : Eng) : Who := Sel.who ⟨loom, ev, e⟩

/-- Takes back the walks that a context waits for, and those that failed for it. -/
def State.dropWalks (s : State) (loom : Nat) (ev : Bool) : State :=
  let mine (w : Who) : Bool := w == ctxWho loom ev .A || w == ctxWho loom ev .X
  let b := s.bolt (boltOf loom)
  let s := s.setBolt (boltOf loom) { b with badWalks := b.badWalks.filter (fun x => !mine x.who) }
  let pn := s.panel (panelOf loom)
  s.setPanel (panelOf loom) { pn with walks := pn.walks.map (fun k => { k with who := k.who.filter (fun w => !mine w) }),
                                      walkQ := (pn.walkQ.map (fun x => (x.1, x.2.filter (fun w => !mine w)))).filter (fun x => x.2 != []) }

/-- The unit that a context's fault names (R336): its loom, or its copy engine. -/
def FaultInfo.unitFor (f : FaultInfo) (loom : Nat) : Nat :=
  match f.unit with
  | some u => u
  | none => if f.src = 2 then 512 + loom else loom

/-- The launch whose pick a context runs, if it is still open. -/
def State.launchOf (s : State) (c : Ctx) : Option Nat :=
  match s.part? c.peer, c.pick with
  | some p, some k =>
    (p.picks.find? (·.id == k)).bind (fun k =>
      if (s.counter p k.launch).state = 0 then some k.launch else none)
  | _, _ => none

/-- An unhandled fault of a pick whose launch is being pre-empted: the command will report 5 (R313). -/
def State.notePreempt (s : State) (peer launch : Nat) : State :=
  s.modPart peer (fun p => { p with preempts := p.preempts.map (fun (x : Nat × HostReq × Bool) =>
    if x.1 = launch then (x.1, x.2.1, true) else x) })

/-- Gives up what a context asked of barriers at peers. -/
def State.dropPhases (s : State) (loom : Nat) (ev : Bool) : State :=
  { s with requests := s.requests.filter (fun r => !(r.loom == loom && r.ev == ev && (match r.owner with | .barrier _ => true | _ => false))) }

/-- Raises a fault for a context (R305, R333, R343, R357, R415): both sequencers stop, the record is written, and an unhandled
fault of a pick requests the cancel of its launch. A fault is handled when TVEC.VALID is 1 and TFRAME is 0. A further fault
of a stopped context writes a record of its own and takes the course of the first. -/
def State.raiseFor (s : State) (loom : Nat) (ev : Bool) (f : FaultInfo) : State :=
  let c := s.ctxAt loom ev
  let tag := c.picktag.toNat
  match c.stop with
  | some st =>
    let (s, _) := s.writeRecord c.peer { f with d2 := 2 }
      { unit := f.unitFor loom, tag := tag, ev := ev, handled := st.handled }
    s.setCtxAt loom ev { s.ctxAt loom ev with more := c.more ++ [f] }
  | none =>
    if c.act ≠ .running ∧ c.act ≠ .draining then
      -- the context has gone on to retire or is parked: the fault is its own record, and no sequencer is left to stop
      let (s, _) := s.writeRecord c.peer f { unit := f.unitFor loom, tag := tag, ev := ev }
      s.setCtxAt loom ev { s.ctxAt loom ev with faulted := true }
    else
      let handled := c.tvec.getLsbD 0 && c.tframe == 0 && !f.bare
      let f := if c.tframe ≠ 0 then { f with d2 := 1 } else f
      let launch := if handled || ev then none else s.launchOf c
      let (s, rseq) := s.writeRecord c.peer f
        { unit := f.unitFor loom, tag := tag, ev := ev, handled := handled, level := if launch.isSome then 1 else 7,
          cindex := launch.getD 0xFFFF }
      let c := (s.ctxAt loom ev).settleStop
      let s := s.setCtxAt loom ev { c with act := .stopped, stop := some ⟨f, handled, some rseq⟩, barWait := none, barSeen := none,
                                           operands := [], yielding := none }
      let s := (s.dropWalks loom ev).dropPhases loom ev
      match launch with
      | some i => (s.notePreempt c.peer i).cancelCounter c.peer 6 i
      | none => s

/-- An asynchronous fault of an operation of a context (DEDUCED, log 79). -/
def State.raiseAsync (s : State) (loom : Nat) (ev : Bool) (f : FaultInfo) : State :=
  s.raiseFor loom ev { f with precise := false }

/-- A precise fault of the engine that moves: where it stands, its lane and word, and the address that R341 gives. TRAP lets
both engines go on at the line after its own (R305). -/
def State.raisePrecise (s : State) (e : Sel) (lane : Nat) (word : W32) (stream : Nat) (f : FaultInfo) : State :=
  let c := s.ctxAt e.loom e.ev
  let line := (c.eng e.eng).pc.toNat
  let engBit := match e.eng with | .A => 0 | .X => 8
  let f := { f with src := (match e.eng with | .A => 0 | .X => 1), line := line, lane := lane, stream := stream,
                    addr := if f.cls = 2 ∨ f.cls = 3 ∨ f.cls = 4 ∨ (16 ≤ f.cls ∧ f.addr ≠ 0) then f.addr else line,
                    d0 := if f.cls = 3 ∨ 16 ≤ f.cls then f.d0 else lane + engBit + word.toNat * 2 ^ 32 }
  let s := s.raiseFor e.loom e.ev f
  if f.cls ≠ 8 then s
  else
    let c := s.ctxAt e.loom e.ev
    let next (g : Engine) : Engine :=
      { g with pc := BitVec.ofNat 64 (line + 32), lane := 1, inLine := false, target := none, skip := none, heldRvz := false,
               lines := 0 }
    s.setCtxAt e.loom e.ev { c with ea := next c.ea, ex := next c.ex, ahead := [], rvz := [] }

/-- A fault of the sequencers: no instruction, PRECISE clear and FLINE zero (R346). -/
def State.raiseSequencer (s : State) (loom : Nat) (ev : Bool) (f : FaultInfo) : State :=
  s.raiseFor loom ev { f with precise := false, src := 5, line := 0, lane := 0 }

end Sys2Proof.Machine
end

