-- ==== Sys2Proof/Machine/Integer.lean ====
section
/-!
DEFINITION. The A-engine's integer instructions: the ALU group, the immediate forms, constants, bitfields, selection and
address steps (R142 to R150).
-/

namespace Sys2Proof.Machine

/-- An instruction of two a-registers that writes a third (R143). -/
def State.alu (s : State) (t : Tok) (rd rs1 rs2 : BitVec 6) (lat : Nat) (f : W64 → W64 → W64) :
    Host.Outcome State Fault Refusal :=
  s.local .A t (fun c => do
    let x ← c.rdA rs1
    let y ← c.rdA rs2
    c.emit .A (.a rd) (f x y).toNat lat t)

/-- An instruction of one a-register that writes another (R143, R144). -/
def State.alu1 (s : State) (t : Tok) (rd rs1 : BitVec 6) (f : W64 → W64) : Host.Outcome State Fault Refusal :=
  s.local .A t (fun c => do
    let x ← c.rdA rs1
    c.emit .A (.a rd) (f x).toNat 1 t)

/-- 1 or 0. -/
def bit (p : Bool) : W64 := if p then 1 else 0

/-- Bits [127:64] of a signed product. -/
def mulHigh (x y : W64) : W64 := BitVec.ofInt 64 ((x.toInt * y.toInt) / 2 ^ 64)
/-- Bits [127:64] of an unsigned product. -/
def mulHighU (x y : W64) : W64 := BitVec.ofNat 64 ((x.toNat * y.toNat) / 2 ^ 64)
/-- The number of one bits among the n low bits. -/
def onesBelow (x : W64) : (n : Nat) → Nat
  | 0 => 0
  | n + 1 => (if x.getLsbD n then 1 else 0) + onesBelow x n
/-- The number of zero bits from bit n - 1 downwards. -/
def zerosDown (x : W64) : (n : Nat) → Nat
  | 0 => 0
  | n + 1 => if x.getLsbD n then 0 else 1 + zerosDown x n
/-- The number of zero bits from bit 64 - n upwards. -/
def zerosUp (x : W64) : (n : Nat) → Nat
  | 0 => 0
  | n + 1 => if x.getLsbD (63 - n) then 0 else 1 + zerosUp x n

/-- ADD (R143). -/
def execAdd (t : Tok) (rd rs1 rs2 : BitVec 6) (s : State) := s.alu t rd rs1 rs2 1 (· + ·)
/-- SUB (R143). -/
def execSub (t : Tok) (rd rs1 rs2 : BitVec 6) (s : State) := s.alu t rd rs1 rs2 1 (· - ·)
/-- AND (R143). -/
def execAnd (t : Tok) (rd rs1 rs2 : BitVec 6) (s : State) := s.alu t rd rs1 rs2 1 (· &&& ·)
/-- OR (R143). -/
def execOr (t : Tok) (rd rs1 rs2 : BitVec 6) (s : State) := s.alu t rd rs1 rs2 1 (· ||| ·)
/-- XOR (R143). -/
def execXor (t : Tok) (rd rs1 rs2 : BitVec 6) (s : State) := s.alu t rd rs1 rs2 1 (· ^^^ ·)
/-- ANDN (R143). -/
def execAndn (t : Tok) (rd rs1 rs2 : BitVec 6) (s : State) := s.alu t rd rs1 rs2 1 (fun x y => x &&& ~~~y)
/-- SHL (R143). -/
def execShl (t : Tok) (rd rs1 rs2 : BitVec 6) (s : State) := s.alu t rd rs1 rs2 1 (fun x y => x <<< (y.toNat % 64))
/-- SHR (R143). -/
def execShr (t : Tok) (rd rs1 rs2 : BitVec 6) (s : State) := s.alu t rd rs1 rs2 1 (fun x y => x >>> (y.toNat % 64))
/-- SAR (R143). -/
def execSar (t : Tok) (rd rs1 rs2 : BitVec 6) (s : State) :=
  s.alu t rd rs1 rs2 1 (fun x y => x.sshiftRight (y.toNat % 64))
/-- MUL (R143), of latency 3 (R142). -/
def execMul (t : Tok) (rd rs1 rs2 : BitVec 6) (s : State) := s.alu t rd rs1 rs2 3 (· * ·)
/-- MULH (R143). -/
def execMulh (t : Tok) (rd rs1 rs2 : BitVec 6) (s : State) := s.alu t rd rs1 rs2 3 mulHigh
/-- MULHU (R143). -/
def execMulhu (t : Tok) (rd rs1 rs2 : BitVec 6) (s : State) := s.alu t rd rs1 rs2 3 mulHighU
/-- MIN (R143). -/
def execMin (t : Tok) (rd rs1 rs2 : BitVec 6) (s : State) :=
  s.alu t rd rs1 rs2 1 (fun x y => if x.slt y then x else y)
/-- MAX (R143). -/
def execMax (t : Tok) (rd rs1 rs2 : BitVec 6) (s : State) :=
  s.alu t rd rs1 rs2 1 (fun x y => if x.slt y then y else x)
/-- MINU (R143). -/
def execMinu (t : Tok) (rd rs1 rs2 : BitVec 6) (s : State) :=
  s.alu t rd rs1 rs2 1 (fun x y => if x.ult y then x else y)
/-- MAXU (R143). -/
def execMaxu (t : Tok) (rd rs1 rs2 : BitVec 6) (s : State) :=
  s.alu t rd rs1 rs2 1 (fun x y => if x.ult y then y else x)
/-- SLT (R143). -/
def execSlt (t : Tok) (rd rs1 rs2 : BitVec 6) (s : State) := s.alu t rd rs1 rs2 1 (fun x y => bit (x.slt y))
/-- SLTU (R143). -/
def execSltu (t : Tok) (rd rs1 rs2 : BitVec 6) (s : State) := s.alu t rd rs1 rs2 1 (fun x y => bit (x.ult y))
/-- SEQ (R143). -/
def execSeq (t : Tok) (rd rs1 rs2 : BitVec 6) (s : State) := s.alu t rd rs1 rs2 1 (fun x y => bit (x == y))
/-- SNE (R143). -/
def execSne (t : Tok) (rd rs1 rs2 : BitVec 6) (s : State) := s.alu t rd rs1 rs2 1 (fun x y => bit (x != y))
/-- CLZ (R143). -/
def execClz (t : Tok) (rd rs1 : BitVec 6) (s : State) := s.alu1 t rd rs1 (fun x => BitVec.ofNat 64 (zerosDown x 64))
/-- CTZ (R143). -/
def execCtz (t : Tok) (rd rs1 : BitVec 6) (s : State) := s.alu1 t rd rs1 (fun x => BitVec.ofNat 64 (zerosUp x 64))
/-- POPC (R143). -/
def execPopc (t : Tok) (rd rs1 : BitVec 6) (s : State) := s.alu1 t rd rs1 (fun x => BitVec.ofNat 64 (onesBelow x 64))

/-- A 12-bit immediate at the width of use (R119, R144). -/
def sext12 (imm : BitVec 12) : W64 := imm.signExtend 64

/-- ADDI (R144). -/
def execAddi (t : Tok) (rd rs1 : BitVec 6) (imm : BitVec 12) (s : State) := s.alu1 t rd rs1 (· + sext12 imm)
/-- ANDI (R144). -/
def execAndi (t : Tok) (rd rs1 : BitVec 6) (imm : BitVec 12) (s : State) := s.alu1 t rd rs1 (· &&& sext12 imm)
/-- ORI (R144). -/
def execOri (t : Tok) (rd rs1 : BitVec 6) (imm : BitVec 12) (s : State) := s.alu1 t rd rs1 (· ||| sext12 imm)
/-- XORI (R144). -/
def execXori (t : Tok) (rd rs1 : BitVec 6) (imm : BitVec 12) (s : State) := s.alu1 t rd rs1 (· ^^^ sext12 imm)
/-- SHLI (R144). -/
def execShli (t : Tok) (rd rs1 sh : BitVec 6) (s : State) := s.alu1 t rd rs1 (· <<< sh.toNat)
/-- SHRI (R144). -/
def execShri (t : Tok) (rd rs1 sh : BitVec 6) (s : State) := s.alu1 t rd rs1 (· >>> sh.toNat)
/-- SARI (R144). -/
def execSari (t : Tok) (rd rs1 sh : BitVec 6) (s : State) := s.alu1 t rd rs1 (·.sshiftRight sh.toNat)
/-- SLTI (R144). -/
def execSlti (t : Tok) (rd rs1 : BitVec 6) (imm : BitVec 12) (s : State) :=
  s.alu1 t rd rs1 (fun x => bit (x.slt (sext12 imm)))

/-- LUI (R145). -/
def execLui (t : Tok) (rd : BitVec 6) (imm : BitVec 18) (s : State) :=
  s.local .A t (fun c => c.emit .A (.a rd) (imm.signExtend 64 <<< 12).toNat 1 t)
/-- LIW (R146). -/
def execLiw (t : Tok) (rd : BitVec 6) (value : BitVec 64) (s : State) :=
  s.local .A t (fun c => c.emit .A (.a rd) value.toNat 1 t)

/-- The bits of a field of len bits from position p. -/
def fieldMask (p len : Nat) : W64 := BitVec.ofNat 64 ((2 ^ len - 1) * 2 ^ p)
/-- BFX (R147). -/
def execBfx (t : Tok) (rd rs1 pos len1 : BitVec 6) (s : State) :=
  s.alu1 t rd rs1 (fun x => (x >>> pos.toNat) &&& fieldMask 0 (len1.toNat + 1))
/-- BFI (R147); rd is also a source. -/
def execBfi (t : Tok) (rd rs1 pos len1 : BitVec 6) (s : State) :=
  s.alu t rd rs1 rd 1 (fun x d =>
    let m := fieldMask pos.toNat (len1.toNat + 1)
    (d &&& ~~~m) ||| ((x <<< pos.toNat) &&& m))

/-- SEL (R148): every source is read. -/
def execSel (t : Tok) (rd rs1 rs2 ac : BitVec 6) (s : State) :=
  s.local .A t (fun c => do
    let x ← c.rdA rs1
    let y ← c.rdA rs2
    let z ← c.rdA ac
    c.emit .A (.a rd) (if z ≠ 0 then x else y).toNat 1 t)

/-- An address moved within its 48-bit offset, its space and peer fields kept (R149). -/
def addOffset (x : W64) (d : Int) : W64 :=
  x.extractLsb' 48 16 ++ BitVec.ofInt 48 ((x.extractLsb' 0 48).toNat + d)

/-- AGEN (R149). -/
def execAgen (t : Tok) (rd rs1 rs2 k : BitVec 6) (s : State) :=
  s.alu t rd rs1 rs2 1 (fun x y => addOffset x (y.toNat * 2 ^ k.toNat))

/-- A loop counter of the A-engine by its number (R150). -/
def Ctx.aLC (c : Ctx) (i : Nat) : Nat := (c.ea.lc.toList.getD i 0).toNat

/-- ASTEP (R150). -/
def execAstep (t : Tok) (rd rs1 rs2 : BitVec 6) (i j : BitVec 2) (s : State) :=
  s.local .A t (fun c => do
    let x ← c.rdA rs1
    let y ← c.rdA rs2
    let col := (y.extractLsb' 0 32).toInt
    let row := (y.extractLsb' 32 32).toInt
    let off : Int := c.aLC i.toNat * col + (if j = 3 then 0 else c.aLC j.toNat * row)
    c.emit .A (.a rd) (addOffset x off).toNat 1 t)

end Sys2Proof.Machine
end

