-- ==== Sys2Proof/Machine/Numbers.lean ====
section
/-!
DEFINITION. Number formats and arithmetic (04_numbers.md): exact values, decoding, rounding and conversion, IEEE sums and
products, the special functions, and the E2M1 block encoding.
-/

namespace Sys2Proof.Machine

/-- An exact value: NaN, an infinity, or (-1)^neg × m × 2^e, where a zero keeps its sign. -/
inductive Num where
  | nan | inf (neg : Bool) | fin (neg : Bool) (m : Nat) (e : Int)
  deriving DecidableEq, Repr

/-- The element formats of R72. -/
inductive Fmt where
  | fp32 | bf16 | fp16 | e4m3 | e5m2 | e2m1 | int8 | uint8 | int16 | int32
  deriving DecidableEq, Repr

/-- The format of a code (R72). -/
def Fmt.ofCode : Nat → Option Fmt
  | 0 => some .fp32 | 1 => some .bf16 | 2 => some .fp16 | 3 => some .e4m3 | 4 => some .e5m2 | 5 => some .e2m1
  | 6 => some .int8 | 7 => some .uint8 | 8 => some .int16 | 9 => some .int32 | _ => none

/-- The bytes of an element (R72); an E2M1 element has half of one. -/
def Fmt.bytes : Fmt → Nat
  | .fp32 | .int32 => 4
  | .bf16 | .fp16 | .int16 => 2
  | _ => 1

/-- Whether a format is floating-point. -/
def Fmt.float : Fmt → Bool
  | .int8 | .uint8 | .int16 | .int32 => false
  | _ => true

/-- The range of an integer format (R80). -/
def Fmt.intRange : Fmt → Int × Int
  | .int8 => (-128, 127)
  | .uint8 => (0, 255)
  | .int16 => (-32768, 32767)
  | _ => (-2147483648, 2147483647)

/-- Exponent bits, mantissa bits and bias (R74). -/
def Fmt.params : Fmt → Nat × Nat × Nat
  | .fp32 => (8, 23, 127)
  | .bf16 => (8, 7, 127)
  | .fp16 => (5, 10, 15)
  | .e4m3 => (4, 3, 7)
  | .e5m2 => (5, 2, 15)
  | .e2m1 => (2, 1, 1)
  | _ => (0, 0, 0)

/-- The canonical NaN (R74). -/
def Fmt.nan : Fmt → Nat
  | .fp32 => 0x7FC00000 | .bf16 => 0x7FC0 | .fp16 => 0x7E00 | .e4m3 => 0x7F | .e5m2 => 0x7E | _ => 0

/-- The infinity's magnitude bits, for formats that have one (R74). -/
def Fmt.infBits : Fmt → Option Nat
  | .fp32 => some 0x7F800000 | .bf16 => some 0x7F80 | .fp16 => some 0x7C00 | .e5m2 => some 0x7C | _ => none

/-- The largest finite magnitude bits (R74). -/
def Fmt.maxBits : Fmt → Nat
  | .fp32 => 0x7F7FFFFF | .bf16 => 0x7F7F | .fp16 => 0x7BFF | .e4m3 => 0x7E | .e5m2 => 0x7B | _ => 0x7

/-- The sign bit's place. -/
def Fmt.signAt (f : Fmt) : Nat := f.params.1 + f.params.2.1

/-- The finite value of magnitude bits: normal and subnormal (R74). -/
def magValue (mb bias : Nat) (bits : Nat) : Nat × Int :=
  let E := bits / 2 ^ mb
  let M := bits % 2 ^ mb
  if E = 0 then (M, 1 - (bias : Int) - mb) else (2 ^ mb + M, (E : Int) - bias - mb)

/-- The exact value of an element (R74, R80). -/
def Fmt.decode (f : Fmt) (bits : Nat) : Num :=
  if f.float then
    let neg := bits / 2 ^ f.signAt % 2 == 1
    let mag := bits % 2 ^ f.signAt
    let fin := let v := magValue f.params.2.1 f.params.2.2 mag; Num.fin neg v.1 v.2
    match f with
    | .e2m1 => fin
    | .e4m3 => if mag = 0x7F then .nan else fin
    | _ => match f.infBits with
      | some i => if mag = i then .inf neg else if i < mag then .nan else fin
      | none => fin
  else
    let w := 8 * f.bytes
    let x := bits % 2 ^ w
    let v : Int := if f == .uint8 then x else if 2 ^ (w - 1) ≤ x then (x : Int) - 2 ^ w else x
    .fin (v < 0) v.natAbs 0

/-- The value of an E5M3 scale (R74, R79); none is NaN. -/
def e5m3 (b : Nat) : Option (Nat × Int) := if b % 256 = 255 then none else some (magValue 3 15 (b % 256))

/-- Rounding modes (R73); SR carries its random number. -/
inductive RMode where
  | rne | rtz | rdn | rup | sr (u : Nat) | rnei
  deriving DecidableEq, Repr

/-- The mode of a code; SR's random number is given. -/
def RMode.ofCode (c u : Nat) : Option RMode :=
  match c with
  | 0 => some .rne | 1 => some .rtz | 2 => some .rdn | 3 => some .rup | 4 => some (.sr u) | 5 => some .rnei | _ => none

/-- The flags of R92. -/
def fSAT : Flags := 0x20
/-- INX. -/
def fINX : Flags := 0x10
/-- UNF. -/
def fUNF : Flags := 0x08
/-- OVF. -/
def fOVF : Flags := 0x04
/-- DZ. -/
def fDZ : Flags := 0x02
/-- INV. -/
def fINV : Flags := 0x01

/-- Whether the magnitude goes up from n, with rem of 2^sh left over (R73, R84). -/
def roundsUp (mode : RMode) (neg : Bool) (n rem sh : Nat) : Bool :=
  match mode with
  | .rne | .rnei => decide (2 ^ sh < 2 * rem) || (decide (2 * rem = 2 ^ sh) && n % 2 == 1)
  | .rtz => false
  | .rdn => neg && rem != 0
  | .rup => !neg && rem != 0
  | .sr u => decide (u < rem * 65536 / 2 ^ sh)

/-- m × 2^e in units of 2^q under a mode: the units and whether they are exact. -/
def toUnits (mode : RMode) (neg : Bool) (m : Nat) (e q : Int) : Nat × Bool :=
  if q ≤ e then (m * 2 ^ (e - q).toNat, true)
  else
    let sh := (q - e).toNat
    let n := m / 2 ^ sh
    let rem := m % 2 ^ sh
    (if roundsUp mode neg n rem sh then n + 1 else n, rem == 0)

/-- a × 2^x < b × 2^y. -/
def dyLt (a : Nat) (x : Int) (b : Nat) (y : Int) : Bool :=
  if x ≤ y then decide (a < b * 2 ^ (y - x).toNat) else decide (a * 2 ^ (x - y).toNat < b)

/-- The magnitude bits of n × 2^q, where q is the spacing at that magnitude. -/
def packMag (mb bias : Nat) (n : Nat) (q : Int) : Nat :=
  if n < 2 ^ mb then n
  else if n = 2 ^ (mb + 1) then (q + 1 + mb + bias).toNat * 2 ^ mb
  else (q + mb + bias).toNat * 2 ^ mb + (n - 2 ^ mb)

/-- Rounding a finite non-zero magnitude to a floating format (R81): magnitude bits, whether it overflows, whether it is
exact, and whether v lies below the smallest normal. -/
def roundMag (f : Fmt) (mode : RMode) (neg : Bool) (m : Nat) (e : Int) : Nat × Bool × Bool × Bool :=
  let (_, mb, bias) := f.params
  let top : Int := (Nat.log2 m : Int) + e
  let emin : Int := 1 - bias
  let q := (if top < emin then emin else top) - mb
  let (n, exact) := toUnits mode neg m e q
  let mx := magValue mb bias f.maxBits
  (packMag mb bias n q, dyLt mx.1 mx.2 n q, exact, decide (top < emin))

/-- Puts a sign on magnitude bits. -/
def withSign (f : Fmt) (neg : Bool) (mag : Nat) : Nat := if neg then 2 ^ f.signAt + mag else mag

/-- A conversion to a floating format (R81). -/
def toFloat (f : Fmt) (mode : RMode) (v : Num) : Nat × Flags :=
  match v with
  | .nan => (f.nan, 0)
  | .inf neg => match f.infBits with
    | some i => (withSign f neg i, 0)
    | none => if mode == .rnei then (f.nan, fINV) else (withSign f neg f.maxBits, fSAT ||| fINX)
  | .fin neg 0 _ => (withSign f neg 0, 0)
  | .fin neg m e =>
    let (mag, big, exact, tiny) := roundMag f mode neg m e
    if big then
      if mode == .rnei then
        match f.infBits with
        | some i => (withSign f neg i, fOVF ||| fINX)
        | none => (f.nan, fOVF ||| fINX)
      else (withSign f neg f.maxBits, fSAT ||| fINX)
    else if exact then (withSign f neg mag, 0)
    else (withSign f neg mag, if tiny then fINX ||| fUNF else fINX)

/-- A conversion to an integer format of a range and a width (R81). -/
def toInt (lo hi : Int) (width : Nat) (mode : RMode) (v : Num) : Nat × Flags :=
  let enc (x : Int) : Nat := (x % 2 ^ width).toNat
  match v with
  | .nan => (0, fINV)
  | .inf neg => (enc (if neg then lo else hi), fINV)
  | .fin neg m e =>
    let (n, exact) := toUnits mode neg m e 0
    let r : Int := if neg then -(n : Int) else n
    if r < lo ∨ hi < r then
      if mode == .rnei then (0, fOVF ||| fINX) else (enc (if r < lo then lo else hi), fSAT ||| fINX)
    else (enc r, if exact then 0 else fINX)

/-- A conversion to any format but E2M1 (R81). -/
def Fmt.encode (f : Fmt) (mode : RMode) (v : Num) : Nat × Flags :=
  if f.float then toFloat f mode v else toInt f.intRange.1 f.intRange.2 (8 * f.bytes) mode v

/-! ## Exact sums and products -/

/-- The sum, with INV for infinities of both signs; a sum of zero is +0 but for two negative zeros (IEEE 754, RNE). -/
def Num.add (x y : Num) : Num × Flags :=
  match x, y with
  | .nan, _ | _, .nan => (.nan, 0)
  | .inf a, .inf b => if a = b then (.inf a, 0) else (.nan, fINV)
  | .inf a, _ => (.inf a, 0)
  | _, .inf b => (.inf b, 0)
  | .fin a m e, .fin b n f =>
    if m = 0 ∧ n = 0 then (.fin (a && b) 0 0, 0)
    else
      let q := if e < f then e else f
      let x : Int := m * 2 ^ (e - q).toNat
      let y : Int := n * 2 ^ (f - q).toNat
      let s := (if a then -x else x) + (if b then -y else y)
      (.fin (decide (s < 0)) s.natAbs q, 0)

/-- The product, with INV for zero times infinity. -/
def Num.mul (x y : Num) : Num × Flags :=
  match x, y with
  | .nan, _ | _, .nan => (.nan, 0)
  | .inf a, .inf b => (.inf (a != b), 0)
  | .inf a, .fin b n _ => if n = 0 then (.nan, fINV) else (.inf (a != b), 0)
  | .fin a m _, .inf b => if m = 0 then (.nan, fINV) else (.inf (a != b), 0)
  | .fin a m e, .fin b n f => (.fin (a != b) (m * n) (e + f), 0)

/-- The negated value; a NaN stays. -/
def Num.neg : Num → Num
  | .nan => .nan
  | .inf s => .inf !s
  | .fin s m e => .fin (!s) m e

/-- The magnitude; a NaN stays. -/
def Num.abs : Num → Num
  | .nan => .nan
  | .inf _ => .inf false
  | .fin _ m e => .fin false m e

/-- x < y for values that are not NaN; zeros are equal. -/
def Num.lt (x y : Num) : Bool :=
  match x, y with
  | .nan, _ | _, .nan => false
  | .inf a, .inf b => a && !b
  | .inf a, _ => a
  | _, .inf b => !b
  | .fin a m e, .fin b n f =>
    match a, b with
    | false, false => dyLt m e n f
    | true, true => dyLt n f m e
    | true, false => decide (m ≠ 0) || decide (n ≠ 0)
    | false, true => false

/-- x = y as values. -/
def Num.eq (x y : Num) : Bool :=
  match x, y with
  | .nan, _ | _, .nan => false
  | _, _ => !Num.lt x y && !Num.lt y x

/-- Whether the value is a NaN. -/
def Num.isNan : Num → Bool | .nan => true | _ => false
/-- The sign. -/
def Num.sign : Num → Bool | .nan => false | .inf s => s | .fin s _ _ => s

/-- x < y with -0 below +0 (R210, R216). -/
def Num.below (x y : Num) : Bool := Num.lt x y || (Num.eq x y && x.sign && !y.sign)

/-- The sum rounded to a format under IEEE 754 (R82). -/
def fAdd (f : Fmt) (x y : Num) : Nat × Flags :=
  let (s, i) := Num.add x y
  let (b, fl) := toFloat f .rnei s
  (b, i ||| fl)
/-- The product rounded (R82). -/
def fMul (f : Fmt) (x y : Num) : Nat × Flags :=
  let (s, i) := Num.mul x y
  let (b, fl) := toFloat f .rnei s
  (b, i ||| fl)
/-- The fused product and sum, rounded once (R211, R217). Zero times infinity raises INV even where the addend is a NaN, which R75 and
IEEE 754 leave open (DESIGN CHOICE, log 155). -/
def fFma (f : Fmt) (x y z : Num) : Nat × Flags :=
  let (p, i) := Num.mul x y
  let (s, j) := Num.add p z
  let (b, fl) := toFloat f .rnei s
  (b, i ||| j ||| fl)

/-- The lesser or greater value, with a NaN operand giving NaN; the bits of the chosen operand are its own (R210). -/
def fMinMax (f : Fmt) (max : Bool) (a b : Nat) : Nat :=
  let x := f.decode a
  let y := f.decode b
  if x.isNan || y.isNan then f.nan
  else if max then (if Num.below x y then b else a) else (if Num.below y x then b else a)

/-! ## The special functions (R91): the exact value is taken to far more bits than a rounding to FP32 can need (DEDUCED, log 23) -/

/-- The bits of the fixed-point numbers below. -/
def fxP : Nat := 512

/-- The sum of 1 / (k 2^k) for k = 1 to n, in units of 2^-P: log 2. -/
def ln2Sum : (n : Nat) → Nat
  | 0 => 0
  | n + 1 => 2 ^ fxP / ((n + 1) * 2 ^ (n + 1)) + ln2Sum n

/-- log 2 in units of 2^-P. -/
def fxLn2 : Nat := ln2Sum 520

/-- The exponential series from term k on. -/
def expSum (y : Nat) : (fuel k term : Nat) → Nat
  | 0, _, _ => 0
  | n + 1, k, t => t + expSum y n (k + 1) (t * y / 2 ^ fxP / k)

/-- 2^f for f in units of 2^-P below 1, in the same units. -/
def fxExp2 (f : Nat) : Nat := expSum (f * fxLn2 / 2 ^ fxP) 130 1 (2 ^ fxP)

/-- m × 2^e, for e above -P, as a whole part and a fraction in units of 2^-P. -/
def fxSplit (m : Nat) (e : Int) : Nat × Nat :=
  let x := m * 2 ^ (e + fxP).toNat
  (x / 2 ^ fxP, x % 2 ^ fxP)

/-- e^(m × 2^e) as a scale and a fixed-point number from 1 to 2: the scale is a power of two. -/
def fxExp (m : Nat) (e : Int) : Nat × Nat :=
  let x := m * 2 ^ (e + fxP).toNat
  let y := x * 2 ^ fxP / fxLn2
  (y / 2 ^ fxP, fxExp2 (y % 2 ^ fxP))

/-- The bits of a base-2 logarithm of y in units of 2^-P, 1 ≤ y < 2, by repeated squaring. -/
def fxLog2 : (n y acc : Nat) → Nat
  | 0, _, acc => acc
  | n + 1, y, acc =>
    let z := y * y / 2 ^ fxP
    if 2 * 2 ^ fxP ≤ z then fxLog2 n (z / 2) (2 * acc + 1) else fxLog2 n z (2 * acc)

/-- The integer square root by Newton's steps from above. -/
def isqrt (n : Nat) : Nat :=
  let rec go : (fuel x : Nat) → Nat
    | 0, x => x
    | k + 1, x => let y := (x + n / x) / 2; if y < x then go k y else x
  if n = 0 then 0 else go (2 * Nat.log2 n + 8) (2 ^ (Nat.log2 n / 2 + 1))

/-- A special function's exact value: m × 2^e with a last bit that stands for what lies below, so that it rounds as the
exact value does; a value with flags is final. -/
inductive Special where
  | exact (v : Num) (fl : Flags)
  | approx (neg : Bool) (m : Nat) (e : Int)
  deriving DecidableEq, Repr

/-- The functions of R226. -/
inductive SFun where
  | exp2 | log2 | rcp | rsq | tanh | sigm
  deriving DecidableEq, Repr

/-- VEXP2: beyond 2^9 in magnitude the result no longer changes. -/
def spExp2 (neg : Bool) (m : Nat) (e : Int) : Special :=
  if dyLt 512 0 m e then .approx false 1 (if neg then -600 else 600)
  else
    let (w, f) := fxSplit m e
    if f = 0 then .exact (.fin false 1 (if neg then -(w : Int) else w)) 0
    else
      let (k, fr) : Int × Nat := if neg then (-(w : Int) - 1, 2 ^ fxP - f) else (w, f)
      .approx false (2 * fxExp2 fr + 1) (k - fxP - 1)

/-- VLOG2 of a positive value. -/
def spLog2 (m : Nat) (e : Int) : Special :=
  let t := Nat.log2 m
  let E : Int := t + e
  let g := m * 2 ^ (fxP - t)
  if g = 2 ^ fxP then .exact (.fin (decide (E < 0)) E.natAbs 0) 0
  else
    let N : Int := E * 2 ^ 140 + fxLog2 140 g 0
    if 0 ≤ N then .approx false (2 * N.natAbs + 1) (-141) else .approx true (2 * N.natAbs - 1) (-141)

/-- VRCP of a non-zero value. -/
def spRcp (neg : Bool) (m : Nat) (e : Int) : Special :=
  let q := 2 ^ 200 / m
  if q * m = 2 ^ 200 then .exact (.fin neg q (-200 - e)) 0 else .approx neg (2 * q + 1) (-201 - e)

/-- VRSQ of a positive value. -/
def spRsq (m : Nat) (e : Int) : Special :=
  let (m, e) : Nat × Int := if e % 2 = 0 then (m, e) else (2 * m, e - 1)
  let r := isqrt (2 ^ 300 / m)
  if r * r * m = 2 ^ 300 then .exact (.fin false r (-150 - e / 2)) 0
  else .approx false (2 * r + 1) (-151 - e / 2)

/-- A quotient of fixed-point numbers with a last bit for what lies below. -/
def spQuot (neg : Bool) (a b : Nat) : Special := .approx neg (2 * (a * 2 ^ 200 / b) + 1) (-201)

/-- VTANH of a non-zero value: (E - 1) / (E + 1) with E = e^2x; beyond 128 it no longer changes. -/
def spTanh (neg : Bool) (m : Nat) (e : Int) : Special :=
  let (m, e) : Nat × Int := if dyLt 128 0 m e then (128, 0) else (m, e)
  let (k, f) := fxExp m (e + 1)
  let E := f * 2 ^ k
  .approx neg (2 * ((E - 2 ^ fxP) * 2 ^ 400 / (E + 2 ^ fxP)) + 1) (-401)

/-- VSIGM of a non-zero value: E / (E + 1) or 1 / (E + 1) with E = e^|x|. -/
def spSigm (neg : Bool) (m : Nat) (e : Int) : Special :=
  let (m, e) : Nat × Int := if dyLt 128 0 m e then (128, 0) else (m, e)
  let (k, f) := fxExp m e
  let E := f * 2 ^ k
  .approx false (2 * ((if neg then 2 ^ fxP else E) * 2 ^ 400 / (E + 2 ^ fxP)) + 1) (-401)

/-- A special function's value (R91). -/
def SFun.value (g : SFun) (v : Num) : Special :=
  match g, v with
  | _, .nan => .exact .nan 0
  | .exp2, .inf neg => .exact (if neg then .fin false 0 0 else .inf false) 0
  | .exp2, .fin neg m e => if m = 0 then .exact (.fin false 1 0) 0 else spExp2 neg m e
  | .log2, .inf neg => if neg then .exact .nan fINV else .exact (.inf false) 0
  | .log2, .fin neg m e =>
    if m = 0 then .exact (.inf true) fDZ else if neg then .exact .nan fINV else spLog2 m e
  | .rcp, .inf neg => .exact (.fin neg 0 0) 0
  | .rcp, .fin neg m e => if m = 0 then .exact (.inf neg) fDZ else spRcp neg m e
  | .rsq, .inf neg => if neg then .exact .nan fINV else .exact (.fin false 0 0) 0
  | .rsq, .fin neg m e =>
    if m = 0 then .exact (.inf neg) fDZ else if neg then .exact .nan fINV else spRsq m e
  | .tanh, .inf neg => .exact (.fin neg 1 0) 0
  | .tanh, .fin neg m e => if m = 0 then .exact (.fin neg 0 0) 0 else spTanh neg m e
  | .sigm, .inf neg => .exact (if neg then .fin false 0 0 else .fin false 1 0) 0
  | .sigm, .fin neg m e => if m = 0 then .exact (.fin false 1 (-1)) 0 else spSigm neg m e

/-- A finite value rounded to FP32 and from there to the element type, both RNE, with only OVF and UNF (R91). -/
def spRound (f : Fmt) (neg : Bool) (m : Nat) (e : Int) : Nat × Flags :=
  let (b, fl) := toFloat .fp32 .rnei (.fin neg m e)
  let (b', fl') := if f == .fp32 then (b, 0) else toFloat f .rnei (Fmt.fp32.decode b)
  let infinite := match f.decode b' with | .inf _ => true | _ => false
  let tiny := (roundMag f .rnei neg m e).2.2.2
  let inexact := (fl ||| fl') &&& fINX ≠ 0
  (b', (if infinite then fOVF else 0) ||| (if tiny && inexact then fUNF else 0))

/-- A special function of an element (R91, R226). -/
def SFun.apply (g : SFun) (f : Fmt) (bits : Nat) : Nat × Flags :=
  match g.value (f.decode bits) with
  | .exact (.fin neg m e) fl =>
    if m = 0 then (withSign f neg 0, fl) else let (b, x) := spRound f neg m e; (b, fl ||| x)
  | .exact v fl => ((toFloat f .rnei v).1, fl)
  | .approx neg m e => spRound f neg m e

/-! ## E2M1 blocks (R76 to R78, R86, R87) -/

/-- Twice the magnitude of an E2M1 grid code's value. -/
def gridMag (c : Nat) : Nat := [0, 1, 2, 3, 4, 6, 8, 12].getD (c % 8) 0

/-- The value of an E2M1 code in eighths, given the block's extra byte (R76, R77). -/
def e2m1Eighths (code extra : Nat) : Int :=
  if code % 16 = 8 then (if 128 ≤ extra % 256 then -((extra % 128 : Nat) : Int) else ((extra % 128 : Nat) : Int))
  else if 8 ≤ code % 16 then -(4 * gridMag code : Int) else 4 * gridMag code

/-- The value of an E2M1 code without its scale; there is no negative zero (R76, R77). -/
def e2m1Num (code extra : Nat) : Num :=
  .fin (decide (e2m1Eighths code extra < 0)) (e2m1Eighths code extra).natAbs (-3)

/-- An E2M1 element times its block's scale (R76, R223). -/
def e2m1Value (code extra scale : Nat) : Num :=
  match e5m3 scale, e2m1Num code extra with
  | some (m, e), .fin neg v q => .fin (neg && m != 0) (v * m) (e + q)
  | _, _ => .nan

/-- A finite value in units of 2^q, for q at or below its exponent. -/
def inUnits (v : Num) (q : Int) : Int :=
  match v with
  | .fin s m e => if s then -((m * 2 ^ (e - q).toNat : Nat) : Int) else (m * 2 ^ (e - q).toNat : Nat)
  | _ => 0

/-- The candidates of R87, each a code and its value in eighths of the scale; the block's extra value comes last. -/
def candidates (extra : Nat) : List (Nat × Int) :=
  ([0, 1, 2, 3, 4, 5, 6, 7, 9, 10, 11, 12, 13, 14, 15].map (fun c => (c, e2m1Eighths c 0))) ++ [(8, e2m1Eighths 8 extra)]

/-- The candidate that better than another serves as the one next to x from below (or above). -/
def nearer (below : Bool) (x : Int) (u : Int) (best : Option (Nat × Int)) (c : Nat × Int) : Option (Nat × Int) :=
  let v := c.2 * u
  if (if below then v ≤ x else x ≤ v) then
    match best with
    | none => some c
    | some b => if (if below then b.2 < c.2 else c.2 < b.2) then some c else some b
  else best

/-- Element i ≠ k of a block (R87): x and the unit of one eighth of the scale are in one common unit. -/
def e2m1Pick (mode : RMode) (extra : Nat) (x u : Int) : Nat × Flags :=
  let cs := candidates extra
  match cs.foldl (nearer true x u) none, cs.foldl (nearer false x u) none with
  | some a, some b =>
    if a.2 * u = x then (a.1, 0)
    else if b.2 * u = x then (b.1, 0)
    else
      let da := x - a.2 * u
      let db := b.2 * u - x
      let inner := if a.2.natAbs < b.2.natAbs then a else b
      let outer := if a.2.natAbs < b.2.natAbs then b else a
      let pick : Nat × Int := match mode with
        | .rne | .rnei => if da < db then a else if db < da then b
            else if a.1 = 8 then b else if b.1 = 8 then a else if a.1 % 2 = 0 then a else b
        | .rtz => inner
        | .rdn => a
        | .rup => b
        | .sr r =>
          let t := (x.natAbs - inner.2.natAbs * u.natAbs) * 65536 / ((outer.2.natAbs - inner.2.natAbs) * u.natAbs)
          if r < t then outer else inner
      (pick.1, fINX)
  | some a, none =>
    let c := cs.foldl (fun (best : Nat × Int) c => if best.2 < c.2 then c else best) a
    (c.1, fSAT ||| fINX)
  | none, some b =>
    let c := cs.foldl (fun (best : Nat × Int) c => if c.2 < best.2 then c else best) b
    (c.1, fSAT ||| fINX)
  | none, none => (0, 0)

/-- The index and magnitude of the largest |x|, and the largest of the others (R86). -/
def largest (xs : List Num) : Nat × Num × Num :=
  let rec go : List Num → Nat → Nat × Num × Num → Nat × Num × Num
    | [], _, r => r
    | x :: t, i, (k, m, m2) =>
      let a := x.abs
      go t (i + 1) (if Num.lt m a then (i, a, m) else if Num.lt m2 a then (k, m, a) else (k, m, m2))
  match xs with
  | [] => (0, .fin false 0 0, .fin false 0 0)
  | x :: t => go t 1 (0, x.abs, .fin false 0 0)

/-- The smallest E5M3 code with M2 ≤ 6 S and M ≤ 15.875 S, if any (R86). -/
def scaleOf (M M2 : Num) : (fuel code : Nat) → Option Nat
  | 0, _ => none
  | n + 1, c =>
    match e5m3 c with
    | none => none
    | some (m, e) =>
      if !Num.lt (.fin false (6 * m) e) M2 && !Num.lt (.fin false (127 * m) (e - 3)) M then some c
      else scaleOf M M2 n (c + 1)

/-- A block of 32 values in E2M1 (R86, R87): the codes, the scale, the extra byte and the flags. The modes are given per
element. -/
def e2m1Block (modes : List RMode) (xs : List Num) : List Nat × Nat × Nat × Flags :=
  if xs.any (·.isNan) then (List.replicate 32 0, 0xFF, 0, 0)
  else
    let (k, M, M2) := largest xs
    let infinite := match M with | .inf _ => true | _ => false
    if Num.eq M (.fin false 0 0) then (List.replicate 32 0, 0, 0, 0)
    else
      let sign := (xs.getD k .nan).sign
      let (scale, extra, fl0) : Nat × Nat × Flags :=
        match (if infinite then none else scaleOf M M2 255 1) with
        | none => (0xFE, (if sign then 0xFF else 0x7F), fSAT ||| fINX)
        | some c =>
          match e5m3 c, M with
          | some (m, e), .fin _ mm me =>
            -- x_k / S in eighths, rounded RNE
            let q := if me < e - 3 then me else e - 3
            let a := mm * 2 ^ (me - q).toNat
            let b := m * 2 ^ (e - 3 - q).toNat
            let n := a / b
            let r := a % b
            let up := decide (b < 2 * r) || (decide (2 * r = b) && n % 2 == 1)
            let n := if up then n + 1 else n
            (c, (if sign then 128 + n else n), if r = 0 then 0 else fINX)
          | _, _ => (c, 0, 0)
      let (sm, se) := (e5m3 scale).getD (0, 0)
      let one (i : Nat) (x : Num) : Nat × Flags :=
        if i = k then (8, 0)
        else match x with
          | .fin _ _ e =>
            let q := if e < se - 3 then e else se - 3
            e2m1Pick (modes.getD i .rne) extra (inUnits x q) (inUnits (.fin false sm (se - 3)) q)
          | _ =>
            let far : Int := 2 ^ 400
            e2m1Pick .rne extra (if x.sign then -far else far) 1
      let rs := (List.range 32).map (fun i => one i (xs.getD i .nan))
      (rs.map (·.1), scale, extra, rs.foldl (fun a r => a ||| r.2) fl0)

/-! ## Accumulation (R88 to R90) -/

/-- add_fp32_rne on bits. -/
def addFp32 (a b : Nat) : Nat × Flags := fAdd .fp32 (Fmt.fp32.decode a) (Fmt.fp32.decode b)

/-- The saturating 48-bit addition of R90; the value lies in a 64-bit element. -/
def addAcc (acc x : Int) : Int × Flags :=
  let t := acc + x
  if 2 ^ 47 - 1 < t then (2 ^ 47 - 1, fSAT) else if t < -(2 ^ 47 - 1) then (-(2 ^ 47 - 1), fSAT) else (t, 0)

/-- A product of R88 as a window term: its magnitude truncated to a multiple of 2^q, and whether it was cut. -/
def windowTerm (q : Int) (p : Num) : Int × Bool :=
  match p with
  | .fin s m e =>
    let n := if q ≤ e then m * 2 ^ (e - q).toNat else m / 2 ^ (q - e).toNat
    let cut := decide (e < q) && m % 2 ^ (q - e).toNat != 0
    (if s then -(n : Int) else n, cut)
  | _ => (0, false)

/-- The sum s of one K-block from its products and the block scales (R88), with its flags. -/
def blockSum (ps : List (Num × Flags)) (sa sb : Option (Nat × Int)) : Nat × Flags :=
  let inv := ps.any (fun p => p.2 != 0)
  let nan := ps.any (·.1.isNan)
  let posInf := ps.any (·.1 == .inf false)
  let negInf := ps.any (·.1 == .inf true)
  if nan || (posInf && negInf) then (Fmt.fp32.nan, if inv || (posInf && negInf) then fINV else 0)
  else match sa, sb with
    | none, _ | _, none => (Fmt.fp32.nan, 0)
    | some (am, ae), some (bm, be) =>
      if posInf then (0x7F800000, 0) else if negInf then (0xFF800000, 0)
      else
        let tops := ps.filterMap (fun p => match p.1 with
          | .fin _ m e => if m = 0 then none else some ((Nat.log2 m : Int) + e)
          | _ => none)
        match tops with
        | [] => (if ps.all (·.1.sign) then 0x80000000 else 0, 0)
        | t :: ts =>
          let e := ts.foldl (fun a b => if a < b then b else a) t
          let terms := ps.map (fun p => windowTerm (e - 63) p.1)
          let w := terms.foldl (fun a p => a + p.1) 0
          let cut := terms.any (·.2)
          let n := w.natAbs * am * bm
          let v := Num.fin (decide (w < 0) && n != 0) n (e - 63 + ae + be)
          let (b, fl) := toFloat .fp32 .rnei v
          (b, fl ||| (if cut then fINX else 0))

end Sys2Proof.Machine
end

