-- ==== Sys2Proof/Machine/Scalar.lean ====
section
/-!
DEFINITION. The X-engine's scalar instructions, moves between queues and registers, shape, masks, selectors, generator and
flags (R210 to R215, R227, R228, R232 to R236).
-/

namespace Sys2Proof.Machine

/-- The s-register that a field names. -/
def sDest (r : BitVec 6) : Dest := .s (r.setWidth 5)

/-- Writes an s-register after its latency; a scoreboard line waits for earlier writes of it (R206). -/
def Ctx.putS (c : Ctx) (rd : BitVec 6) (v : W32) (lat : Nat) (t : Tok) (fl : Flags := 0) : Act Ctx := do
  c.ready .X (if rd.setWidth 5 = 0#5 then .none else sDest rd)
  c.emit .X (sDest rd) v.toNat lat t fl

/-- Writes a mask register (R206, R218). -/
def Ctx.putK (c : Ctx) (kd : BitVec 3) (v : KReg) (lat : Nat) (t : Tok) : Act Ctx := do
  c.ready .X (if kd = 0 then .none else .k kd)
  c.emit .X (.k kd) v.toNat lat t

/-- A scalar instruction of two registers (R210). -/
def State.salu (s : State) (t : Tok) (rd rs1 rs2 : BitVec 6) (lat : Nat) (f : W32 → W32 → W32 × Flags) :
    Host.Outcome State Fault Refusal :=
  s.local .X t (fun c => do
    let x ← c.rdS rs1
    let y ← c.rdS rs2
    let (v, fl) := f x y
    c.putS rd v lat t fl)

/-- An FP32 operation on registers. -/
def fp2 (f : Num → Num → Nat × Flags) (x y : W32) : W32 × Flags :=
  let (b, fl) := f (Fmt.fp32.decode x.toNat) (Fmt.fp32.decode y.toNat)
  (BitVec.ofNat 32 b, fl)

/-- SADD (R210). -/
def execSadd (t : Tok) (rd rs1 rs2 : BitVec 6) (s : State) := s.salu t rd rs1 rs2 1 (fun x y => (x + y, 0))
/-- SSUB (R210). -/
def execSsub (t : Tok) (rd rs1 rs2 : BitVec 6) (s : State) := s.salu t rd rs1 rs2 1 (fun x y => (x - y, 0))
/-- SMUL (R210). -/
def execSmul (t : Tok) (rd rs1 rs2 : BitVec 6) (s : State) := s.salu t rd rs1 rs2 1 (fun x y => (x * y, 0))
/-- SMIN (R210). -/
def execSmin (t : Tok) (rd rs1 rs2 : BitVec 6) (s : State) :=
  s.salu t rd rs1 rs2 1 (fun x y => (if x.slt y then x else y, 0))
/-- SMAX (R210). -/
def execSmax (t : Tok) (rd rs1 rs2 : BitVec 6) (s : State) :=
  s.salu t rd rs1 rs2 1 (fun x y => (if x.slt y then y else x, 0))
/-- SAND (R210). -/
def execSand (t : Tok) (rd rs1 rs2 : BitVec 6) (s : State) := s.salu t rd rs1 rs2 1 (fun x y => (x &&& y, 0))
/-- SOR (R210). -/
def execSor (t : Tok) (rd rs1 rs2 : BitVec 6) (s : State) := s.salu t rd rs1 rs2 1 (fun x y => (x ||| y, 0))
/-- SXOR (R210). -/
def execSxor (t : Tok) (rd rs1 rs2 : BitVec 6) (s : State) := s.salu t rd rs1 rs2 1 (fun x y => (x ^^^ y, 0))
/-- SSHL (R210): 0 for a shift of 32 or more. -/
def execSshl (t : Tok) (rd rs1 rs2 : BitVec 6) (s : State) :=
  s.salu t rd rs1 rs2 1 (fun x y => (if y.toNat < 32 then x <<< y.toNat else 0, 0))
/-- SSHR (R210). -/
def execSshr (t : Tok) (rd rs1 rs2 : BitVec 6) (s : State) :=
  s.salu t rd rs1 rs2 1 (fun x y => (if y.toNat < 32 then x >>> y.toNat else 0, 0))
/-- FADD (R210). -/
def execFadd (t : Tok) (rd rs1 rs2 : BitVec 6) (s : State) := s.salu t rd rs1 rs2 4 (fp2 (fAdd .fp32))
/-- FSUB (R210). -/
def execFsub (t : Tok) (rd rs1 rs2 : BitVec 6) (s : State) :=
  s.salu t rd rs1 rs2 4 (fp2 (fun x y => fAdd .fp32 x y.neg))
/-- FMUL (R210). -/
def execFmul (t : Tok) (rd rs1 rs2 : BitVec 6) (s : State) := s.salu t rd rs1 rs2 4 (fp2 (fMul .fp32))
/-- FMIN (R210). -/
def execFmin (t : Tok) (rd rs1 rs2 : BitVec 6) (s : State) :=
  s.salu t rd rs1 rs2 4 (fun x y => (BitVec.ofNat 32 (fMinMax .fp32 false x.toNat y.toNat), 0))
/-- FMAX (R210). -/
def execFmax (t : Tok) (rd rs1 rs2 : BitVec 6) (s : State) :=
  s.salu t rd rs1 rs2 4 (fun x y => (BitVec.ofNat 32 (fMinMax .fp32 true x.toNat y.toNat), 0))
/-- The result code of FCMP: less, equal, greater or unordered (R210). -/
def cmpCode (x y : Num) : Nat :=
  if x.isNan || y.isNan then 8 else if Num.lt x y then 1 else if Num.lt y x then 4 else 2
/-- FCMP (R210): no flag. -/
def execFcmp (t : Tok) (rd rs1 rs2 : BitVec 6) (s : State) :=
  s.salu t rd rs1 rs2 4 (fp2 (fun x y => (cmpCode x y, 0)))

/-- SFMA (R211). -/
def execSfma (t : Tok) (rd rs1 rs2 rs3 : BitVec 6) (s : State) :=
  s.local .X t (fun c => do
    let x ← c.rdS rs1
    let y ← c.rdS rs2
    let z ← c.rdS rs3
    let d := fun (w : W32) => Fmt.fp32.decode w.toNat
    let (b, fl) := fFma .fp32 (d x) (d y) (d z)
    c.putS rd (BitVec.ofNat 32 b) 6 t fl)

/-- The conversions of SCVT (R212). -/
def scvtValue (code : Nat) (x : W32) : Nat × Flags :=
  let lo := x.toNat % 65536
  match code with
  | 0 => Fmt.fp32.encode .rne (Fmt.int32.decode x.toNat)
  | 1 => Fmt.int32.encode .rne (Fmt.fp32.decode x.toNat)
  | 2 => Fmt.int32.encode .rtz (Fmt.fp32.decode x.toNat)
  | 3 => Fmt.bf16.encode .rne (Fmt.fp32.decode x.toNat)
  | 4 => Fmt.fp32.encode .rne (Fmt.bf16.decode lo)
  | 5 => Fmt.fp16.encode .rne (Fmt.fp32.decode x.toNat)
  | _ => Fmt.fp32.encode .rne (Fmt.fp16.decode lo)

/-- SCVT (R212); in early service a conversion to or from FP16 is withheld (R236). -/
def execScvt (t : Tok) (rd rs1 code : BitVec 6) (s : State) :=
  s.local .X t (fun c => do
    check (s.fullService s.cur.loom || code.toNat < 5) (fmtFault 3 0)
    let x ← c.rdS rs1
    let (b, fl) := scvtValue code.toNat x
    c.putS rd (BitVec.ofNat 32 b) 4 t fl)

/-- SLI (R213). -/
def execSli (t : Tok) (rd : BitVec 6) (imm : BitVec 18) (s : State) :=
  s.local .X t (fun c => c.putS rd (imm.signExtend 32) 1 t)

/-! ## Queues -/

/-- A load queue's head, popped; the engine waits until it is there and filled (R33, R160). -/
def Ctx.popLq (c : Ctx) (q : BitVec 2) : Act (Ctx × QEntry) :=
  match c.lq[q.toNat] with
  | [] => .error (.wait (.lq q.toNat 0))
  | e :: r => if e.pending then .error (.wait (.lq q.toNat 0)) else .ok ({ c with lq := c.lq.set q.toNat r q.isLt }, e)

/-- Reserves an entry of a store queue for a result, which names it by number; the queue holds 8 (R33, R207). -/
def Ctx.reserveSq (c : Ctx) (q : BitVec 1) : Act Ctx :=
  if 8 ≤ c.sq[q.toNat].length then .error (.wait (.sq q.toNat))
  else
    let e : QEntry := { data := 0, len := 0, pending := true, filler := some c.nextId }
    .ok { c with sq := c.sq.set q.toNat (c.sq[q.toNat] ++ [e]) q.isLt, nextId := c.nextId + 1 }

/-- Pushes a filled entry to a store queue at issue: a push writes no register (R209, R214), and its
token is pushed with it (DEDUCED, log 45). -/
def Ctx.pushSq (c : Ctx) (q : BitVec 1) (v : VReg) (len : Nat) (t : Tok) : Act Ctx :=
  if 8 ≤ c.sq[q.toNat].length then .error (.wait (.sq q.toNat))
  else
    let e : QEntry := { data := v, len := len, pending := false }
    let d : Ctx := { c with sq := c.sq.set q.toNat (c.sq[q.toNat] ++ [e]) q.isLt }
    .ok (d.postNow .X t)

/-- The load queue that a field of 32 to 35 names. -/
def lqOf (r : BitVec 6) : BitVec 2 := r.setWidth 2
/-- The store queue that a field of 36 or 37 names. -/
def sqOf (r : BitVec 6) : BitVec 1 := r.setWidth 1

/-- SMOVQ (R214). -/
def execSmovq (t : Tok) (rd rs1 idx : BitVec 6) (s : State) :=
  s.local .X t (fun c => do
    if rd.toNat < 32 then
      if rs1.toNat < 32 then c.putS rd (← c.rdS rs1) 1 t
      else
        let (c, e) ← c.popLq (lqOf rs1)
        c.putS rd (e.data.extractLsb' (32 * idx.toNat) 32) 1 t
    else if rs1.toNat < 32 then c.pushSq (sqOf rd) ((← c.rdS rs1).setWidth 16384) 4 t
    else
      let (c, e) ← c.popLq (lqOf rs1)
      c.pushSq (sqOf rd) e.data e.len t)

/-- Pops n entries of a load queue, all of which must be there (R232). -/
def Ctx.popMany (c : Ctx) (q : BitVec 2) : (n : Nat) → Act Ctx
  | 0 => .ok c
  | n + 1 => do Ctx.popMany (← c.popLq q).1 q n

/-- QSKIP (R232). -/
def execQskip (t : Tok) (q : BitVec 6) (count : BitVec 12) (s : State) :=
  s.localNow .X t (fun c => c.popMany (lqOf q) count.toNat)

/-! ## Shape, selector, generator, flags -/

/-- SHAPE (R124, R215): it takes effect for the next lane. -/
def execShape (t : Tok) (rlog : BitVec 3) (cols : BitVec 12) (s : State) :=
  s.localNow .X t (fun c => .ok { c with vshape := 0#17 ++ rlog ++ cols })

/-- FTSEL (R233). -/
def execFtsel (t : Tok) (value : BitVec 8) (s : State) :=
  s.localNow .X t (fun c => .ok { c with ftx := 0#24 ++ value })

/-- VSEED (R234). -/
def execVseed (t : Tok) (rs1 rs2 : BitVec 6) (s : State) :=
  s.localNow .X t (fun c => do
    let lo ← c.rdS rs1
    let hi ← c.rdS rs2
    return { c with g := hi ++ lo })

/-- SFLAGS (R235): in a scoreboard line it waits for every X-engine result. -/
def execSflags (t : Tok) (rd : BitVec 6) (clr : BitVec 1) (s : State) :=
  s.local .X t (fun c => do
    if !c.exposed .X && c.inFlight.any (·.eng == .X) then .error (.wait .reg)
    let c ← c.putS rd (c.flags.setWidth 32) 1 t
    return if clr = 1 then { c with flags := 0 } else c)

/-- Rows of VSHAPE (R124). -/
def Ctx.rows (c : Ctx) : Nat := 2 ^ (c.vshape.extractLsb' 12 3).toNat
/-- Columns of VSHAPE. -/
def Ctx.cols (c : Ctx) : Nat := (c.vshape.extractLsb' 0 12).toNat
/-- E, the elements of the tile (R206). -/
def Ctx.elems (c : Ctx) : Nat := c.rows * c.cols

/-! ## Masks -/

/-- The mask register that a field names. -/
def kOf (r : BitVec 6) : BitVec 3 := r.setWidth 3

/-- A mask from a predicate on its 2,048 bits. -/
def maskOf (p : Nat → Bool) : KReg :=
  BitVec.ofNat 2048 ((List.range 2048).foldr (fun i a => 2 * a + (if p i then 1 else 0)) 0)

/-- KSET (R227). -/
def execKset (t : Tok) (kd rs1 pat : BitVec 6) (s : State) :=
  s.local .X t (fun c => do
    let n := (← c.rdS rs1).toNat
    let E := c.elems
    let C := c.cols
    let p : Nat → Bool := match pat.toNat with
      | 0 => fun i => decide (i < n)
      | 1 => fun i => decide (i < E) && decide (i % C < n)
      | _ => fun i => decide (i < E) && decide (i / C < n)
    c.putK (kOf kd) (maskOf p) 1 t)

/-- A mask instruction (R228). -/
def State.mlogic (s : State) (t : Tok) (kd ka kb : BitVec 6) (f : KReg → KReg → KReg) : Host.Outcome State Fault Refusal :=
  s.local .X t (fun c => do
    let x ← c.rdK (kOf ka)
    let y ← c.rdK (kOf kb)
    c.putK (kOf kd) (f x y) 1 t)

/-- KAND (R228). -/
def execKand (t : Tok) (kd ka kb : BitVec 6) (s : State) := s.mlogic t kd ka kb (· &&& ·)
/-- KOR (R228). -/
def execKor (t : Tok) (kd ka kb : BitVec 6) (s : State) := s.mlogic t kd ka kb (· ||| ·)
/-- KXOR (R228). -/
def execKxor (t : Tok) (kd ka kb : BitVec 6) (s : State) := s.mlogic t kd ka kb (· ^^^ ·)
/-- KNOT (R228). -/
def execKnot (t : Tok) (kd ka : BitVec 6) (s : State) := s.mlogic t kd ka ka (fun x _ => ~~~x)

end Sys2Proof.Machine
end

