-- ==== Sys2Proof/Machine/Access.lean ====
section
/-!
DEFINITION. Memory instructions of the A-engine and their performance: loads, stores, gathers, atomics, prefetch
(R94 to R98, R155 to R170), and the events by which accesses are performed.
-/

namespace Sys2Proof.Machine

/-! ## Issue -/

/-- The effective address of format M (R155). -/
def effAddr (b : W64) (off : BitVec 8) (u : Nat) : W64 := addOffset b (off.toInt * (u : Int))

/-- The value of the length register (R155). -/
def Ctx.rdLen (c : Ctx) (base : BitVec 6) : Act W64 := c.rdA (base + 1)

/-- LEN of a queue access (R155): ENTRY above 2,048. -/
def lenOf (x : W64) : Act Nat :=
  let n := x.toNat % 4096
  if n = 0 then .ok 2048 else if n ≤ 2048 then .ok n else .error (faultOf 5 5 0 n)

/-- Whether one of the operations is still outstanding in a context: an access or an ACC.INIT that is not performed, a copy
command that has not read all of its source, or a tile task that has not read its operands. -/
def Ctx.waitsOn (c : Ctx) (ids : List Nat) : Bool :=
  c.accs.any (fun a => ids.contains a.id)
  || c.accOps.any (fun a => ids.contains a.id)
  || (c.copyLoad ++ c.copyStore).any (fun k => ids.contains k.id && Nat.blt k.readTo k.len)
  || c.cmds.any (fun n => ids.contains n.id && n.reading)

/-- A fence in force holds a covered access at issue (R97). -/
def Ctx.fenceFree (c : Ctx) (st : BitVec 4) : Act Unit :=
  check (!c.fences.any (fun f => f.mask.getLsbD st.toNat && c.waitsOn f.ids)) (.wait .fence)

/-- How many operations a counter counts. -/
def Ctx.count (c : Ctx) (k : Counter) : Nat := (c.outs.filter (·.ctr == k)).length

/-- A counter that would pass 65,535 holds the operation at issue (R169). -/
def Ctx.counterRoom (c : Ctx) (k : Counter) : Act Unit := check (Nat.blt (c.count k) 65535) (.wait .counter)

/-- Whether two runs of bytes meet a common memory word. -/
def wordsMeet (a n b m : Nat) : Bool := Nat.blt (a / 8) ((b + m + 7) / 8) && Nat.blt (b / 8) ((a + n + 7) / 8)

/-- Whether a span lies in the memory of a partition itself, which its own peer ID names too. -/
def Span.home (sp : Span) (self : Nat) : Bool := sp.peer.isNone || sp.peer == some self

/-- Whether two spans of a partition's accesses meet a common memory word (R96): by physical address where both are translated, else by
the virtual addresses of the partition or peer that they name. -/
def Span.meets (self : Nat) (a b : Span) : Bool :=
  if a.peer.isNone && b.peer.isNone then wordsMeet a.pa a.len b.pa b.len
  else ((a.home self && b.home self) || a.peer == b.peer) && wordsMeet a.va a.len b.va b.len

/-- Whether two lists of spans meet. -/
def spansMeet (self : Nat) (xs ys : List Span) : Bool := xs.any (fun x => ys.any (fun y => x.meets self y))

/-- The earlier accesses of a stream that touch the same words (R96). -/
def Ctx.earlier (c : Ctx) (st : BitVec 4) (sps : List Span) : List Nat :=
  (c.accs.filter (fun a => a.stream == st && spansMeet c.peer a.spans sps)).map (·.id)

/-- The spans of an access that are not performed. -/
def Access.undone (a : Access) : List Span := (a.spans.zipIdx.filter (fun x => !a.done.contains x.2)).map (·.1)

/-- Whether nothing that was issued before in its stream and touches the same words holds a span of an access (R96, R168). -/
def Ctx.spanFree (c : Ctx) (a : Access) (sp : Span) : Bool :=
  !c.accs.any (fun b => Nat.blt b.id a.id && b.stream == a.stream && b.undone.any (·.meets c.peer sp))

/-- The earlier engine commands of a stream that read bytes which a later write of it changes (R95, R96). -/
def Ctx.earlierReads (c : Ctx) (st : BitVec 4) (sps : List Span) : List Nat :=
  ((c.copyLoad ++ c.copyStore).filter (fun k => k.stream == st && spansMeet c.peer k.src sps)).map (·.id)
  ++ (c.cmds.filter (fun n => n.reading && n.stream == st && n.reads.any (fun r =>
        sps.any (fun sp => sp.peer.isNone && overlapLen r.1 r.2 sp.pa sp.len != 0)))).map (·.id)

/-- Whether an access writes. -/
def AccKind.writes : AccKind → Bool
  | .store .. | .atomic .. | .relSt _ | .barInit .. | .barExpect _ | .barArrive | .suspMk .. => true
  | _ => false

/-- Whether a value is marked as a handle (R172). -/
def isHandle (a : W64) : Bool := a.extractLsb' 60 4 == 0xF

/-- The address by which a partition knows an object that its own peer ID names. -/
def ownAddr (self obj : Nat) : Nat := if obj / 2 ^ 48 = 4 * 2 ^ 12 + self then obj % 2 ^ 48 else obj

/-- The kind of an object, if the partition's table binds it (R178). -/
def State.kindOf (s : State) (peer obj : Nat) : Option Nat := ((s.bindingsOf peer).find? (fun b => b.obj == obj)).map (·.kind)

/-- Whether a span holds a byte of the n bytes of an object that a partition names by its address. -/
def Span.holds (sp : Span) (self obj n : Nat) : Bool := overlapLen (sp.rawFor self) sp.len (ownAddr self obj) n != 0

/-- Whether an access updates a synchronisation object (R99, R101): an arrival at a barrier; a disarm of a bobbin, or a write that it
counts; any write of a flag word. Neither BAR.INIT, nor BAR.EXPECT, nor an ordinary store to a barrier is an update of it. -/
def State.updatesObject (s : State) (self : Nat) (a : Access) (obj : Nat) : Bool :=
  if isHandle (BitVec.ofNat 64 obj) then
    (match a.kind with | .bobDisarm _ => a.obj == some obj | _ => false)
    || (a.kind.writes && (let h : W64 := BitVec.ofNat 64 obj
        let b := s.bobbin (bobbinKeyOf h)
        b.counting && b.gen == h.extractLsb' 32 16 && b.peer == self && b.share (a.spans.map (fun sp => (sp.pa, sp.len))) != 0))
  else
    match a.kind with
    | .barArrive => (a.obj.map (ownAddr self)) == some (ownAddr self obj)
    | .store .. | .atomic .. | .relSt _ => s.kindOf self obj != some 0 && a.spans.any (·.holds self obj 8)
    | _ => false
where
  /-- The key of the bobbin that a handle names (R172). -/
  bobbinKeyOf (h : W64) : Nat :=
    (if h.getLsbD 16 then 65536 else 0) + 256 * (h.extractLsb' 8 6).toNat + (h.extractLsb' 0 8).toNat

/-- Whether a context runs in determinate mode (R30). -/
def State.determinate (s : State) (c : Ctx) : Bool := ((s.part? c.peer).map (·.determinate)).getD false

/-- The code of an atomic on the wire (R131, R291). -/
def AtomicOp.wire (op : AtomicOp) (ret : Bool) : Nat :=
  let n := if ret then 0 else 1
  match op with
  | .add => n | .and => 2 + n | .or => 4 + n | .xor => 6 + n | .min => 8 + n | .max => 10 + n | .minu => 12 + n
  | .maxu => 14 + n | .swap => 16 + n | .faaC => 0x20 | .cas _ => 0x21

/-- The request flit of one span of an access (R291). -/
def Access.flit (a : Access) (sp : Span) : Nat × Flit :=
  let base : Flit := { noFlit with addr := BitVec.ofNat 48 sp.va, stream := a.stream, lenM1 := BitVec.ofNat 11 (sp.len - 1) }
  match a.kind with
  | .store data _ =>
    let bs := (data.drop sp.off).take sp.len
    (kWrite, { base with opa := inline bs, data := if sp.len ≤ 8 then [] else bs })
  | .relSt v => (kRelSt, { base with opa := v })
  | .atomic op o => (kAtomic, { base with opa := o, aop := BitVec.ofNat 8 (op.wire (a.dest != .none)) })
  | _ => (kRead, base)

/-- Sends the request of one span of an access to its peer (R295); an operation on a barrier or bobbin leaves as such. -/
def State.sendSpan (s : State) (loom : Nat) (ev : Bool) (peer : Nat) (a : Access) (i : Nat) (sp : Span) : State :=
  let q := sp.peer.getD 0
  match a.kind with
  | .barInit .. | .barExpect _ | .barArrive | .barTest | .barFlags | .bobArm _ | .bobDisarm _ | .bobRead _ | .peek =>
    let r : Request := { rtag := s.nextTag, peer := peer, dpeer := q, loom := loom, ev := ev, owner := .acc a.id i,
                         flit := noFlit, kind := 0 }
    { s with requests := s.requests ++ [r], nextTag := (s.nextTag + 1) % 65536,
             out := s.out ++ [Output.object q s.nextTag a.kind sp.va] }
  | .atomic (.cas new) _ =>
    let (k, f) := a.flit sp
    s.request (ctxSource loom ev) peer q loom ev (.acc a.id i) k f (some new)
  | _ =>
    let (k, f) := a.flit sp
    s.request (ctxSource loom ev) peer q loom ev (.acc a.id i) k f

/-- Whether a span lies at a real peer, not at the issuing partition itself. -/
def Span.remote (sp : Span) (peer : Nat) : Bool := sp.peer.isSome && sp.peer != some peer

/-! ## Combining switches (R166, R321) -/

/-- The word that a FAA.C may be combined on, as a number (R54): its physical address in HBM, LPDDR or the bolt scratchpad, and its peer
and virtual address above 2^60 where it lies at a peer; an own peer ID's word is not combined on the way (DESIGN CHOICE, log 107). -/
def Access.target (a : Access) (self : Nat) : Option Nat :=
  match a.kind, a.spans with
  | .atomic .faaC _, [sp] =>
    match sp.peer with
    | some q => if q = self then none else some (2 ^ 60 + q * 2 ^ 48 + sp.va)
    | none => if offChip sp.pa || Nat.ble (2 ^ 44) sp.pa then some sp.pa else none
  | _, _ => none

/-- A request reaches a switch: it joins the open entry of its word that has no request of its port, or opens one; false when the
switch's table has no room, and the request passes uncombined. -/
def State.joinSwitch (s : State) (switch target : Nat) (part : CombPart) : State × Bool :=
  let here := s.combining.filter (·.switch == switch)
  match here.find? (fun e => !e.departed && e.target == target && !e.parts.any (·.port == part.port)) with
  | some e =>
    let parts := e.parts.filter (fun x => Nat.blt x.port part.port) ++ [part] ++ e.parts.filter (fun x => Nat.blt part.port x.port)
    ({ s with combining := s.combining.map (fun x => if x.id = e.id then { x with parts := parts } else x) }, true)
  | none =>
    if here.length < Config.combiningRoom then
      ({ s with combining := s.combining ++ [{ id := s.nextCombining, switch := switch, target := target, parts := [part] }],
                nextCombining := s.nextCombining + 1 }, true)
    else (s, false)

/-- The panel switch that a request for a word passes, and its input port there (R321): for memory of the device, the switch of the
panel that owns the word, from a bolt of that panel on port (bolt mod 5), and from another panel's bridge on port 5 (DESIGN CHOICE,
log 107). -/
def panelSwitch (bolt target : Nat) : Option (Nat × Nat) :=
  if offChip target then some (40 + panelOfPa target, if panelOfPa target = bolt / 5 then bolt % 5 else 5) else none

/-- An access that has not been to a switch goes to its bolt's; where that table is full it passes on to the panel's, and where both
are full it goes uncombined (R166). -/
def State.enterSwitch (s : State) (loom : Nat) (ev : Bool) (a : Access) : State :=
  match a.target (s.ctxAt loom ev).peer, a.kind with
  | some target, .atomic _ o =>
    if a.combined then s
    else
      let part : CombPart := { port := loom % 8, req := some (loom, ev, a.id), addend := o }
      let s := match s.joinSwitch (boltOf loom) target part, panelSwitch (boltOf loom) target with
        | (s, true), _ => s
        | (s, false), some (sw, port) => (s.joinSwitch sw target { part with port := port }).1
        | (s, false), none => s
      let c := s.ctxAt loom ev
      s.setCtxAt loom ev { c with accs := c.accs.map (fun b => if b.id = a.id then { b with combined := true } else b) }
  | _, _ => s

/-- Whether a combining switch has an access. -/
def State.inSwitch (s : State) (loom : Nat) (ev : Bool) (a : Access) : Bool :=
  s.combining.any (fun e => e.parts.any (fun p => p.req == some (loom, ev, a.id)))

/-- Whether an access takes its place at its bolt's port to a stack (R319): a load or atomic of lines of memory-side pages. -/
def Access.ordered (a : Access) : Bool :=
  (match a.kind with | .load | .atomic .. => true | _ => false) && a.spans.any (fun sp => sp.peer.isNone && sp.attrs.getLsbD attrMS)

/-- Lets one access of a context go: it leaves its bolt, or enters a switch, or its requests to peers are sent, as far as nothing holds
them (R103, R168, R319). Its spans stand in ascending address order, in which its parts are issued. -/
def State.pumpAccess (s : State) (loom : Nat) (ev : Bool) (a : Access) : State :=
  let c := s.ctxAt loom ev
  if c.waitsOn a.after then s
  else
    let free := (a.spans.zipIdx).filter (fun x => c.spanFree a x.1)
    if free.isEmpty then s
    else
      let s := s.enterSwitch loom ev a
      let s := if a.left.isSome || !a.ordered || free.length != a.spans.length then s
        else
          let c := s.ctxAt loom ev
          { s.setCtxAt loom ev { c with accs := c.accs.map (fun b => if b.id = a.id then { b with left := some s.nextStamp } else b) }
            with nextStamp := s.nextStamp + 1 }
      let due := free.filter (fun x => x.1.remote c.peer && !a.sent.contains x.2)
      if due.isEmpty ∨ s.inSwitch loom ev a then s
      else
        let s := due.foldl (fun s x => s.sendSpan loom ev c.peer a x.2 x.1) s
        let c := s.ctxAt loom ev
        s.setCtxAt loom ev { c with accs := c.accs.map (fun b =>
          if b.id = a.id then { b with sent := b.sent ++ due.map (·.2) } else b) }

/-- Lets every access of a context go, in the order of issue. -/
def State.pump (s : State) (loom : Nat) (ev : Bool) : State :=
  (s.ctxAt loom ev).accs.foldl (fun s a => s.pumpAccess loom ev a) s

/-- Reserves where the data of an access go: a register load, of which 16 may be outstanding (R159), or an entry of a load
queue (R33, R160). -/
def Ctx.reserve (c : Ctx) (a : Access) (lat : Nat) : Act Ctx :=
  match a.dest with
  | .none | .operand => .ok c
  | .reg r =>
    if 16 ≤ (c.inFlight.filter (fun r => r.awaiting.isSome)).length then .error (.wait .loads)
    else c.addResult { eng := .A, dest := .a r, value := 0, due := if c.exposed .A then c.now .A + lat else 0,
                       awaiting := some a.id }
  | .lq q =>
    if 8 ≤ c.lq[q.toNat].length then .error (.wait (.lq q.toNat 0))
    else
      let e : QEntry := { data := 0, len := a.len, pending := true, filler := some a.id }
      .ok { c with lq := c.lq.set q.toNat (c.lq[q.toNat] ++ [e]) q.isLt }

/-- The pending releases that an access carries: those on an object that it updates, in a stream that they cover (R101, R176). -/
def State.carried (s : State) (c : Ctx) (a : Access) : List PendRel :=
  c.rels.filter (fun r => s.updatesObject c.peer a r.obj && r.mask.getLsbD a.stream.toNat)

/-- The outstanding operations that an access waits for besides the earlier ones of its stream: those that its instruction names, and
those that the releases which it carries cover. -/
def State.waitedFor (s : State) (c : Ctx) (a : Access) : List Nat := a.after ++ (s.carried c a).flatMap (·.covers)

/-- An access as it is handed to memory: numbered, with its place in the program and in the issue order, after the engine commands of
its stream that read what it writes (R95), behind what its release covers (R101), and with the objects that its bytes are bound to
(R100). -/
def State.numbered (s : State) (c : Ctx) (a : Access) : Access :=
  { a with id := c.nextId, line := c.ea.pc.toNat, lane := c.ea.lane, word := c.ea.word, issued := s.nextStamp,
           after := (if a.kind.writes then c.earlierReads a.stream a.spans else []) ++ s.waitedFor c a,
           bound := if a.kind.writes then s.objectsAt c.peer a.spans else [] }

/-- A context that an access has been counted in: its number, its counter with the declared completion of determinate mode (R169,
R170), from the cycle of issue or from a later one that the operation waits for, and without the releases that it carries. -/
def State.counted (s : State) (c : Ctx) (a : Access) (ctr : Option Counter) (lat : Nat) (base : Nat := 0) : Ctx :=
  let due := Nat.max (c.detCyc + 1) base + lat
  { c with nextId := c.nextId + 1, rels := c.rels.filter (fun r => !(s.carried c a).contains r),
           outs := (match ctr with
             | some k => c.outs ++ [{ id := c.nextId, ctr := k, due := if s.determinate c then some due else none, stream := a.stream,
                                      bound := if a.kind.writes then s.objectsAt c.peer a.spans else [],
                                      remote := a.spans.any (·.peer.isSome) }]
             | none => c.outs) }

/-- An access joins those of its context, its token is pushed, and what nothing holds goes out. -/
def State.joinAccess (s : State) (t : Tok) (c : Ctx) (a : Access) : State :=
  ({ s with nextStamp := s.nextStamp + 1 }.setCtx ({ c with accs := c.accs ++ [a] }.postNow .A t)).pump s.cur.loom s.cur.ev

/-- The channel that a line of memory-side or LPDDR memory belongs to, or the home slice of a cached line, as one number (R375). -/
def Span.serving (sp : Span) : Nat :=
  if inHbm sp.pa && !sp.attrs.getLsbD attrMS then 1024 + sliceOf sp.pa else if offChip sp.pa then channelOf sp.pa else 2048

/-- A source holds at most 64 requests unanswered at one channel or slice (R375). -/
def Ctx.channelRoom (c : Ctx) (sps : List Span) : Act Unit :=
  check (sps.all (fun sp => !offChip sp.pa || Nat.blt
    (c.accs.filter (fun a => a.undone.any (fun x => offChip x.pa && x.serving == sp.serving))).length 64)) (.wait .channel)

/-- Hands an access to memory (R156, R169, R375): fences hold it, its counter, its channels and register loads have room, it follows the
earlier accesses of its stream to the same words, and it carries the releases pending on the object that it updates. -/
def State.issueAccess (s : State) (t : Tok) (c : Ctx) (a : Access) (ctr : Option Counter) (lat : Nat) (base : Nat := 0) : Act State := do
  c.fenceFree a.stream
  match ctr with
  | some k => c.counterRoom k
  | none => pure ()
  c.channelRoom a.spans
  let d ← (s.counted c a ctr lat base).reserve (s.numbered c a) lat
  return s.joinAccess t d (s.numbered c a)

/-- An A-engine instruction that hands something to memory or an engine: its tokens, then its own effect. -/
def State.command (s : State) (t : Tok) (f : Ctx → Act State) : Host.Outcome State Fault Refusal :=
  s.done (do
    let c ← s.ctx.tokens .A t
    f c)

/-- The spans of one run of bytes from a place of the moving context. -/
def State.run (s : State) (c : Ctx) (op : MemOp) (maj off : Nat) (a : W64) (len : Nat) : Act (List Span) :=
  s.checkRun s.cur.who s.cur.loom c.peer op maj off a len

/-- The greatest declared latency of an access's parts (R158, R170). -/
def State.latencyOf (s : State) (c : Ctx) (a : W64) (sps : List Span) : Nat :=
  (sps.map (fun sp => s.latency c.peer sp a)).foldl Nat.max 0

/-- LDA (R157). -/
def execLda (t : Tok) (reg base : BitVec 6) (st : BitVec 4) (off : BitVec 8) (s : State) :=
  s.command t (fun c => do
    let b ← c.rdA base
    let ea := effAddr b off 8
    check (ea.toNat % 8 == 0) (faultOf 4 1 ea.toNat)
    let sps ← s.run c .load 0x1A 0 ea 8
    s.issueAccess t c { id := 0, kind := .load, stream := st, spans := sps, dest := .reg reg, len := 8 } (some .ldc)
      (s.latencyOf c ea sps))

/-- STA (R157): the data register is read in the issue cycle. -/
def execSta (t : Tok) (reg base : BitVec 6) (st : BitVec 4) (off : BitVec 8) (s : State) :=
  s.command t (fun c => do
    let b ← c.rdA base
    let x ← c.rdA reg
    let ea := effAddr b off 8
    check (ea.toNat % 8 == 0) (faultOf 4 1 ea.toNat)
    let sps ← s.run c .store 0x1B 0 ea 8
    let mc := (place ea).elim false (fun p => match p with | .multicast _ => true | _ => false)
    s.issueAccess t c { id := 0, kind := .store (leBytes 8 x.toNat) mc, stream := st, spans := sps, dest := .none,
                        len := 8 } (some .stc) (s.latencyOf c ea sps))

/-- Whether an address names the multicast window. -/
def isMulticast (a : W64) : Bool := a.extractLsb' 60 4 == 3

/-- The load queue or store queue that a reg field names. -/
def lqField (q : BitVec 6) : BitVec 2 := q.setWidth 2
/-- The store queue. -/
def sqField (q : BitVec 6) : BitVec 1 := q.setWidth 1

/-- Pops the head of a store queue, which must be present and filled (R33, R160). -/
def Ctx.popSq (c : Ctx) (q : BitVec 1) : Act (Ctx × QEntry) :=
  match c.sq[q.toNat] with
  | [] => .error (.wait (.sq q.toNat))
  | e :: r => if e.pending then .error (.wait (.sq q.toNat)) else .ok ({ c with sq := c.sq.set q.toNat r q.isLt }, e)

/-- The bytes of a queue entry, zero beyond its length (R160). -/
def QEntry.bytes (e : QEntry) (n : Nat) : List Byte := leBytes n (e.data.toNat % 2 ^ (8 * e.len))

/-- LDQ (R160). -/
def execLdq (t : Tok) (q base : BitVec 6) (st : BitVec 4) (off : BitVec 8) (s : State) :=
  s.command t (fun c => do
    let b ← c.rdA base
    let n ← lenOf (← c.rdLen base)
    let ea := effAddr b off 32
    check (ea.toNat % 4 == 0) (faultOf 4 1 ea.toNat)
    check (n % 4 == 0) (faultOf 4 4 ea.toNat n)
    let sps ← s.run c .load 0x1C 0 ea n
    s.issueAccess t c { id := 0, kind := .load, stream := st, spans := sps, dest := .lq (lqField q), len := n } (some .ldc)
      (s.latencyOf c ea sps))

/-- STQ (R160). It waits for its store-queue entry before it makes its checks (DESIGN CHOICE, log 145). -/
def execStq (t : Tok) (q base : BitVec 6) (st : BitVec 4) (off : BitVec 8) (s : State) :=
  s.command t (fun c => do
    let b ← c.rdA base
    let n ← lenOf (← c.rdLen base)
    let (c, e) ← c.popSq (sqField q)
    let ea := effAddr b off 32
    check (ea.toNat % 4 == 0) (faultOf 4 1 ea.toNat)
    check (n % 4 == 0) (faultOf 4 4 ea.toNat n)
    let sps ← s.run c .store 0x1E 0 ea n
    s.issueAccess t c { id := 0, kind := .store (e.bytes n) (isMulticast ea), stream := st, spans := sps, dest := .none,
                        len := n } (some .stc) (s.latencyOf c ea sps))

/-- The rows of a 2-D access as runs (R161). -/
def rowRuns (ea : W64) (pitch : Int) (rows bytes : Nat) : List (Nat × W64 × Nat) :=
  (List.range rows).map (fun k => (k * bytes, addOffset ea ((k : Int) * pitch), bytes))

/-- The checks of a 2-D access (R161, R416): ENTRY, then alignment and multiples, then the union of its rows. -/
def State.run2d (s : State) (c : Ctx) (op : MemOp) (maj : Nat) (ea pitch : W64) (rows bytes : Nat) : Act (List Span) := do
  check (Nat.ble (rows * bytes) 2048) (faultOf 5 5 0 (rows * bytes))
  check (ea.toNat % 4 == 0) (faultOf 4 1 ea.toNat)
  check (pitch.toNat % 4 == 0) (faultOf 4 4 ea.toNat pitch.toNat)
  check (bytes % 4 == 0) (faultOf 4 4 ea.toNat bytes)
  s.checkRuns s.cur.who s.cur.loom c.peer op maj (rowRuns ea pitch.toInt rows bytes)

/-- LDQ.2D (R161). -/
def execLdq2d (t : Tok) (q base : BitVec 6) (st : BitVec 4) (off : BitVec 8) (rows : BitVec 6) (rowBytes : BitVec 11)
    (s : State) :=
  s.command t (fun c => do
    let b ← c.rdA base
    let p ← c.rdLen base
    let ea := effAddr b off 32
    let n := (rows.toNat + 1) * (rowBytes.toNat + 1)
    let sps ← s.run2d c .load 0x1D ea p (rows.toNat + 1) (rowBytes.toNat + 1)
    s.issueAccess t c { id := 0, kind := .load, stream := st, spans := sps, dest := .lq (lqField q), len := n } (some .ldc)
      (s.latencyOf c ea sps))

/-- STQ.2D (R161). -/
def execStq2d (t : Tok) (q base : BitVec 6) (st : BitVec 4) (off : BitVec 8) (rows : BitVec 6) (rowBytes : BitVec 11)
    (s : State) :=
  s.command t (fun c => do
    let b ← c.rdA base
    let p ← c.rdLen base
    let (c, e) ← c.popSq (sqField q)
    let ea := effAddr b off 32
    let n := (rows.toNat + 1) * (rowBytes.toNat + 1)
    let sps ← s.run2d c .store 0x1F ea p (rows.toNat + 1) (rowBytes.toNat + 1)
    s.issueAccess t c { id := 0, kind := .store (e.bytes n) (isMulticast ea), stream := st, spans := sps, dest := .none,
                        len := n } (some .stc) (s.latencyOf c ea sps))

/-- The element addresses of a gather or scatter (R162): none for the index that skips. An index of which the entry holds only some bytes
is missing (DESIGN CHOICE, log 146). -/
def elementRuns (idx : QEntry) (ea : W64) (shift w n : Nat) : List (Nat × W64 × Nat) :=
  let x := leNat (idx.bytes 2048)
  (List.range n).filterMap (fun i =>
    let j : W32 := if 4 * i + 4 ≤ idx.len then BitVec.ofNat 32 (x / 2 ^ (32 * i)) else 0x80000000
    if j = 0x80000000 then none else some (w * i, addOffset ea (j.toInt * 2 ^ shift), w))

/-- The checks of a gather or scatter: LEN to the element size, each element to its size, then the places. -/
def State.runElements (s : State) (c : Ctx) (op : MemOp) (maj : Nat) (ea : W64) (n w : Nat)
    (runs : List (Nat × W64 × Nat)) : Act (List Span) := do
  runs.forM (fun r => check (r.2.1.toNat % w == 0) (faultOf 4 1 r.2.1.toNat))
  check (n % w == 0) (faultOf 4 4 ea.toNat n)
  s.checkRuns s.cur.who s.cur.loom c.peer op maj runs

/-- GATHQ (R162). -/
def execGathq (t : Tok) (q base : BitVec 6) (st : BitVec 4) (off : BitVec 8) (esz : BitVec 2) (isq : BitVec 1)
    (shift : BitVec 5) (s : State) :=
  s.command t (fun c => do
    let b ← c.rdA base
    let n ← lenOf (← c.rdLen base)
    let (c, ix) ← c.popSq isq
    let ea := effAddr b off 8
    let w := 2 ^ esz.toNat
    let runs := elementRuns ix ea shift.toNat w (n / w)
    let sps ← s.runElements c .load 0x20 ea n w runs
    s.issueAccess t c { id := 0, kind := .load, stream := st, spans := sps, dest := .lq (lqField q), len := n } (some .ldc)
      (s.latencyOf c ea sps))

/-- SCATQ (R162): the index entry is popped first. -/
def execScatq (t : Tok) (q base : BitVec 6) (st : BitVec 4) (off : BitVec 8) (esz : BitVec 2) (isq : BitVec 1)
    (shift : BitVec 5) (s : State) :=
  s.command t (fun c => do
    let b ← c.rdA base
    let n ← lenOf (← c.rdLen base)
    let (c, ix) ← c.popSq isq
    let (c, e) ← c.popSq (sqField q)
    let ea := effAddr b off 8
    let w := 2 ^ esz.toNat
    let runs := elementRuns ix ea shift.toNat w (n / w)
    let sps ← s.runElements c .store 0x21 ea n w runs
    s.issueAccess t c { id := 0, kind := .store (e.bytes n) (isMulticast ea), stream := st, spans := sps, dest := .none,
                        len := n } (some .stc) (s.latencyOf c ea sps))

/-- PREF (R163): fills the loom's L1 where the hint and the page ask for it; anything that would fault or suspend makes it
have no effect. -/
def execPref (t : Tok) (hint base : BitVec 6) (st : BitVec 4) (off : BitVec 8) (s : State) :=
  s.command t (fun c => do
    let b ← c.rdA base
    c.fenceFree st
    let ea := effAddr b off 128
    let s := s.setCtx (c.postNow .A t)
    match place ea with
    | some (.virt va) =>
      match s.translate s.cur.who c.peer va with
      | .error (.wait w) => .error (.wait w)
      | .error (.fault _) => return s.dropWalks s.cur.loom s.cur.ev
      | .ok e =>
        let va := va / 128 * 128
        let sp : Span := { pa := e.pa + (va - e.va), va := va, len := 128, off := 0, attrs := e.attrs }
        let clean := !s.suspended sp.pa && (s.meetLine sp.pa va sp.attrs false (s.readMask sp.attrs ⟨sp.pa, va, 0, 128⟩)).2.isNone
        return if hint = 0 && clean then s.l1Fill s.cur.loom sp else s
    | _ => return s)

/-! ## Atomics (R164, R165) -/

/-- The value that an atomic leaves (R165). -/
def AtomicOp.apply (op : AtomicOp) (v o : W64) : W64 :=
  match op with
  | .add | .faaC => v + o
  | .and => v &&& o
  | .or => v ||| o
  | .xor => v ^^^ o
  | .min => if v.slt o then v else o
  | .max => if v.slt o then o else v
  | .minu => if v.ult o then v else o
  | .maxu => if v.ult o then o else v
  | .swap => o
  | .cas new => if v = o then new else v

/-- Whether an atomic writes: a CAS whose comparison fails does not (R165). -/
def AtomicOp.stores (op : AtomicOp) (v o : W64) : Bool :=
  match op with
  | .cas _ => v == o
  | _ => true

/-- The shared course of the atomics: the address is read, checked for straddle, and the access issues, counted in LDC with a
return and in STC without. -/
def State.atomic (s : State) (t : Tok) (ra : Option (BitVec 6)) (rb : BitVec 6) (st : BitVec 4) (maj : Nat) (op : AtomicOp)
    (ao : BitVec 6) (an : Option (BitVec 6) := none) : Host.Outcome State Fault Refusal :=
  s.command t (fun c => do
    let a ← c.rdA rb
    let o ← c.rdA ao
    let new ← c.rdA (an.getD 0)
    let op := if an.isSome then AtomicOp.cas new else op
    check (a.toNat % 8 == 0) (faultOf 4 2 a.toNat)
    let sps ← s.run c (if maj = 0x25 then .faa else .atomic) maj 0 a 8
    s.issueAccess t c { id := 0, kind := .atomic op o, stream := st, spans := sps, len := 8,
                        dest := (match ra with | some r => .reg r | none => .none) }
      (some (if ra.isSome then .ldc else .stc)) (s.latencyOf c a sps))

/-- AMO.ADD. -/
def execAmoAdd (t : Tok) (ra rb : BitVec 6) (st : BitVec 4) (ao : BitVec 6) (s : State) := s.atomic t (some ra) rb st 0x23 .add ao
/-- AMO.ADD.N. -/
def execAmoAddN (t : Tok) (rb : BitVec 6) (st : BitVec 4) (ao : BitVec 6) (s : State) := s.atomic t none rb st 0x23 .add ao
/-- AMO.AND. -/
def execAmoAnd (t : Tok) (ra rb : BitVec 6) (st : BitVec 4) (ao : BitVec 6) (s : State) := s.atomic t (some ra) rb st 0x23 .and ao
/-- AMO.AND.N. -/
def execAmoAndN (t : Tok) (rb : BitVec 6) (st : BitVec 4) (ao : BitVec 6) (s : State) := s.atomic t none rb st 0x23 .and ao
/-- AMO.OR. -/
def execAmoOr (t : Tok) (ra rb : BitVec 6) (st : BitVec 4) (ao : BitVec 6) (s : State) := s.atomic t (some ra) rb st 0x23 .or ao
/-- AMO.OR.N. -/
def execAmoOrN (t : Tok) (rb : BitVec 6) (st : BitVec 4) (ao : BitVec 6) (s : State) := s.atomic t none rb st 0x23 .or ao
/-- AMO.XOR. -/
def execAmoXor (t : Tok) (ra rb : BitVec 6) (st : BitVec 4) (ao : BitVec 6) (s : State) := s.atomic t (some ra) rb st 0x23 .xor ao
/-- AMO.XOR.N. -/
def execAmoXorN (t : Tok) (rb : BitVec 6) (st : BitVec 4) (ao : BitVec 6) (s : State) := s.atomic t none rb st 0x23 .xor ao
/-- AMO.MIN. -/
def execAmoMin (t : Tok) (ra rb : BitVec 6) (st : BitVec 4) (ao : BitVec 6) (s : State) := s.atomic t (some ra) rb st 0x23 .min ao
/-- AMO.MIN.N. -/
def execAmoMinN (t : Tok) (rb : BitVec 6) (st : BitVec 4) (ao : BitVec 6) (s : State) := s.atomic t none rb st 0x23 .min ao
/-- AMO.MAX. -/
def execAmoMax (t : Tok) (ra rb : BitVec 6) (st : BitVec 4) (ao : BitVec 6) (s : State) := s.atomic t (some ra) rb st 0x23 .max ao
/-- AMO.MAX.N. -/
def execAmoMaxN (t : Tok) (rb : BitVec 6) (st : BitVec 4) (ao : BitVec 6) (s : State) := s.atomic t none rb st 0x23 .max ao
/-- AMO.MINU. -/
def execAmoMinu (t : Tok) (ra rb : BitVec 6) (st : BitVec 4) (ao : BitVec 6) (s : State) := s.atomic t (some ra) rb st 0x23 .minu ao
/-- AMO.MINU.N. -/
def execAmoMinuN (t : Tok) (rb : BitVec 6) (st : BitVec 4) (ao : BitVec 6) (s : State) := s.atomic t none rb st 0x23 .minu ao
/-- AMO.MAXU. -/
def execAmoMaxu (t : Tok) (ra rb : BitVec 6) (st : BitVec 4) (ao : BitVec 6) (s : State) := s.atomic t (some ra) rb st 0x23 .maxu ao
/-- AMO.MAXU.N. -/
def execAmoMaxuN (t : Tok) (rb : BitVec 6) (st : BitVec 4) (ao : BitVec 6) (s : State) := s.atomic t none rb st 0x23 .maxu ao
/-- AMO.SWAP. -/
def execAmoSwap (t : Tok) (ra rb : BitVec 6) (st : BitVec 4) (ao : BitVec 6) (s : State) := s.atomic t (some ra) rb st 0x23 .swap ao
/-- AMO.SWAP.N. -/
def execAmoSwapN (t : Tok) (rb : BitVec 6) (st : BitVec 4) (ao : BitVec 6) (s : State) := s.atomic t none rb st 0x23 .swap ao
/-- CAS: the new value is read at issue too. -/
def execCas (t : Tok) (ra rb : BitVec 6) (st : BitVec 4) (ac an : BitVec 6) (s : State) :=
  s.atomic t (some ra) rb st 0x24 (.cas 0) ac (some an)
/-- FAA.C (R111, R165). -/
def execFaaC (t : Tok) (ra rb : BitVec 6) (st : BitVec 4) (ao : BitVec 6) (s : State) := s.atomic t (some ra) rb st 0x25 .faaC ao

end Sys2Proof.Machine
end

