-- ==== Sys2Proof/Machine/Arrivals.lean ====
section
/-!
DEFINITION. What stages hold: their parameters, their arrival queues and spill rings (R259 to R262, R403, R404), and their
weight versions (R271 to R273, R406).
-/

namespace Sys2Proof.Machine

/-! ## Replies to the host (R301) -/

/-- A reply of a class, on the endpoint of the request: code and peer ID, request ID, status, zeros, then the data (DEDUCED,
log 82). -/
def State.reply (s : State) (peer cls code : Nat) (req : HostReq) (status : Nat) (data : List Byte := []) : State :=
  s.sendMessage peer req.endpoint cls (leBytes 2 code ++ leBytes 2 peer ++ leBytes 4 req.id.toNat ++ leBytes 2 status ++ leBytes 6 0 ++ data)

/-! ## Stage parameters (R282) -/

/-- A parameter of a stage in the resident plane. -/
def Partition.param (p : Partition) (panel stage off n : Nat) : Nat := planeLE p.plane (stageBlock panel stage + 0x1A0 + off) n

/-- Whether a partition has a stage (R259). -/
def Partition.hasStage (p : Partition) (panel stage : Nat) : Bool := Nat.blt panel 8 && p.panels.getLsbD panel && Nat.blt stage 5

/-- The stage word of R395. -/
def stageWord (panel stage q : Nat) : Nat := q * 65536 + panel * 256 + stage

/-- The unit of a Treadle (R336). -/
def treadleUnit (panel : Nat) : Nat := 6 * 512 + panel

/-- A unit record of a stage's Treadle. -/
def State.treadleRecord (s : State) (peer panel cause d0 d1 : Nat) : State :=
  s.unitRecord peer (treadleUnit panel) { cls := 0x21, cause := cause, d0 := d0, d1 := d1, precise := false }

/-- Cancels the open launches of a stage with a record of LEVEL 1 (R394, R404). -/
def State.stageRecord (s : State) (peer panel stage unit : Nat) (f : FaultInfo) : State :=
  match s.part? peer with
  | none => s
  | some p =>
    match p.launches.find? (fun l => l.panel == panel && l.stage == stage && (s.counter p l.counter).state == 0) with
    | none => (s.writeRecord peer f { unit := unit }).1
    | some l =>
      ((s.writeRecord peer f { unit := unit, level := 1, cindex := l.counter }).1).cancelCounter peer 6 l.counter

/-! ## Queues and spill rings (R261, R262) -/

/-- Entries of a ring. -/
def Ring.count (r : Ring) : Nat := r.tail - r.head

/-- Entries that wait in a queue, counting spilled ones. -/
def Stage.depth (st : Stage) (q : Fin 4) : Nat := st.queues[q].length + st.rings[q].count

/-- The ring that a queue uses: the one of the resident plane as soon as the old one is empty (R285). -/
def Partition.ringFor (p : Partition) (panel stage : Nat) (q : Fin 4) (r : Ring) : Ring :=
  let base := p.param panel stage (8 * q.val) 8
  let len := p.param panel stage (0x20 + 4 * q.val) 4
  if r.count = 0 ∧ (r.base ≠ base ∨ r.len ≠ len) then { r with base := base, len := len, head := 0, tail := 0 } else r

/-- The 16 bytes of a spill record (R262). -/
def Arrival.bytes (a : Arrival) : List Byte :=
  leBytes 4 a.tag.toNat ++ leBytes 1 a.queue ++ leBytes 1 a.source ++ leBytes 2 0 ++ leBytes 8 a.payload.toNat

/-- The arrival of a spill record. -/
def Arrival.ofBytes (bs : List Byte) : Arrival :=
  { tag := BitVec.ofNat 32 (leNat (bs.take 4)), queue := leNat ((bs.drop 4).take 1), source := leNat ((bs.drop 5).take 1),
    payload := BitVec.ofNat 64 (leNat ((bs.drop 8).take 8)) }

/-- The virtual address of a ring's record. -/
def Ring.at (r : Ring) (i : Nat) : Nat := r.base + 16 * (i % r.len)

/-- Fences a queue whose spill ring does not translate (R404). -/
def State.fenceQueue (s : State) (peer panel stage : Nat) (q : Fin 4) (r : Ring) (va : Nat) : State :=
  let st := s.stage panel stage
  (s.setStage panel stage { st with rings := st.rings.set q { r with fenced := true } }).treadleRecord peer panel 2
    (stageWord panel stage q.val) va

/-- The place of a spill record, for a read or a write. -/
def State.spillPlace (s : State) (p : Partition) (va : Nat) (write : Bool) : Option Span :=
  match s.translateNow p va with
  | some (pa, at') =>
    if write ∧ !at'.getLsbD attrW then none else some { pa := pa, va := va, len := 16, off := 0, attrs := at' }
  | none => none

/-- Puts an arrival at the end of its queue, on chip or in the spill ring; false when the queue is full or fenced and the arrival
must be held (R262, R403, R404). A record that memory refuses to take for another reason is lost as R404 gives. -/
def State.enqueue (s : State) (peer panel stage : Nat) (a : Arrival) : State × Bool :=
  match s.part? peer with
  | none => (s, true)
  | some p =>
    let q : Fin 4 := Fin.ofNat 4 a.queue
    let st := s.stage panel stage
    let r := p.ringFor panel stage q st.rings[q]
    if r.fenced then (s, false)
    else if r.count = 0 ∧ st.queues[q].length < 64 then
      (s.setStage panel stage { st with queues := st.queues.set q (st.queues[q] ++ [a]), due := true,
                                        fullNoted := st.fullNoted.set q false }, true)
    else if r.len ≤ r.count then
      if st.fullNoted[q] then (s, false)
      else
        ((s.setStage panel stage { st with fullNoted := st.fullNoted.set q true }).treadleRecord peer panel 1
          (stageWord panel stage q.val) r.len, false)
    else
      let va := r.at r.tail
      match s.spillPlace p va true with
      | none => (s.fenceQueue peer panel stage q r va, false)
      | some sp =>
        match s.writeSpan sp a.bytes with
        | (s, some _) =>
          (s.stageRecord peer panel stage (treadleUnit panel)
            { cls := 0x21, cause := 3, d0 := stageWord panel stage q.val, d1 := va, precise := false }, true)
        | (s, none) =>
          (s.setStage panel stage { st with rings := st.rings.set q { r with tail := r.tail + 1 }, due := true,
                                            fullNoted := st.fullNoted.set q false }, true)

/-- Posts an arrival, behind those of its queue that are held; an arrival for which there is no room is held at its source. The
answer is whether it has been posted. -/
def State.postArrival (s : State) (peer panel stage : Nat) (a : Arrival) (src : Origin) : State × Bool :=
  let q : Fin 4 := Fin.ofNat 4 a.queue
  let hold (s : State) : State :=
    let st := s.stage panel stage
    s.setStage panel stage { st with heldArr := st.heldArr.set q (st.heldArr[q] ++ [⟨a, src⟩]) }
  if (s.stage panel stage).heldArr[q] ≠ [] then (hold s, false)
  else
    match s.enqueue peer panel stage a with
    | (s, true) => (s, true)
    | (s, false) => (hold s, false)

/-- Whether an arrival of the queue could be posted at once (R403). -/
def State.queueRoom (s : State) (peer panel stage : Nat) (q : Fin 4) : Bool :=
  match s.part? peer with
  | none => true
  | some p =>
    let st := s.stage panel stage
    let r := p.ringFor panel stage q st.rings[q]
    st.heldArr[q] == [] && !r.fenced && ((r.count == 0 && Nat.blt st.queues[q].length 64) || Nat.blt r.count r.len)

/-- The partition of a panel. -/
def State.ownerOf (s : State) (panel : Nat) : Option Nat := (s.panel panel).owner

/-- Whether the gang of a loom is at a pick boundary. -/
def State.atBoundary (s : State) (loom : Nat) : Bool :=
  !(((s.panel (panelOf loom)).owner.bind s.part?).any (fun p => p.picks.any (fun k => k.started && k.looms.contains loom)))

/-- Whether a loom moves to full service now, before its gang's next pick or its next evaluation starts (R325). -/
def State.moveDue (s : State) (loom : Nat) : Bool :=
  let q := s.panel (panelOf loom)
  Nat.blt loom 320 && q.service == .early && q.calibrated && !q.moved.contains loom && s.atBoundary loom
    && (s.ctxAt loom true).act == .idle

/-- SPILL_RETURN (R262, R404): the oldest record of a ring comes back on chip, unless its page does not translate or it has been
lost (DEDUCED, log 66) (DEDUCED, log 68). -/
def State.spillReturn (s : State) (panel stage : Nat) (q : Fin 4) : Option State :=
  (s.ownerOf panel).bind (fun peer => (s.part? peer).bind (fun p =>
    let st := s.stage panel stage
    let r := st.rings[q]
    if r.count = 0 ∨ r.fenced ∨ 56 < st.queues[q].length then none
    else
      let va := r.at r.head
      match s.spillPlace p va false with
      | none => some (s.fenceQueue peer panel stage q r va)
      | some sp =>
        let r' := { r with head := r.head + 1 }
        match s.readSpan sp with
        | (s, _, some _) =>
          let s := s.setStage panel stage { st with rings := st.rings.set q r' }
          some (s.stageRecord peer panel stage (treadleUnit panel)
            { cls := 0x21, cause := 3, d0 := stageWord panel stage q.val, d1 := va, precise := false })
        | (s, bs, none) =>
          some (s.setStage panel stage { st with rings := st.rings.set q r',
                                                 queues := st.queues.set q (st.queues[q] ++ [Arrival.ofBytes bs]) })))

/-- SPILL_RETURN. -/
def execSpillReturn (panel stage queue : Nat) (s : State) := s.event (s.spillReturn panel stage (Fin.ofNat 4 queue))

/-- SPILL_FENCE_RETRY (R404): the walk is tried again, and the fence lifts if it succeeds. -/
def State.spillFenceRetry (s : State) (panel stage : Nat) (q : Fin 4) : Option State :=
  (s.ownerOf panel).bind (fun peer => (s.part? peer).bind (fun p =>
    let st := s.stage panel stage
    let r := st.rings[q]
    if !r.fenced then none
    else
      let ok := (s.spillPlace p (r.at r.tail) true).isSome && (r.count == 0 || (s.spillPlace p (r.at r.head) false).isSome)
      some (if ok then s.setStage panel stage { st with rings := st.rings.set q { r with fenced := false } } else s)))

/-- SPILL_FENCE_RETRY. -/
def execSpillFenceRetry (panel stage queue : Nat) (s : State) :=
  s.event (s.spillFenceRetry panel stage (Fin.ofNat 4 queue))

/-! ## Operands of arrivals (R183, R275) -/

/-- The arrival that an operand describes: panel, stage, and the arrival from a source. -/
def arrivalOf (o : W64) (source : Nat) : Nat × Nat × Arrival :=
  ((o.extractLsb' 48 3).toNat, (o.extractLsb' 32 8).toNat,
    { tag := o.extractLsb' 0 32, queue := (o.extractLsb' 44 2).toNat, source := source })

/-- Whether an operand of TRD.ARRIVE has its reserved bits zero and names a stage of the partition (R275). -/
def Partition.arrivalOk (p : Partition) (o : W64) : Bool :=
  o.extractLsb' 51 13 == 0 && o.extractLsb' 46 2 == 0 && o.extractLsb' 40 4 == 0
  && p.hasStage (o.extractLsb' 48 3).toNat (o.extractLsb' 32 8).toNat

/-- An arrival waits at issue (R403): the queue that cannot take it is recorded as full, or fenced, when it first is. -/
def State.arrivalWaits (s : State) (peer : Nat) (o : W64) : State :=
  let (panel, stage, a) := arrivalOf o 1
  let q : Fin 4 := Fin.ofNat 4 a.queue
  if (s.stage panel stage).heldArr[q] ≠ [] then s
  else
    match s.enqueue peer panel stage a with
    | (_, true) => s
    | (s, false) => s

/-! ## Versions and pins (R271 to R273) -/

/-- The slot that is CURRENT. -/
def Stage.current (st : Stage) : Option (Fin 4) := (List.finRange 4).find? (fun i => st.slots[i].state == 1)

/-- WVER of a slot (R28). -/
def Stage.wver (st : Stage) (i : Fin 4) : W64 := BitVec.ofNat 64 (st.slots[i].version.toNat * 65536 + i.val)

/-- The slot that a tag is pinned to. -/
def Stage.pinOf (st : Stage) (tag : W32) : Option Nat := (st.pins.find? (·.1 == tag)).map (·.2)

/-- Pins a tag to the current version: the state after it and the WVER; none when no version is current, the tag is pinned already
or the pin map is full. -/
def Stage.pin (st : Stage) (tag : W32) : Option (Stage × W64) :=
  match st.current with
  | none => none
  | some i =>
    if (st.pinOf tag).isSome ∨ 64 ≤ st.pins.length then none
    else
      let v := st.slots[i]
      some ({ st with pins := st.pins ++ [(tag, i.val)], slots := st.slots.set i { v with pins := v.pins + 1 }, due := true },
        st.wver i)

/-- Publishes a version into the lowest FREE slot (R273). -/
def Stage.publish (st : Stage) (version : W32) : Option (Stage × W64) :=
  match (List.finRange 4).find? (fun i => st.slots[i].state == 0) with
  | none => none
  | some i =>
    let retire (v : VersionSlot) : VersionSlot :=
      if v.state = 1 then { v with state := if v.pins = 0 then 0 else 2 } else v
    let st := { st with slots := (st.slots.map retire).set i { state := 1, version := version, pins := 0, seenBy := some [] }, due := true }
    some (st, st.wver i)

end Sys2Proof.Machine
end

