-- ==== Sys2Proof/Machine/Bobbin.lean ====
section
/-!
DEFINITION. Bobbins: handles, arming at the controllers, reading, disarming, and carrying out the actions of firings
(R172, R182 to R187, R261, R403, R418).
-/

namespace Sys2Proof.Machine

/-! ## Handles (R172) -/

/-- The key of a bobbin: its kind, unit and index, as a handle names them. -/
def bobbinKey (bolt : Bool) (unit idx : Nat) : Nat := (if bolt then 65536 else 0) + 256 * unit + idx
/-- Whether a key names a bolt bobbin. -/
def keyBolt (k : Nat) : Bool := Nat.ble 65536 k
/-- The stack or bolt of a key. -/
def keyUnit (k : Nat) : Nat := k % 65536 / 256
/-- The unit that detects a bobbin's faults (R418). -/
def bobbinUnit (k : Nat) : Nat := if keyBolt k then 14 * 512 + keyUnit k else 4 * 512 + keyUnit k
/-- The key that a handle names. -/
def handleKey (h : W64) : Nat := bobbinKey (h.getLsbD 16) (h.extractLsb' 8 6).toNat (h.extractLsb' 0 8).toNat
/-- The peer that a handle names. -/
def handlePeer (h : W64) : Nat := (h.extractLsb' 48 12).toNat
/-- The handle of a bobbin. -/
def handleOf (peer : Nat) (gen : BitVec 16) (k : Nat) : W64 :=
  BitVec.ofNat 64 (15 * 2 ^ 60 + peer * 2 ^ 48 + gen.toNat * 2 ^ 32 + k)

/-- The bobbin that a handle of a partition names, if its GEN matches (R186). -/
def State.bobbin? (s : State) (h : W64) : Option Bobbin :=
  let b := s.bobbin (handleKey h)
  if b.peer = handlePeer h ∧ b.gen = h.extractLsb' 32 16 then some b else none

/-- The word of BOB.READ (R186). -/
def Bobbin.word (b : Bobbin) : Nat :=
  b.state % 4 * 2 ^ 62 + (if b.overcount then 2 ^ 61 else 0) + (if b.rearm then 2 ^ 60 else 0) + b.fires.toNat * 2 ^ 48
    + b.count % 2 ^ 48

/-- What BOB.READ returns: a stale handle reads as zero. -/
def State.bobRead (s : State) (h : W64) : Nat := ((s.bobbin? h).map Bobbin.word).getD 0

/-- Discards the arrivals that a bobbin's firings hold at a Treadle. -/
def Stage.dropHeld (st : Stage) (k : Nat) : Stage :=
  { st with heldArr := st.heldArr.map (fun l => l.filter (fun h => h.src != .bobbin k)) }

/-- BOB.DISARM at the controller (R187): the bobbin is freed, its held actions are not posted, and its final COUNT is
returned. -/
def State.bobDisarm (s : State) (h : W64) : State × Nat :=
  match s.bobbin? h with
  | none => (s, 0)
  | some b =>
    let k := handleKey h
    let s := { s with stages := s.stages.map (fun (x : Nat × Stage) => (x.1, x.2.dropHeld k)) }
    (s.setBobbin k b.freed, b.count)

/-! ## Arming (R182 to R184) -/

/-- An arm descriptor (R182). -/
structure ArmDesc where
  region : W64
  length : Nat
  target : Nat
  action : Nat
  rearm : Bool
  operand : BitVec 61
  aremote : Bool
  reserved : Bool
  deriving DecidableEq, Repr

/-- A descriptor from its 32 bytes. -/
def ArmDesc.ofNat (x : Nat) : ArmDesc :=
  let f (lo n : Nat) : Nat := (x / 2 ^ lo) % 2 ^ n
  { region := BitVec.ofNat 64 x, length := f 64 48, target := f 128 48, action := f 176 4, rearm := x.testBit 180,
    operand := BitVec.ofNat 61 (x / 2 ^ 192), aremote := x.testBit 253,
    reserved := f 112 16 == 0 && f 181 11 == 0 && f 254 2 == 0 }

/-- Where a region lies (R182): 0 space 0x0, 1 space 0x2, 2 space 0x4; none for another space. -/
def ArmDesc.space (d : ArmDesc) : Option Nat :=
  match (d.region.extractLsb' 60 4).toNat with
  | 0 => some 0 | 2 => some 1 | 4 => some 2 | _ => none

/-- The checks of a descriptor that need neither its region's pages nor its operand's units: those of the first three steps of
R184. -/
def ArmDesc.early (d : ArmDesc) : Act Unit := do
  check (d.region.toNat % 128 == 0) (faultOf 4 1 d.region.toNat)
  check (d.length % 128 == 0) (faultOf 4 4 d.region.toNat d.length)
  check d.space.isSome (faultOf 2 3 d.region.toNat 0x2E)

/-- The ARM fault, with the region base (DEDUCED, log 72). -/
def armFault (d : ArmDesc) : FaultInfo := { cls := 9, cause := 3, d1 := d.region.toNat }

/-- Whether the fields of a descriptor hold together, whatever partition it is for (R182 to R184). -/
def ArmDesc.fieldsOk (d : ArmDesc) : Bool :=
  d.reserved && d.length != 0 && d.target != 0 && Nat.ble d.action 2 && (d.aremote == (d.space == some 2))
  && (match d.space with
    | some 0 => d.region.extractLsb' 48 12 == 0 && Nat.ble (d.region.toNat % 2 ^ 48 + d.length) (2 ^ 48)
    | some 1 => d.region.extractLsb' 23 37 == 0 && Nat.ble (d.region.toNat % 2 ^ 23 + d.length) (2 ^ 23)
    | _ => Nat.ble (d.region.toNat % 2 ^ 48 + d.length) (2 ^ 48))

/-- Whether every page of a run of virtual addresses translates, by walks at once. -/
def State.mapped (s : State) (p : Partition) : (fuel va len : Nat) → Bool
  | 0, _, _ => true
  | fuel + 1, va, len =>
    if len = 0 then true
    else
      let n := Nat.min len (65536 - va % 65536)
      (s.translateNow p va).isSome && s.mapped p fuel (va + n) (len - n)

/-- Whether a virtual address is that of a barrier of the partition: a memory-side page holds it (R179). -/
def State.mappedBarrier (s : State) (p : Partition) (va : Nat) : Bool := (s.translateNow p va).any (fun x => x.2.getLsbD attrMS)

/-- Whether an operand is well formed and names what the partition has (R183); the addresses of a stack bobbin's operand are in space
0x0, and their pages must translate when it is armed (DEDUCED, log 139). -/
def State.operandOk (s : State) (d : ArmDesc) (p : Partition) : Bool :=
  let bolt := d.space == some 1
  let o := d.operand
  let at' := (o.extractLsb' 0 48).toNat
  match d.action with
  | 0 => o.extractLsb' 48 13 == 0 && at' % 32 == 0 && (if bolt then Nat.ble (at' + 32) (2 ^ 23) else s.mappedBarrier p at')
  | 1 =>
    let unit := (o.extractLsb' 48 6).toNat
    let n := (o.extractLsb' 56 5).toNat + 1
    o.extractLsb' 54 2 == 0
    && (if bolt then unit == 0 && Nat.ble (at' + 64 * n) (2 ^ 23)
        else Nat.blt unit 40 && p.panels.getLsbD (unit / 5) && Nat.ble (at' + 64 * n) (2 ^ 48) && s.mapped p 3 at' (64 * n))
  | _ =>
    o.extractLsb' 51 2 == 0 && o.extractLsb' 46 2 == 0 && o.extractLsb' 40 4 == 0
    && p.hasStage (o.extractLsb' 48 3).toNat (o.extractLsb' 32 8).toNat

/-- Physical runs joined where they touch. -/
def joinRuns : List (Nat × Nat) → List (Nat × Nat)
  | [] => []
  | (a, n) :: r =>
    match joinRuns r with
    | [] => [(a, n)]
    | (b, m) :: r' => if a + n = b then (a, n + m) :: r' else (a, n) :: (b, m) :: r'

/-- Arms a bobbin of a partition on the bytes of spans of its own memory (R184): the lowest free index of the controller of the
first line, with GEN advanced. -/
def State.armAt (s : State) (peer : Nat) (p : Partition) (d : ArmDesc) (bolt : Nat) (sps : List Span) : Except FaultInfo (State × W64) :=
  let bad := armFault d
  let onBolt := d.space == some 1
  let exts := joinRuns (sps.map (fun sp => (sp.pa, sp.len)))
  let first := (exts.headD (0, 0)).1
  let onePanel := exts.all (fun e => panelOfPa e.1 == panelOfPa first && panelOfPa (e.1 + e.2 - 1) == panelOfPa first)
  let clash := s.bobbins.any (fun x => x.2.state != 0 && rangesMeet x.2.extents exts)
  let unit := if onBolt then bolt else stackOf first
  let room := if onBolt then 64 else 256
  if !d.fieldsOk ∨ !s.operandOk d p ∨ (!onBolt ∧ (!onePanel ∨ 8 < exts.length)) ∨ clash then .error bad
  else
    match (List.range room).find? (fun i => (s.bobbin (bobbinKey onBolt unit i)).state == 0) with
    | none => .error bad
    | some i =>
      let k := bobbinKey onBolt unit i
      let gen := (s.bobbin k).gen + 1
      let b : Bobbin := { state := 1, gen := gen, peer := peer, regionVa := d.region.toNat, extents := exts, target := d.target,
                          action := d.action, operand := d.operand, rearm := d.rearm, counting := true }
      .ok (s.setBobbin k b, handleOf peer gen k)
where
  /-- Whether two lists of ranges share a byte. -/
  rangesMeet (xs ys : List (Nat × Nat)) : Bool := xs.any (fun x => ys.any (fun y => overlapLen x.1 x.2 y.1 y.2 != 0))

/-! ## Actions (R183, R185, R418) -/

/-- The action cannot be carried out: an ACTION unit record, and nothing else (R418). -/
def State.actionFails (s : State) (k reason : Nat) : State :=
  let b := s.bobbin k
  let s := s.unitRecord b.peer (bobbinUnit k)
    { cls := 0x13, cause := 5, d0 := (handleOf b.peer b.gen k).toNat, d1 := reason, precise := false }
  s.actionPosted k

/-- The barrier of an action: in the space of the region. -/
def State.actionBarrier (s : State) (p : Partition) (k : Nat) (o : BitVec 61) : Option Span :=
  let at' := (o.extractLsb' 0 48).toNat
  let sp (pa : Nat) (attrs : BitVec 8) : Span := { pa := pa, va := at', len := 32, off := 0, attrs := attrs }
  if keyBolt k then some (sp (boltPad (keyUnit k) at') 0)
  else (s.translateNow p at').bind (fun x => if x.2.getLsbD attrMS then some (sp x.1 x.2) else none)

/-- The bytes of an action's records; none if they cannot be read. -/
def State.actionRecords (s : State) (p : Partition) (k : Nat) (o : BitVec 61) : State × Option (List Byte) :=
  let n := 64 * ((o.extractLsb' 56 5).toNat + 1)
  let at' := (o.extractLsb' 0 48).toNat
  if keyBolt k then
    match s.readSpan { pa := boltPad (keyUnit k) at', va := at', len := n, off := 0 } with
    | (s, _, some _) => (s, none)
    | (s, bs, none) => (s, some bs)
  else
    let m := Nat.min n (65536 - at' % 65536)
    let part (va len : Nat) : Option (List Span) :=
      if len = 0 then some []
      else (s.translateNow p va).map (fun x => [{ pa := x.1, va := va, len := len, off := 0, attrs := x.2 }])
    match part at' m, part (at' + m) (n - m) with
    | some a, some b =>
      match s.readSpans (a ++ b) with
      | (s, _, some _) => (s, none)
      | (s, bs, none) => (s, some bs)
    | _, _ => (s, none)

/-- The task of record i of a batch whose first record takes a number (R238). -/
def taskOfRecord (peer first i : Nat) (handle : W64) (bs : List Byte) : Task :=
  let w (j : Nat) : W64 := BitVec.ofNat 64 (leNat ((bs.drop (64 * i + 8 * j)).take 8))
  let w0 := w 0
  let back := [(w0.extractLsb' 36 8).toNat, (w0.extractLsb' 28 8).toNat].filter (· != 0)
  { id := first + i, peer := peer, loom := (w0.extractLsb' 44 9).toNat, ev := w0.getLsbD 53, seq := w0.extractLsb' 12 16,
    w0 := w0, caddr := w 5, a := (w 1, w 2), b := (w 3, w 4), fmt := (w 7).extractLsb' 48 16, tile := 0, int := false,
    baraddr := w 6, predTasks := (back.filter (fun d => Nat.ble d i)).map (fun d => first + i - d), handle := some handle,
    checked := false, badPred := back.any (fun d => Nat.blt i d) || (w 7).extractLsb' 0 48 != 0 }

/-- Hands a batch to the scheduler of a bolt, in order. -/
def State.deliverTasks (s : State) (peer bolt : Nat) (handle : W64) (bs : List Byte) : State :=
  let bo := s.bolt bolt
  let ts := (List.range (bs.length / 64)).map (fun i => taskOfRecord peer bo.nextTask i handle bs)
  s.setBolt bolt { bo with recs := bo.recs ++ ts, nextTask := bo.nextTask + ts.length }

/-- Posts the oldest action that a bobbin holds (R183, R418). An arrival that its queue cannot take is held at the bobbin, and the
later firings behind it (R403); so is a batch for which the scheduler has no room (R248; DEDUCED, log 144). -/
def State.postAction (s : State) (k : Nat) : Option State :=
  let b := s.bobbin k
  let o := b.operand
  let waits := s.stages.any (fun x => x.2.heldArr.toList.any (fun l => l.any (fun h => h.src == .bobbin k)))
  match s.part? b.peer with
  | none => none
  | some p =>
    if b.held = 0 ∨ waits then none
    else
      match b.action with
      | 0 =>
        match s.actionBarrier p k o with
        | none => some (s.actionFails k 1)
        | some sp =>
          match s.meetBarrier sp with
          | (s, some _) => some (s.actionFails k 1)
          | (s, none) =>
            let r := s.barrier sp.pa
            if r.state ≠ 1 then some (s.actionFails k 1)
            else some ((s.updateBarrier sp { r with arrived := (r.arrived + 1) % 2 ^ 32 }).actionPosted k)
      | 1 =>
        let bolt := if keyBolt k then keyUnit k else (o.extractLsb' 48 6).toNat
        if 64 < (s.bolt bolt).recs.length + (o.extractLsb' 56 5).toNat + 1 then none
        else
          match s.actionRecords p k o with
          | (s, none) => some (s.actionFails k 2)
          | (s, some bs) => some ((s.deliverTasks b.peer bolt (handleOf b.peer b.gen k) bs).actionPosted k)
      | _ =>
        let (panel, stage, a) := arrivalOf (o.setWidth 64) 0
        if !p.hasStage panel stage then some (s.actionFails k 3)
        else
          let step : BitVec 61 := BitVec.ofNat 61 (((o.extractLsb' 53 8).toNat + a.tag.toNat) % 2 ^ 32)
          let s := s.setBobbin k { b with operand := (o &&& 0x1FFFFFFF00000000) ||| step }
          match s.postArrival b.peer panel stage { a with fired := some b.extents } (.bobbin k) with
          | (s, true) => some (s.actionPosted k)
          | (s, false) => some s

/-- BOBBIN_ACTION_POST. -/
def execBobbinActionPost (bobbin : Nat) (s : State) := s.event (s.postAction bobbin)

/-- Posts every action that can be posted: a firing and its action are one update of the bobbin (R185) (DEDUCED, log 71). -/
def State.postActions (s : State) : State :=
  s.bobbins.foldl (fun s x => (List.range x.2.held).foldl (fun s _ => (s.postAction x.1).getD s) s) s

/-- The source of a held arrival learns that it is posted. -/
def State.heldPosted (s : State) (src : Origin) : State :=
  match src with
  | .none => s
  | .bobbin k => s.actionPosted k
  | .eval head => { s with evals := s.evals.map (fun r => if r.head = head then { r with posting := false } else r) }

/-- HELD_ARRIVAL_POST (R403): the first held arrival of a queue is posted, if there is room for it (DEDUCED, log 69). -/
def State.heldArrivalPost (s : State) (panel stage : Nat) (q : Fin 4) : Option State :=
  (s.ownerOf panel).bind (fun peer =>
    match (s.stage panel stage).heldArr[q] with
    | [] => none
    | h :: r =>
      match s.enqueue peer panel stage h.arr with
      | (_, false) => none
      | (s, true) =>
        let st := s.stage panel stage
        some ((s.setStage panel stage { st with heldArr := st.heldArr.set q r }).heldPosted h.src))

/-- HELD_ARRIVAL_POST. -/
def execHeldArrivalPost (panel stage queue : Nat) (s : State) :=
  s.event (s.heldArrivalPost panel stage (Fin.ofNat 4 queue))

/-- A bobbin's state is found in error: it is freed with its GEN, and its action is not posted (R387). -/
def State.bobbinError (s : State) (k : Nat) : State :=
  let b := s.bobbin k
  if b.state = 0 then s
  else
    let s := { s with stages := s.stages.map (fun (x : Nat × Stage) => (x.1, x.2.dropHeld k)) }
    (s.setBobbin k b.freed).unitRecord b.peer (bobbinUnit k)
      { cls := 0x13, cause := 4, d0 := (handleOf b.peer b.gen k).toNat, precise := false }

end Sys2Proof.Machine
end

