-- ==== Sys2Proof/Machine/Cells.lean ====
section
/-!
DEFINITION. Cell states of lines: the suspension descriptor, writing a suspension over a region, and peeking (R68, R188, R189,
R193, R417).
-/

namespace Sys2Proof.Machine

/-- The fields of a suspension descriptor (R188). -/
structure SuspDesc where
  entry : W64
  arg : W64
  extent : Nat
  place : Nat
  sid : W32
  stage : Nat
  panel : Nat
  otag : W64
  owver : W64
  ogang : W64
  deriving DecidableEq, Repr

/-- The descriptor of a number. -/
def SuspDesc.ofNat (x : Nat) : SuspDesc :=
  let f (lo n : Nat) : Nat := (x / 2 ^ lo) % 2 ^ n
  { entry := BitVec.ofNat 64 x, arg := BitVec.ofNat 64 (x / 2 ^ 64), extent := f 128 48, place := f 176 2,
    sid := BitVec.ofNat 32 (x / 2 ^ 192), stage := f 224 8, panel := f 232 3, otag := BitVec.ofNat 64 (x / 2 ^ 256),
    owver := BitVec.ofNat 64 (x / 2 ^ 320), ogang := BitVec.ofNat 64 (x / 2 ^ 384) }

/-- Whether the reserved bits of the first 256 bits are zero. -/
def templateReserved (x : Nat) : Bool := (x / 2 ^ 178) % 2 ^ 14 == 0 && (x / 2 ^ 235) % 2 ^ 21 == 0

/-- Whether every reserved bit of a descriptor is zero. -/
def descReserved (x : Nat) : Bool := templateReserved x && (x / 2 ^ 576) == 0

/-- The suspension-store fault of a line (R110, R367). -/
def storeFault (s : State) (pa va : Nat) : FaultInfo :=
  memFault pa 18 1 va (va / 128 * 128) (s.line pa).cell.toNat

/-- Sets the cell state of a line. -/
def State.setCell (s : State) (pa : Nat) (cell : BitVec 2) : State := s.setLine pa { s.line pa with cell := cell }

/-- Writes and marks the lines of a suspension in ascending order, the head first, until one cannot be written; lines before it
stay marked (R189). -/
def State.markLines (s : State) (head : List Byte) (headVa : Nat) : List (Piece × BitVec 8) → State × Option FaultInfo
  | [] => (s, none)
  | (p, at') :: r =>
    if s.refusesStore p at' then (s, some (storeFault s p.pa p.va))
    else
      match s.meetLine p.pa p.va at' true 0 with
      | (s, some f) => (s, some f)
      | (s, none) =>
        let bs := if p.va = headVa then head else leBytes 8 headVa ++ List.replicate 120 0
        (((s.putPiece at' p bs).countWrite [(p.pa, p.len)]).setCell p.pa 1).markLines head headVa r

/-- The lines of spans. -/
def linesOf (sps : List Span) : List (Piece × BitVec 8) := sps.flatMap (fun sp => sp.pieces.map (fun p => (p, sp.attrs)))

/-- Takes the next SID of a partition, which skips 0 (DESIGN CHOICE, log 76). -/
def State.takeSid (s : State) (peer : Nat) : State × W32 :=
  match s.part? peer with
  | none => (s, 0)
  | some p =>
    let n : W32 := if p.sid + 1 = 0 then 1 else p.sid + 1
    (s.setPart peer { p with sid := n }, n)

/-- Performs SUSP.MK over the lines of its region: the SID returned, or a fault (R189). -/
def State.makeSuspension (s : State) (peer desc headVa : Nat) (sps : List Span) : State × Nat × Option FaultInfo :=
  let (s, sid) := s.takeSid peer
  let (s, f) := s.markLines (leBytes 128 (desc + sid.toNat * 2 ^ 192)) headVa (linesOf sps)
  (s, sid.toNat, f)

/-- The evaluation record that holds a line (DEDUCED, log 74). -/
def State.recordOf (s : State) (pa : Nat) : Option EvalRec := s.evals.find? (fun r => r.lines.contains (pa / 128) && !r.filled)

/-- The head of the region of a SUSPENDED line (R417): the line that its first 8 bytes name, if that is suspended too, else the line
itself. The answer is the physical and the virtual address. -/
def State.headOf (s : State) (p : Partition) (pa va : Nat) : Nat × Nat :=
  let line := pa / 128 * 128
  let named := Memory.readLE s.mem line 8
  match (if named % 128 = 0 ∧ named < 2 ^ 48 then s.translateNow p named else none) with
  | some (h, _) =>
    if h ≠ line ∧ inHbm h ∧ panelOfPa h = panelOfPa line ∧ s.suspended h then (h, named) else (line, va / 128 * 128)
  | none => (line, va / 128 * 128)

/-- What SUSP.PEEK returns for a line (R193). -/
def State.peekLine (s : State) (p : Partition) (sp : Span) : Nat :=
  if !inHbm sp.pa || !sp.attrs.getLsbD attrT then 0
  else
    let cell := (s.line sp.pa).cell.toNat
    let line := sp.pa / 128
    match s.recordOf sp.pa with
    | some r => if cell = 2 then r.sid.toNat * 2 ^ 32 + (if r.head / 128 = line then 4 else 0) + 2 else cell
    | none => (if cell = 1 ∧ (s.headOf p sp.pa sp.va).1 / 128 = line then 4 else 0) + cell

end Sys2Proof.Machine
end

