-- ==== Sys2Proof/Machine/Perform.lean ====
section
/-!
DEFINITION. The events by which accesses are performed: LOAD_RETURN, WRITE_ACK, MULTICAST_LAND and PAGE_WALK, and how an
access completes (R58, R65, R66, R94, R98, R158, R168, R169, R180, R181, R355).
-/

namespace Sys2Proof.Machine

/-! ## Completion -/

/-- An operation leaves its counter; in determinate mode it only counts as completed until its declared cycle (R169, R170). -/
def Ctx.completeOp (c : Ctx) (id : Nat) : Ctx :=
  { c with outs := (c.outs.map (fun o => if o.id = id then { o with completed := true } else o)).filter (fun o =>
      !(o.id == id && (match o.due with | none => true | some d => Nat.ble d c.detCyc))) }

/-- Fills the load-queue entry that waits for an access, whose length is the LEN of its load; a failed fill leaves zero data (R160, R214,
R355; DEDUCED, log 46). -/
def fillEntry (id : Nat) (v : VReg) (failed : Bool) (e : QEntry) : QEntry :=
  if e.filler = some id then { e with data := if failed then 0 else v, pending := false, filler := none, failed := failed } else e

/-- The data of a register load arrive. In scoreboard mode they are written at once while the context runs; in exposed mode,
or when the context has stopped, they wait as a result in flight (R158, R350). -/
def Ctx.arrive (c : Ctx) (id : Nat) (v : VReg) (failed : Bool) : Ctx :=
  match c.inFlight.find? (fun r => r.awaiting == some id) with
  | none => c
  | some r =>
    if r.due = 0 ∧ c.act = .running ∧ !failed then
      { c with inFlight := c.inFlight.filter (fun r => r.awaiting != some id) }.landOne { r with value := v, awaiting := none }
    else
      let keep (r : Result) : Result :=
        { r with value := v, awaiting := none, failed := failed,
                 due := if r.due = 0 then (c.eng r.eng).cyc + 1 else Nat.max r.due ((c.eng r.eng).cyc + 1) }
      { c with inFlight := c.inFlight.map (fun r => if r.awaiting = some id then keep r else r) }

/-- Delivers an access's data where they go, and takes it off those outstanding. -/
def Ctx.finish (c : Ctx) (a : Access) (v : VReg) (failed : Bool) : Ctx :=
  let c := match a.dest with
    | .none => c
    | .operand =>
      if failed then c else { c with operands := c.operands ++ [(a.obj.getD 0, leBytes a.len v.toNat)] }
    | .reg _ => c.arrive a.id v failed
    | .lq q => { c with lq := c.lq.set q.toNat (c.lq[q.toNat].map (fillEntry a.id v failed)) q.isLt }
  ({ c with accs := c.accs.filter (·.id != a.id) }).completeOp a.id

/-- The bytes of an object that a read of may return an update of it (R104): the 16 of a completion counter, else 8. -/
def objectLen (kind : Nat) : Nat := if kind = 3 then 16 else 8

/-- The objects that a read returned an update of, for later acquires (R104): those of the partition's bindings that the read
bytes meet; of a barrier also where it lies and its phase, which `v` holds. -/
def State.sawObjects (s : State) (c : Ctx) (a : Access) (v : Nat) : List Seen :=
  let mark (obj : Nat) : Seen := { obj := obj, stream := a.stream.toNat }
  match a.kind with
  | .barTest => [{ mark (ownAddr c.peer (a.obj.getD 0)) with bar := ((a.spans.head?).map (·.pa)).getD 0, phase := v % 2 ^ 32 }]
  | .bobRead _ => [mark (a.obj.getD 0)]
  | _ => ((s.bindingsOf c.peer).filter (fun b => a.spans.any (·.holds c.peer b.obj (objectLen b.kind)))).map (fun b => mark b.obj)

/-- Completes an access of a context. -/
def State.finishAccess (s : State) (loom : Nat) (ev : Bool) (a : Access) (v : Nat) (failed : Bool) : State :=
  let c := s.ctxAt loom ev
  let saw := if a.dest = .none ∨ failed then [] else s.sawObjects c a v
  let c := c.finish a (BitVec.ofNat 16384 v) failed
  let s := s.setCtxAt loom ev { c with
    seen := c.seen.filter (fun x => !saw.any (fun y => y.obj == x.obj && y.stream == x.stream)) ++ saw }
  let s := { s with waiters := s.waiters.filter (fun w => !(w.loom == loom && w.ev == ev && w.who == Loader.acc a.id)) }
  s.pump loom ev

/-- An access ends with a fault: it completes failed, and the fault is raised asynchronously (R355, R169). -/
def State.failAccess (s : State) (loom : Nat) (ev : Bool) (a : Access) (f : FaultInfo) : State :=
  let s := s.raiseAsync loom ev { f with line := a.line, lane := a.lane, stream := a.stream.toNat }
  s.finishAccess loom ev a 0 true

/-- Replaces an access of a context. -/
def State.putAccess (s : State) (loom : Nat) (ev : Bool) (a : Access) : State :=
  let c := s.ctxAt loom ev
  s.setCtxAt loom ev { c with accs := c.accs.map (fun b => if b.id = a.id then a else b) }

/-- The bytes of an access gathered so far, as one number: each run at its place, zero elsewhere. -/
def gather (got : List (Nat × List Byte)) : Nat := (got.map (fun g => leNat g.2 * 2 ^ (8 * g.1))).sum

/-- Whether every span of an access is done. -/
def Access.complete (a : Access) : Bool := (List.range a.spans.length).all (fun i => a.done.contains i)

/-! ## Spans at the issuing partition's own peer ID (R167) -/

/-- The fault that a reply's STATUS raises (R378, R401). -/
def statusFault (status va : Nat) : FaultInfo :=
  let (cls, cause) := match status with
    | 1 => (3, 1) | 2 => (3, 7) | 3 => (2, 3) | 4 => (0x12, 1) | 5 => (0x10, 1) | _ => (0x20, 6)
  { cls := cls, cause := cause, addr := va, precise := false, remote := true, status := status, src := 4 }

/-- The pages of a run of a peer address as this partition's tables give them, or the STATUS of a refusal (R167, R290). -/
def State.peerSpans (s : State) (p : Partition) (op : MemOp) (off : Nat) : (fuel va len : Nat) → Except Nat (List Span)
  | 0, _, _ => .ok []
  | fuel + 1, va, len =>
    if len = 0 then .ok []
    else
      match s.translateNow p va with
      | none => .error 1
      | some (pa, at') =>
        if op.needsW ∧ !at'.getLsbD attrW then .error 2
        else if !op.inPage at' ∨ (op.writes ∧ (p.counterAt pa (Nat.min len (65536 - va % 65536))).isSome) then .error 3
        else
          let n := Nat.min len (65536 - va % 65536)
          match s.peerSpans p op (off + n) fuel (va + n) (len - n) with
          | .error e => .error e
          | .ok r => .ok ({ pa := pa, va := va, len := n, off := off, attrs := at' } :: r)

/-- The physical spans of one span of a context's access, or the fault that its own peer ID gives. -/
def State.localSpans (s : State) (c : Ctx) (op : MemOp) (sp : Span) : Except FaultInfo (List Span) :=
  match sp.peer, s.part? c.peer with
  | some _, some p =>
    match s.peerSpans p op sp.off (sp.len / 65536 + 2) sp.va sp.len with
    | .ok r => .ok r
    | .error e => .error (statusFault e sp.va)
  | _, _ => .ok [sp]

/-- Whether any line of spans is SUSPENDED or EVALUATING (R110). -/
def State.meetsSuspension (s : State) (sps : List Span) : Bool :=
  sps.any (fun sp => sp.pieces.any (fun p => s.meetsCell p sp.attrs))

/-! ## Performing -/

/-- The operation of an access. -/
def AccKind.op : AccKind → MemOp
  | .load => .load
  | .store .. | .relSt _ => .store
  | .atomic .. => .atomic
  | _ => .object

/-- The spans of an access, with their places, that are performed here and are not done. -/
def Access.localDue (a : Access) (peer : Nat) : List (Nat × Span) :=
  (a.spans.zipIdx.filter (fun x => !x.1.remote peer && !a.done.contains x.2)).map (fun x => (x.2, x.1))

/-- Reads the local spans of a load, from the L1 where asked and possible. -/
def State.loadSpans (s : State) (loom : Nat) (c : Ctx) (fromL1 : Bool) :
    List (Nat × Span) → State × List (Nat × List Byte) × List Nat × Option FaultInfo
  | [] => (s, [], [], none)
  | (i, sp) :: r =>
    match s.localSpans c .load sp with
    | .error f => (s, [], [], some f)
    | .ok sps =>
      let hit := if fromL1 then s.l1Read loom sp else none
      let (s, bs, f) := match hit with
        | some bs => (s, bs, none)
        | none => s.readSpans sps
      match f with
      | some f => (s, [], [], some f)
      | none =>
        let s := if hit.isSome then s else sps.foldl (fun s x => s.l1Fill loom x) s
        let (s, got, dn, f) := s.loadSpans loom c fromL1 r
        (s, (sp.off, bs) :: got, i :: dn, f)

/-- Performs an atomic on its word: the old value and the state after it, or a fault (R165). -/
def State.atomicAt (s : State) (loom : Nat) (sp : Span) (op : AtomicOp) (o : W64) (who : Option (Nat × Bool) := none) :
    State × Nat × Option FaultInfo :=
  match s.readSpan sp with
  | (s, _, some f) => (s, 0, some f)
  | (s, bs, none) =>
    let v : W64 := BitVec.ofNat 64 (leNat bs)
    if op.stores v o then
      match s.writeSpan { sp with off := 0 } (leBytes 8 (op.apply v o).toNat) who with
      | (s, some f) => (s, 0, some f)
      | (s, none) => (s.l1Update loom sp, v.toNat, none)
    else (s, v.toNat, none)

/-- A fault of a barrier form that meets a barrier that is not ready (R179, R367). -/
def barrierFault (va : Nat) (b : Barrier) : FaultInfo :=
  { cls := 0x13, cause := 1, addr := va, d0 := va, d1 := b.toNat % 2 ^ 64, precise := false, src := 4 }

/-- Whether any context is held by a BAR.WAIT on a barrier (R181). -/
def State.parked (s : State) (pa : Nat) : Bool :=
  s.looms.any (fun l => (l.2.pick.barWait.any (·.1 == pa)) || (l.2.ev.barWait.any (·.1 == pa)))

/-- The phase that an arrival belongs to (R181), from the barrier before it. -/
def Barrier.arrivalPhase (b : Barrier) : Nat :=
  if b.narrive = 0 then b.phase else (b.phase + b.arrived / b.narrive) % 2 ^ 32

/-- Performs a barrier form on a barrier whose line can be read (R179, R181): the value returned, or a fault. -/
def State.barrierForm (s : State) (sp : Span) (k : AccKind) : State × Nat × Option FaultInfo :=
  let b := s.barrier sp.pa
  match k with
  | .barInit narrive nbase =>
    if 2 ≤ b.state then (s, 0, some (barrierFault sp.va b))
    else if s.parked sp.pa then
      (s, 0, some { cls := 9, cause := 4, d1 := sp.va, precise := false, src := 4 })
    else
      ({ s with tally := s.tally.filter (·.bar != sp.pa) }.setBarrier sp
        { phase := 0, narrive := narrive, arrived := 0, nbase := nbase, nbytes := nbase, bytes := 0,
          cflags := 0, lflags := 0, overcount := false, timedout := false, state := 1 }, 0, none)
  | _ =>
    if b.state ≠ 1 then (s, 0, some (barrierFault sp.va b))
    else
      match k with
      | .barExpect n => (s.updateBarrier sp { b with nbytes := (b.nbytes + n) % 2 ^ 48 }, 0, none)
      | .barArrive => (s.updateBarrier sp { b with arrived := (b.arrived + 1) % 2 ^ 32 }, b.arrivalPhase, none)
      | .barTest => (s, b.arrived * 2 ^ 32 + b.phase, none)
      | .barFlags =>
        (s, b.phase * 2 ^ 32 + (if b.timedout then 128 else 0) + (if b.overcount then 64 else 0) + b.lflags, none)
      | _ => (s, 0, none)

/-- Performs a barrier form on the barrier. -/
def State.barrierAt (s : State) (sp : Span) (k : AccKind) : State × Nat × Option FaultInfo :=
  match s.meetBarrier sp with
  | (s, some f) => (s, 0, some f)
  | (s, none) => s.barrierForm sp k

/-- Performs a one-span access of a context that is not a plain load or store. -/
def State.objectAt (s : State) (loom : Nat) (ev : Bool) (sp : Span) (k : AccKind) : State × Nat × Option FaultInfo :=
  match k with
  | .atomic op o => s.atomicAt loom sp op o (some (loom, ev))
  | _ => s.barrierAt sp k

/-- Performs the spans of a store that lie here, in order: the runs of bytes written, and the places of the spans. -/
def State.storeSpans (s : State) (loom : Nat) (c : Ctx) (op : MemOp) (data : List Byte) :
    List (Nat × Span) → State × List (Nat × Nat) × List Nat × Option FaultInfo
  | [] => (s, [], [], none)
  | (i, sp) :: r =>
    match s.localSpans c op sp with
    | .error f => (s, [], [], some f)
    | .ok sps =>
      match s.writeRuns data sps with
      | (s, runs, some f) => (s, runs, [], some f)
      | (s, runs, none) =>
        let s := sps.foldl (fun s x => s.l1Update loom x) s
        let (s, more, dn, f) := s.storeSpans loom c op data r
        (s, runs ++ more, i :: dn, f)

/-- The data that a store writes. -/
def AccKind.data : AccKind → List Byte
  | .store bs _ => bs
  | .relSt v => leBytes 8 v.toNat
  | _ => []

/-- Whether an access stores into the multicast window. -/
def AccKind.multicast : AccKind → Bool
  | .store _ mc => mc
  | _ => false

/-- Whether an access is at most one step from being performed: nothing that it follows as a whole is outstanding, no suspension
holds it, and no switch has it. -/
def State.performable (s : State) (loom : Nat) (ev : Bool) (c : Ctx) (a : Access) : Bool :=
  !c.waitsOn a.after
  && !s.waiters.any (fun w => w.loom == loom && w.ev == ev && w.who == Loader.acc a.id)
  && !s.inSwitch loom ev a

/-- The accesses of a bolt's contexts, each with its loom and context. -/
def State.boltAccs (s : State) (bolt : Nat) : List (Nat × Bool × Access) :=
  (List.range 8).flatMap (fun i =>
    let l := s.loom (8 * bolt + i)
    l.pick.accs.map (fun a => (8 * bolt + i, false, a)) ++ l.ev.accs.map (fun a => (8 * bolt + i, true, a)))

/-- Whether the port of a bolt to a stack lets a span go (R319): no access that left before it has still to arrive there. A loader
that waits has arrived, and what goes through a combining switch takes another way (DEDUCED, log 147). -/
def State.portFree (s : State) (bolt : Nat) (left : Option Nat) (sp : Span) : Bool :=
  sp.peer.isSome || !sp.attrs.getLsbD attrMS || !(s.boltAccs bolt).any (fun x =>
    x.2.2.ordered && !x.2.2.combined && x.2.2.left.any (fun t => left.all (fun u => Nat.blt t u))
    && !s.waiters.any (fun w => w.loom == x.1 && w.ev == x.2.1 && w.who == Loader.acc x.2.2.id)
    && x.2.2.undone.any (fun y => y.peer.isNone && y.attrs.getLsbD attrMS && stackOf y.pa == stackOf sp.pa))

/-- The offset of a span in the loom scratchpad that it lies in; none for another place. -/
def Span.padOffset (sp : Span) : Option Nat :=
  if sp.peer.isNone && Nat.ble (2 ^ 43) sp.pa && Nat.blt sp.pa (2 ^ 44) then some ((sp.pa - 2 ^ 43) % 2 ^ 20) else none

/-- Whether two spans share an offset of a loom scratchpad, whichever loom's. -/
def padsMeet (xs ys : List Span) : Bool :=
  xs.any (fun x => ys.any (fun y => match x.padOffset, y.padOffset with
    | some a, some b => overlapLen a x.len b y.len != 0
    | _, _ => false))

/-- Whether an access reads. -/
def AccKind.reads : AccKind → Bool
  | .load | .atomic .. => true
  | _ => false

/-- Whether no multicast store of the bolt that was issued before a load of the same offset has still to land (R109). -/
def State.windowFree (s : State) (loom : Nat) (a : Access) (sp : Span) : Bool :=
  !a.kind.reads || sp.padOffset.isNone || !(s.boltAccs (boltOf loom)).any (fun x =>
    x.2.2.kind.multicast && Nat.blt x.2.2.issued a.issued && padsMeet x.2.2.undone [sp]
    && !(s.ctxAt x.1 x.2.1).waitsOn x.2.2.after)

/-- The spans of an access, with their places, that may be performed here now. -/
def State.dueHere (s : State) (loom : Nat) (c : Ctx) (a : Access) : List (Nat × Span) :=
  (a.localDue c.peer).filter (fun x =>
    c.spanFree a x.2 && (!a.ordered || a.combined || s.portFree (boltOf loom) a.left x.2) && s.windowFree loom a x.2)

/-- The physical spans of an access that may be performed here now. -/
def State.spansHere (s : State) (loom : Nat) (c : Ctx) (a : Access) : List Span :=
  (s.dueHere loom c a).flatMap (fun x => match s.localSpans c a.kind.op x.2 with | .ok r => r | .error _ => [])

/-- The bytes of a span from one place in it to another. -/
def Span.part (sp : Span) (lo hi : Nat) : Span :=
  { sp with pa := if sp.peer.isSome then sp.pa else sp.pa + lo, va := sp.va + lo, off := sp.off + lo, len := hi - lo }

/-- Takes the k-th memory word of some spans of an access out of its span, as an access of its own (R98): the access with the span
cut, and the word's place. -/
def Access.wordOf (a : Access) : (due : List (Nat × Span)) → (k : Nat) → Option (Access × List (Nat × Span))
  | [], _ => none
  | (i, sp) :: r, k =>
    let at' := (if sp.peer.isSome then sp.va else sp.pa) % 8
    let n := (at' + sp.len + 7) / 8
    if k < n then
      let lo := if k = 0 then 0 else 8 * k - at'
      let hi := Nat.min sp.len (8 * (k + 1) - at')
      let rest := [sp.part 0 lo, sp.part hi sp.len].filter (fun x => x.len != 0)
      some ({ a with spans := a.spans.set i (sp.part lo hi) ++ rest }, [(i, sp.part lo hi)])
    else a.wordOf r (k - n)

/-- What an event performs of an access: every span that may be performed for part 0, else one memory word of them (R98). -/
def Access.chosen (a : Access) (due : List (Nat × Span)) (part : Nat) : Option (Access × List (Nat × Span)) :=
  if part = 0 then some (a, due) else a.wordOf due (part - 1)

/-- Whether an access is performed by its unit as a whole, not span by span. -/
def AccKind.ownReturn : AccKind → Bool
  | .suspMk .. | .peek => true
  | _ => false

/-- The return of a value that a unit of this device gives: one known at issue, or a bobbin's state or final COUNT (R173, R187). An
access of no bytes returns at once. -/
def State.unitReturn (s : State) (loom : Nat) (ev : Bool) (a : Access) : Option State :=
  match a.kind with
  | .value v => some (s.finishAccess loom ev a v.toNat false)
  | .bobRead h => some (s.finishAccess loom ev a (s.bobRead h) false)
  | .bobDisarm h =>
    let (s, n) := s.bobDisarm h
    some (s.finishAccess loom ev a n false)
  | .load => some (s.finishAccess loom ev a 0 false)
  | .suspMk desc head =>
    match s.makeSuspension (s.ctxAt loom ev).peer desc head a.spans with
    | (s, _, some f) => some (s.failAccess loom ev a f)
    | (s, sid, none) => some (s.finishAccess loom ev a sid false)
  | .peek =>
    match s.part? (s.ctxAt loom ev).peer, a.spans with
    | some p, [sp] =>
      match s.localSpans (s.ctxAt loom ev) .load sp with
      | .ok (x :: _) => some (s.finishAccess loom ev a (s.peekLine p x) false)
      | .ok [] => none
      | .error f => some (s.failAccess loom ev a f)
    | _, _ => none
  | _ => none

/-- LOAD_RETURN (R98, R158, R165): what lies here of an access that returns data is performed, all of it or one word; the access
completes when every part has come. A line that is SUSPENDED or EVALUATING makes it a loader instead (R110) (DESIGN CHOICE, log 7). -/
def State.loadReturn (s : State) (loom : Nat) (ev : Bool) (id : Nat) (fromL1 : Bool) (part : Nat) : Option State :=
  let c := s.ctxAt loom ev
  (c.accs.find? (·.id == id)).bind (fun a =>
    if a.dest ≠ .none ∧ s.performable loom ev c a ∧ (a.spans = [] ∨ a.kind.ownReturn) ∧ a.spans.all (fun sp => !sp.remote c.peer) then
      s.unitReturn loom ev a
    else if a.dest = .none ∨ !s.performable loom ev c a ∨ (s.dueHere loom c a).isEmpty ∨ s.meetsSuspension (s.spansHere loom c a) then none
    else
      match a.kind with
      | .load =>
        (a.chosen (s.dueHere loom c a) part).map (fun x =>
          let (s, got, dn, f) := s.loadSpans loom c fromL1 x.2
          match f with
          | some f => s.failAccess loom ev a f
          | none =>
            let a := { x.1 with got := a.got ++ got, done := a.done ++ dn }
            if a.complete then s.finishAccess loom ev a (gather a.got) false else (s.putAccess loom ev a).pump loom ev)
      | k =>
        match a.spans with
        | [sp] =>
          match s.localSpans c k.op sp with
          | .error f => some (s.failAccess loom ev a f)
          | .ok sps =>
            let (s, v, f) := s.objectAt loom ev (sps.headD sp) k
            match f with
            | some f => some (s.failAccess loom ev a f)
            | none => some (s.finishAccess loom ev a v false)
        | _ => none)

/-- LOAD_RETURN. -/
def execLoadReturn (loom : Nat) (ev : Bool) (acc : AccPart) (fromL1 : Bool) (s : State) :=
  s.event (s.loadReturn loom ev acc.acc fromL1 acc.part)

/-- The end of an event that has performed spans of a store: bobbins count the write once all of it that lies here is performed
(R185), and it leaves its counter when every part is performed. -/
def State.stored (s : State) (loom : Nat) (ev : Bool) (a : Access) : State :=
  let due := a.localDue (s.ctxAt loom ev).peer
  let s := if due.isEmpty then s.countWrite a.wrote (some (loom, ev)) else s
  let a := if due.isEmpty then { a with wrote := [] } else a
  if a.complete then s.finishAccess loom ev a 0 false else (s.putAccess loom ev a).pump loom ev

/-- WRITE_ACK (R94, R98): what lies here of a store, an atomic without return, REL.ST or a barrier form without return is performed,
all of it or one word. -/
def State.writeAck (s : State) (loom : Nat) (ev : Bool) (id : Nat) (part : Nat) : Option State :=
  let c := s.ctxAt loom ev
  (c.accs.find? (·.id == id)).bind (fun a =>
    if a.dest ≠ .none ∨ a.kind.multicast ∨ !s.performable loom ev c a then none
    else if a.spans = [] then some (s.finishAccess loom ev a 0 false)
    else if (s.dueHere loom c a).isEmpty then none
    else
      match a.kind with
      | .store .. | .relSt _ =>
        (a.chosen (s.dueHere loom c a) part).map (fun x =>
          let (s, runs, dn, f) := s.storeSpans loom c .store a.kind.data x.2
          match f with
          | some f => (s.countWrite (a.wrote ++ runs) (some (loom, ev))).failAccess loom ev a f
          | none => s.stored loom ev { x.1 with done := a.done ++ dn, wrote := a.wrote ++ runs })
      | k =>
        if s.meetsSuspension (s.spansHere loom c a) then none
        else
          match a.spans with
          | [sp] =>
            match s.localSpans c k.op sp with
            | .error f => some (s.failAccess loom ev a f)
            | .ok sps =>
              let (s, _, f) := s.objectAt loom ev (sps.headD sp) k
              match f with
              | some f => some (s.failAccess loom ev a f)
              | none => some (s.finishAccess loom ev a 0 false)
          | _ => none)

/-- WRITE_ACK. -/
def execWriteAck (loom : Nat) (ev : Bool) (acc : AccPart) (s : State) := s.event (s.writeAck loom ev acc.acc acc.part)

/-- The same span in the scratchpads of all eight looms of a bolt (R57). -/
def mcSpans (loom : Nat) (sp : Span) : List Span :=
  (List.range 8).map (fun k => { sp with pa := sp.pa - loomPad loom 0 + loomPad (8 * boltOf loom + k) 0 })

/-- Whether two spans use a common bank of one loom scratchpad (R55). -/
def banksMeet (x y : Span) : Bool :=
  match x.padOffset, y.padOffset with
  | some a, some b =>
    x.pa / 2 ^ 20 == y.pa / 2 ^ 20 && (List.range (Nat.min 8 (x.len / 128 + 2))).any (fun i => (List.range (Nat.min 8 (y.len / 128 + 2))).any (fun j =>
      (a / 128 + i) % 8 == (b / 128 + j) % 8 && Nat.blt (128 * (a / 128 + i)) (a + x.len) && Nat.blt (128 * (b / 128 + j)) (b + y.len)))
  | _, _ => false

/-- Whether a bank conflict may delay a load (R56, R109): another access of its loom, or a copy of it that runs, uses a bank of its. -/
def State.bankConflict (s : State) (loom : Nat) (ev : Bool) (a : Access) : Bool :=
  let l := s.loom loom
  let meets (sps : List Span) : Bool := sps.any (fun x => a.spans.any (fun y => banksMeet x y))
  [(l.pick, false), (l.ev, true)].any (fun c =>
    c.1.accs.any (fun b => (b.id != a.id || c.2 != ev) && !b.kind.multicast && meets b.undone)
    || (c.1.copyLoad ++ c.1.copyStore).any (fun k => k.started && (meets k.src || meets k.dst)))

/-- Whether nothing comes before the landing of a multicast store (R57, R109): the multicast stores of its bolt land in the order of
their issue, and a load that was issued before the store and that no bank conflict delays reads its bank first (DEDUCED, log 148). -/
def State.landable (s : State) (loom : Nat) (a : Access) : Bool :=
  !(s.boltAccs (boltOf loom)).any (fun x =>
    Nat.blt x.2.2.issued a.issued && !(s.ctxAt x.1 x.2.1).waitsOn x.2.2.after
    && (x.2.2.kind.multicast
        || (x.2.2.kind.reads && padsMeet x.2.2.undone a.spans && !s.bankConflict x.1 x.2.1 x.2.2)))

/-- MULTICAST_LAND (R57): the store is written into the same offset of all eight scratchpads at once. -/
def State.multicastLand (s : State) (loom : Nat) (ev : Bool) (id : Nat) : Option State :=
  let c := s.ctxAt loom ev
  (c.accs.find? (·.id == id)).bind (fun a =>
    if !a.kind.multicast ∨ !s.performable loom ev c a ∨ !s.landable loom a ∨ !a.spans.all (fun sp => c.spanFree a sp) then none
    else
      let (s, f) := s.writeSpans a.kind.data (a.spans.flatMap (mcSpans loom)) (some (loom, ev))
      match f with
      | some f => some (s.failAccess loom ev a f)
      | none => some (s.finishAccess loom ev a 0 false))

/-- MULTICAST_LAND. -/
def execMulticastLand (loom : Nat) (ev : Bool) (acc : Nat) (s : State) := s.event (s.multicastLand loom ev acc)

/-! ## Walks (R65, R66) -/

/-- Starts a walk of a page for those who wait for it. -/
def State.startWalk (s : State) (panel peer page : Nat) (who : List Who) : State :=
  match s.part? peer with
  | none => s
  | some p =>
    let pn := s.panel panel
    let k : Walk := { id := pn.nextWalk, peer := peer, page := page, who := who, level := 0, table := p.level0 }
    s.setPanel panel { pn with walks := pn.walks ++ [k], nextWalk := pn.nextWalk + 1 }

/-- Asks for a walk: a unit joins the walk of its page if one is in progress or waits, starts one if fewer than 64 are in progress, or
waits in order of arrival. -/
def State.requestWalk (s : State) (panel : Nat) (w : Who) (peer va : Nat) : State :=
  let pn := s.panel panel
  if pn.walks.any (fun k => k.peer == peer && k.page == pageOf va) then
    s.setPanel panel { pn with walks := pn.walks.map (fun k =>
      if k.peer = peer ∧ k.page = pageOf va ∧ w ∉ k.who then { k with who := k.who ++ [w] } else k) }
  else if pn.walkQ.any (fun x => x.1 == (peer, pageOf va)) then
    s.setPanel panel { pn with walkQ := pn.walkQ.map (fun x =>
      if x.1 = (peer, pageOf va) ∧ w ∉ x.2 then (x.1, x.2 ++ [w]) else x) }
  else if pn.walks.length < 64 then s.startWalk panel peer (pageOf va) [w]
  else s.setPanel panel { pn with walkQ := pn.walkQ ++ [((peer, pageOf va), [w])] }

/-- The miss that has waited longest starts its walk when one of the 64 is free. -/
def State.nextWalks (s : State) (panel : Nat) : State :=
  let pn := s.panel panel
  match pn.walkQ with
  | (k, who) :: r => if pn.walks.length < 64 then (s.setPanel panel { pn with walkQ := r }).startWalk panel k.1 k.2 who else s
  | [] => s

/-- A translation buffer takes an entry; a full one gives up its oldest (R65: the choice shows nowhere). -/
def Bolt.insert (b : Bolt) (t : TlbEntry) : Bolt :=
  { b with tlb := (if 4096 ≤ b.tlb.length then b.tlb.drop 1 else b.tlb) ++ [t] }

/-- PAGE_WALK (R66, R377): the walk reads the entry of the level that it has reached, and goes on, or ends with a leaf for every
buffer that waits, or with its own fault for every access that waits. A bad table line is poisoned (R370). -/
def State.pageWalk (s : State) (panel walk : Nat) : Option State :=
  let pn := s.panel panel
  (pn.walks.find? (·.id == walk)).bind (fun k =>
    (s.part? k.peer).map (fun p =>
      let va := k.page * 65536
      let done := (s.setPanel panel { pn with walks := pn.walks.filter (·.id != walk) }).nextWalks panel
      match s.walkLevel p va k.level k.table with
      | .next t =>
        s.setPanel panel { pn with walks := pn.walks.map (fun x =>
          if x.id = walk then { x with level := k.level + 1, table := t } else x) }
      | .leaf size pa at' =>
        let e : TlbEntry := { peer := k.peer, va := va / size * size, size := size, pa := pa, attrs := at' }
        let bolts := (k.who.map Who.bolt).eraseDups
        bolts.foldl (fun s b => s.setBolt b ((s.bolt b).insert e)) done
      | .bad cause entry =>
        let s := if cause = 8 ∧ (s.line (entryPa k.table k.level va)).damage ≠ .none then
            done.meetError (entryPa k.table k.level va) else done
        k.who.foldl (fun s (w : Who) =>
          let b := s.bolt w.bolt
          s.setBolt w.bolt { b with badWalks := b.badWalks ++
            [{ who := w, peer := k.peer, page := k.page, cause := cause, level := k.level, entry := entry }] }) s))

/-- PAGE_WALK. -/
def execPageWalk (panel walk : Nat) (s : State) := s.event (s.pageWalk panel walk)

end Sys2Proof.Machine
end

