-- ==== Sys2Proof/Machine/Sync.lean ====
section
/-!
DEFINITION. Fences, acquire and release, bound regions, WAIT.C and the barriers (R97, R100 to R104, R171, R172 to R181).
-/

namespace Sys2Proof.Machine

/-! ## Fences (R97, R174) -/

/-- Puts a fence in force over the streams of a mask. -/
def Ctx.fence (c : Ctx) (mask : BitVec 16) : Ctx :=
  let ids := (c.accs.filter (fun a => mask.getLsbD a.stream.toNat)).map (·.id)
  { c with fences := c.fences.filter (fun f => c.waitsOn f.ids) ++ (if ids.isEmpty then [] else [⟨mask, ids⟩]) }

/-- FENCE.S. -/
def execFenceS (t : Tok) (st : BitVec 4) (s : State) :=
  s.localNow .A t (fun c => .ok (c.fence (BitVec.ofNat 16 (2 ^ st.toNat))))
/-- FENCE.X: a mask of zero has no effect. -/
def execFenceX (t : Tok) (mask : BitVec 16) (s : State) := s.localNow .A t (fun c => .ok (c.fence mask))
/-- FENCE.D: every stream, and the loom's L1 is invalidated. -/
def execFenceD (t : Tok) (s : State) :=
  s.command t (fun c => .ok ((s.setCtx ((c.fence 0xFFFF).postNow .A t)).l1Clear s.cur.loom))

/-! ## Object operands (R172) -/

/-- The OPERAND fault (R341). -/
def operandFault (a : W64) : Stop := faultOf 9 1 0 a.toNat
/-- An operand that must be an address. -/
def wantAddress (a : W64) : Act Unit := check (!isHandle a) (operandFault a)
/-- An operand that must be a handle, with its reserved bits zero (R2). -/
def wantHandle (a : W64) : Act Unit :=
  check (isHandle a && a.extractLsb' 17 15 == 0 && a.extractLsb' 14 2 == 0) (operandFault a)
/-- An operand that may be either (ACQ, REL). -/
def wantObject (a : W64) : Act Unit :=
  if isHandle a then wantHandle a else check (place a).isSome (faultOf 2 1 a.toNat)

/-! ## Acquire and release (R101 to R104, R175 to R177) -/

/-- Whether an access of a partition reads an object (R104). -/
def State.readsObject (s : State) (self : Nat) (a : Access) (obj : Nat) : Bool :=
  match a.kind with
  | .load | .atomic .. => a.spans.any (·.holds self obj (objectLen ((s.kindOf self obj).getD 0)))
  | .barTest | .bobRead _ => (a.obj.map (ownAddr self)) == some (ownAddr self obj)
  | _ => false

/-- Drops what the acquire of an update that a context has read makes visible: the lines of the object's regions, and of a barrier's
counted bytes up to the last phase that had flipped (R58, R104, R107). -/
def State.acquireSeen (s : State) (loom peer : Nat) (x : Seen) : State :=
  (s.l1Drop loom peer x.obj).l1DropCounted loom x.bar ((x.phase + 2 ^ 32 - 1) % 2 ^ 32)

/-- ACQ: waits until the earlier reads of the object by the covered streams have returned, then acquires the update that they
returned, which drops the L1 lines of the object's regions. Without such a read it acquires nothing. -/
def execAcq (t : Tok) (rb : BitVec 6) (st : BitVec 4) (scope : BitVec 5) (s : State) :=
  s.command t (fun c => do
    let a ← c.rdA rb
    wantObject a
    let covered (n : Nat) : Bool := scope != 0 || n == st.toNat
    check (!c.accs.any (fun x => covered x.stream.toNat && s.readsObject c.peer x a.toNat)) (.wait .acquire)
    let saw := c.seen.filter (fun x => x.obj == ownAddr c.peer a.toNat && covered x.stream)
    return saw.foldl (fun s x => s.acquireSeen s.cur.loom c.peer x) (s.setCtx (c.postNow .A t)))

/-- The streams that a scope covers (R101). -/
def scopeMask (st : BitVec 4) (scope : Nat) : BitVec 16 := if scope = 0 then BitVec.ofNat 16 (2 ^ st.toNat) else 0xFFFF

/-- The outstanding accesses that a release covers (R101): with the stream scope and .X, the writes bound to the object that
lie in the partition's own memory; with .D, every write. An ACC.INIT is a write of its stream (R322). -/
def Ctx.covers (c : Ctx) (obj : Nat) (st : BitVec 4) (scope : Nat) : List Nat :=
  let bound (bs : List Nat) : Bool := bs.contains (ownAddr c.peer obj)
  (c.accOps.filter (fun a => !a.drain && (scope == 2 || ((scopeMask st scope).getLsbD a.stream.toNat && bound a.bound)))).map (·.id)
  ++ (c.accs.filter (fun a => a.kind.writes && (scope == 2 ||
    ((scopeMask st scope).getLsbD a.stream.toNat && bound a.bound && a.spans.all (·.home c.peer))))).map (·.id)

/-- The outstanding stores to peers in a scope, bound or not (R103). -/
def Ctx.peerStores (c : Ctx) (st : BitVec 4) (scope : Nat) : List Nat :=
  (c.accs.filter (fun a => a.kind.writes && (scopeMask st scope).getLsbD a.stream.toNat && a.spans.any (·.peer.isSome))).map (·.id)

/-- REL: marks the release pending; a context holds at most four. -/
def execRel (t : Tok) (rb : BitVec 6) (st : BitVec 4) (scope : BitVec 5) (s : State) :=
  s.localNow .A t (fun c => do
    let a ← c.rdA rb
    wantObject a
    check (Nat.blt c.rels.length 4) (.wait .release)
    return { c with rels := c.rels ++ [⟨a.toNat, scopeMask st scope.toNat, c.covers a.toNat st scope.toNat⟩] })

/-- The last cycle in which a write that a REL.ST waits for leaves STC as it is declared (R170): those of its scope that are bound to
the flag, or go to a peer, or with .D all. -/
def Ctx.relStBase (c : Ctx) (obj : Nat) (st : BitVec 4) (scope : Nat) : Nat :=
  ((c.outs.filter (fun o => o.ctr == .stc && (scope == 2 || ((scopeMask st scope).getLsbD o.stream.toNat &&
    (o.remote || o.bound.contains (ownAddr c.peer obj)))))).map (fun o => o.due.getD 0)).foldl Nat.max 0

/-- REL.ST: a store of the flag word that waits for the covered writes and for the acknowledgements of R103. -/
def execRelSt (t : Tok) (ra rb : BitVec 6) (st : BitVec 4) (scope : BitVec 5) (s : State) :=
  s.command t (fun c => do
    let a ← c.rdA rb
    let x ← c.rdA ra
    wantAddress a
    check (a.toNat % 8 == 0) (faultOf 4 1 a.toNat)
    let pl ← checkSpace a 8
    check (match pl with | .multicast _ | .striped _ => false | _ => true) (faultOf 2 3 a.toNat 0x29)
    let sps ← s.run c .store 0x29 0 a 8
    let after := c.covers a.toNat st scope.toNat ++ c.peerStores st scope.toNat
    s.issueAccess t c { id := 0, kind := .relSt x, stream := st, spans := sps, dest := .none, len := 8, after := after,
                        obj := some a.toNat } (some .stc) (s.latencyOf c a sps) (c.relStBase a.toNat st scope.toNat))

/-! ## Bound regions (R178, R283) -/

/-- A byte list with bytes put at an offset, lengthened with zeros where it is short. -/
def putBytes (bs : List Byte) (off : Nat) (x : List Byte) : List Byte :=
  let bs := bs ++ List.replicate (off + x.length - bs.length) 0
  bs.take off ++ x ++ bs.drop (off + x.length)

/-- The CRC of a plane, with its own four bytes taken as zero (R281). -/
def planeCrc (bs : List Byte) : Nat := crc32c (putBytes bs 4 [0, 0, 0, 0])

/-- Writes the binding section of the resident plane, whose CRC follows (R283). -/
def Partition.putBinding (p : Partition) (idx : Nat) (entry : List Byte) : Partition :=
  let bs := putBytes (p.plane ++ List.replicate (0x7100 - p.plane.length) 0) (0x100 + 32 * idx) entry
  { p with plane := putBytes bs 4 (leBytes 4 (planeCrc bs)) }

/-- Whether the unit and index of a handle are those of a bobbin of the partition (R172, R178, R182). -/
def Partition.hasBobbin (p : Partition) (h : W64) : Bool :=
  let unit := (h.extractLsb' 8 6).toNat
  let idx := (h.extractLsb' 0 8).toNat
  if h.getLsbD 16 then Nat.blt unit 40 && Nat.blt idx 64 && p.panels.getLsbD (unit / 5)
  else Nat.blt unit 32 && p.panels.getLsbD (unit / 4)

/-- Whether an object agrees with its kind and lies in the partition (R178); `leaf` is the translation of an address in space 0x0. -/
def Partition.bindable (p : Partition) (self kind : Nat) (a : W64) (leaf : Option TlbEntry) : Bool :=
  let pad : Bool := match place a with | some (.loom o) => Nat.ble (o + 8) (2 ^ 20) | some (.bolt o) => Nat.ble (o + 8) (2 ^ 23) | _ => false
  match kind with
  | 0 => a.toNat % 32 == 0 && (pad || leaf.any (fun t => t.attrs.getLsbD attrMS))
  | 1 => isHandle a && a.extractLsb' 17 15 == 0 && a.extractLsb' 14 2 == 0 && (a.extractLsb' 48 12).toNat == self && p.hasBobbin a
  | 2 => a.toNat % 8 == 0 && (pad || leaf.any (fun t => t.attrs.getLsbD attrW && !t.attrs.getLsbD attrAW))
  | _ => leaf.any (fun t => let pa := t.pa + (a.toNat - t.va); (p.counterAt pa 1).isSome && pa % 16 == 0)

/-- The translation of an object of space 0x0, whose walk is waited for; none for another place, and where no page is mapped (R178,
R414). -/
def State.objectLeaf (s : State) (c : Ctx) (a : W64) : Act (Option TlbEntry) :=
  match place a with
  | some (.virt va) =>
    match s.translate s.cur.who c.peer va with
    | .ok t => .ok (some t)
    | .error (.wait w) => .error (.wait w)
    | .error (.fault _) => .ok none
  | _ => .ok none

/-- BIND and UNBIND are ordered as though a FENCE.D stood on each side (R100), and wait while a difference is applied (R285). -/
def Ctx.bindReady (c : Ctx) (p : Partition) : Act Unit := do
  check c.accs.isEmpty (.wait .fence)
  check (!p.diffing) (.wait .data)

/-- BIND (R100, R178). A region base outside spaces 0x0 to 0x2, and a region that runs past its space, raise OPERAND, for which no rule
gives a cause (DESIGN CHOICE, log 149). -/
def execBind (t : Tok) (ra rb : BitVec 6) (_st : BitVec 4) (kind : BitVec 5) (ao : BitVec 6) (s : State) :=
  s.command t (fun c => do
    let base ← c.rdA ra
    let len ← c.rdA rb
    let obj ← c.rdA ao
    check (base.toNat % 128 == 0) (faultOf 4 4 base.toNat base.toNat)
    check (len.toNat % 128 == 0) (faultOf 4 4 base.toNat len.toNat)
    let pl ← (match place base with | some pl => .ok pl | none => .error (operandFault base) : Act Place)
    check (match pl with | .virt _ | .loom _ | .bolt _ => Nat.ble (pl.offset.1 + len.toNat) pl.offset.2 | _ => false) (operandFault base)
    match s.part? c.peer with
    | none => .error (operandFault base)
    | some p => do
      let leaf ← s.objectLeaf c obj
      check (p.bindable c.peer kind.toNat obj leaf) (operandFault obj)
      c.bindReady p
      let bs := p.bindings
      check (!bs.any (fun b => overlapLen base.toNat len.toNat b.base b.len != 0)) (faultOf 9 2 0 base.toNat)
      match (List.range 256).find? (fun i => !bs.any (·.idx == i)) with
      | none => .error (faultOf 9 2 0 base.toNat)
      | some i =>
        let entry := leBytes 8 base.toNat ++ leBytes 8 len.toNat ++ leBytes 8 obj.toNat ++ leBytes 8 (4 + kind.toNat % 4)
        return ((s.setCtx (c.postNow .A t)).setPart c.peer (p.putBinding i entry)).l1Clear s.cur.loom)

/-- UNBIND (DEDUCED, log 129). -/
def execUnbind (t : Tok) (ra : BitVec 6) (_st : BitVec 4) (s : State) :=
  s.command t (fun c => do
    let base ← c.rdA ra
    match s.part? c.peer with
    | none => .error (operandFault base)
    | some p => do
      c.bindReady p
      match p.bindings.find? (fun b => b.base == base.toNat) with
      | none => .error (faultOf 9 2 0 base.toNat)
      | some b =>
        return ((s.setCtx (c.postNow .A t)).setPart c.peer (p.putBinding b.idx (List.replicate 32 0))).l1Clear s.cur.loom)

/-! ## WAIT.C (R171) -/

/-- Whether counts meet the limits of WAIT.C, of which 63 asks for nothing. -/
def meetsLimits (nl ns nc nt : Nat) (count : Counter → Nat) : Bool :=
  let ok (n : Nat) (k : Counter) : Bool := n == 63 || Nat.ble (count k) n
  ok nl .ldc && ok ns .stc && ok nc .cpc && ok nt .tkc

/-- WAIT.C: holds the A-engine until the counters meet the limits all at once. -/
def execWaitC (t : Tok) (nl ns nc nt : BitVec 6) (s : State) :=
  s.localNow .A t (fun c => do
    check (meetsLimits nl.toNat ns.toNat nc.toNat nt.toNat c.count) (.wait (.waitC nl.toNat ns.toNat nc.toNat nt.toNat))
    return c)

/-! ## Barriers (R179 to R181) -/

/-- The span of a barrier operand: an address, aligned to 32 bytes, in a space or page that admits it. -/
def State.barrierSpan (s : State) (c : Ctx) (a : W64) : Act (List Span) := do
  wantAddress a
  check (a.toNat % 32 == 0) (faultOf 4 1 a.toNat)
  s.run c .object 0x2C 0 a 32

/-- Issues a barrier form as an access. -/
def State.barrierOp (s : State) (t : Tok) (c : Ctx) (a : W64) (st : BitVec 4) (k : AccKind) (dest : AccDest)
    (after : List Nat) : Act State := do
  let sps ← s.barrierSpan c a
  s.issueAccess t c { id := 0, kind := k, stream := st, spans := sps, dest := dest, len := 8, after := after,
                      obj := some a.toNat } none (s.latencyOf c a sps)

/-- BAR.INIT. -/
def execBarInit (t : Tok) (ra rb : BitVec 6) (st : BitVec 4) (ab : BitVec 6) (s : State) :=
  s.command t (fun c => do
    let a ← c.rdA rb
    let n ← c.rdA ra
    let b ← c.rdA ab
    s.barrierOp t c a st (.barInit (n.toNat % 2 ^ 32) (b.toNat % 2 ^ 48)) .none [])

/-- BAR.EXPECT. -/
def execBarExpect (t : Tok) (ra rb : BitVec 6) (st : BitVec 4) (s : State) :=
  s.command t (fun c => do
    let a ← c.rdA rb
    let n ← c.rdA ra
    s.barrierOp t c a st (.barExpect (n.toNat % 2 ^ 48)) .none [])

/-- BAR.ARRIVE: the arrival waits for the writes that its release covers. -/
def execBarArrive (t : Tok) (ra rb : BitVec 6) (st : BitVec 4) (scope : BitVec 2) (s : State) :=
  s.command t (fun c => do
    let a ← c.rdA rb
    let after := c.covers a.toNat st scope.toNat
    s.barrierOp t c a st .barArrive (.reg ra) after)

/-- Whether an earlier write of a stream to the same bytes has still to be performed (R96). -/
def Ctx.unwritten (c : Ctx) (st : BitVec 4) (sps : List Span) : Bool :=
  c.accs.any (fun a => a.stream == st && a.kind.writes && spansMeet c.peer a.undone sps)

/-- What the flip of a phase of a barrier makes visible, and with it the firings whose action arrived there: it drops from the L1 the
regions bound to the barrier or to a bobbin, and the bytes that the barrier counted up to the phase (R58, R104, R107, R108; DEDUCED,
log 17). -/
def State.acquireFlip (s : State) (loom peer obj bar phase : Nat) : State :=
  (s.l1DropIf loom peer (fun o => o == ownAddr peer obj || isHandle (BitVec.ofNat 64 o))).l1DropCounted loom bar phase

/-- BAR.WAIT: it reads the barrier after the earlier updates of its stream (R96), holds the A-engine until the phase has flipped, then
acquires the flip. At a peer the phase is the one last reported for that barrier. -/
def execBarWait (t : Tok) (ra rb : BitVec 6) (st : BitVec 4) (_scope : BitVec 2) (s : State) :=
  s.command t (fun c => do
    let a ← c.rdA rb
    let p ← c.rdA ra
    let phase := p.toNat % 2 ^ 32
    let sps ← s.barrierSpan c a
    c.fenceFree st
    check (!c.unwritten st sps) (.wait .acquire)
    let sp := sps.headD { pa := 0, va := 0, len := 0, off := 0 }
    let wait (pa : Nat) : Stop := .wait (.barrier pa phase a.toNat)
    let done (bar : Nat) : State :=
      (s.setCtx ({ c with barSeen := none, barWait := none }.postNow .A t)).acquireFlip s.cur.loom c.peer a.toNat bar phase
    if sp.remote c.peer then
      match c.barSeen with
      | some (bar, ph) =>
        check (bar == a.toNat && ({ (Barrier.ofNat 0) with phase := ph }).flipped phase) (wait a.toNat)
        return done a.toNat
      | none => .error (wait a.toNat)
    else
      match s.localSpans c .object sp with
      | .error f => .error (.fault f)
      | .ok sps =>
        match (s.meetBarrier (sps.headD sp)).2 with
        | some f => .error (.fault f)
        | none =>
          let pa := (sps.headD sp).pa
          let b := s.barrier pa
          if b.state ≠ 1 then .error (.fault (barrierFault a.toNat b))
          else if !b.flipped phase then .error (wait pa)
          else return done pa)

/-- BAR.TEST. -/
def execBarTest (t : Tok) (ra rb : BitVec 6) (st : BitVec 4) (s : State) :=
  s.command t (fun c => do
    let a ← c.rdA rb
    s.barrierOp t c a st .barTest (.reg ra) [])

/-- BAR.FLAGS. -/
def execBarFlags (t : Tok) (ra rb : BitVec 6) (st : BitVec 4) (s : State) :=
  s.command t (fun c => do
    let a ← c.rdA rb
    s.barrierOp t c a st .barFlags (.reg ra) [])

/-- The barrier of an address as a span of this device's memory, by walks at once; none at a peer. -/
def State.barrierHere (s : State) (loom peer : Nat) (raw : W64) : Option Span :=
  let at' (va : Nat) : Option Span :=
    ((s.part? peer).bind (fun p => s.translateNow p va)).map (fun x => { pa := x.1, va := va, len := 32, off := 0, attrs := x.2 })
  match place raw with
  | some (.virt va) => at' va
  | some (.peer q va) => if q = peer then at' va else none
  | some (.loom o) => some { pa := loomPad loom o, va := raw.toNat, len := 32, off := 0 }
  | some (.bolt o) => some { pa := boltPad (boltOf loom) o, va := raw.toNat, len := 32, off := 0 }
  | _ => none

/-- Sets TIMEDOUT in a barrier (R180): here, or at the peer that holds it (DEDUCED, log 16). -/
def State.setTimedOut (s : State) (loom peer : Nat) (raw : W64) : State :=
  match s.barrierHere loom peer raw, place raw with
  | some sp, _ => s.setBarrier sp { s.barrier sp.pa with timedout := true }
  | none, some (.peer q va) => { s with out := s.out ++ [Output.object q 0 .timedOut va] }
  | _, _ => s

/-- BARRIER_TIMEOUT (R385): a BAR.WAIT held at the barrier limit raises TIMEOUT, precise, and sets TIMEDOUT in the same
update. -/
def State.barrierTimeout (s : State) (loom : Nat) (ev : Bool) : Option State :=
  let c := s.ctxAt loom ev
  let limit := ((s.part? c.peer).map (·.barrierLimit)).getD 0
  match c.barWait with
  | none => none
  | some (_, phase, raw) =>
    if c.act ≠ .running ∨ limit = 0 then none
    else
      some ((s.setTimedOut loom c.peer (BitVec.ofNat 64 raw)).raisePrecise ⟨loom, ev, .A⟩ c.ea.lane c.ea.word 0
        { cls := 0x13, cause := 2, addr := raw, d0 := raw, d1 := phase })

/-- BARRIER_TIMEOUT. -/
def execBarrierTimeout (loom : Nat) (ev : Bool) (s : State) := s.event (s.barrierTimeout loom ev)

end Sys2Proof.Machine
end

