-- ==== Sys2Proof/Machine/Control.lean ====
section
/-!
DEFINITION. Control flow of both engines, joint instructions, control registers, TRAP and YIELD (R38, R39, R43 to R48, R126,
R151 to R153, R229 to R231, R302 to R307).
-/

namespace Sys2Proof.Machine

/-! ## Branches of the A-engine (R151) -/

/-- The target of an offset in lines from the moving engine's line (R116, R119). -/
def Engine.lineAt (g : Engine) (lines : Int) : W64 := BitVec.ofInt 64 ((g.pc.toNat : Int) + 32 * lines)

/-- A branch decided by the A-engine: a taken branch sets the next line, at the end of the line. -/
def State.aBranch (s : State) (t : Tok) (off : Int) (taken : Ctx → Act Bool) : Host.Outcome State Fault Refusal :=
  s.localNow .A t (fun c => do
    if ← taken c then return { c with ea := { c.ea with target := some (c.ea.lineAt off) } }
    else return c)

/-- The comparison of a conditional branch. -/
def cmpRegs (rs1 rs2 : BitVec 6) (f : W64 → W64 → Bool) (c : Ctx) : Act Bool := do
  let x ← c.rdA rs1
  let y ← c.rdA rs2
  return f x y

/-- BR. -/
def execBr (t : Tok) (off : BitVec 24) (s : State) := s.aBranch t off.toInt (fun _ => .ok true)
/-- BEQ. -/
def execBeq (t : Tok) (rs1 rs2 : BitVec 6) (off : BitVec 12) (s : State) :=
  s.aBranch t off.toInt (cmpRegs rs1 rs2 (fun x y => x == y))
/-- BNE. -/
def execBne (t : Tok) (rs1 rs2 : BitVec 6) (off : BitVec 12) (s : State) :=
  s.aBranch t off.toInt (cmpRegs rs1 rs2 (fun x y => x != y))
/-- BLT. -/
def execBlt (t : Tok) (rs1 rs2 : BitVec 6) (off : BitVec 12) (s : State) :=
  s.aBranch t off.toInt (cmpRegs rs1 rs2 (fun x y => x.slt y))
/-- BGE. -/
def execBge (t : Tok) (rs1 rs2 : BitVec 6) (off : BitVec 12) (s : State) :=
  s.aBranch t off.toInt (cmpRegs rs1 rs2 (fun x y => !x.slt y))
/-- BLTU. -/
def execBltu (t : Tok) (rs1 rs2 : BitVec 6) (off : BitVec 12) (s : State) :=
  s.aBranch t off.toInt (cmpRegs rs1 rs2 (fun x y => x.ult y))
/-- BGEU. -/
def execBgeu (t : Tok) (rs1 rs2 : BitVec 6) (off : BitVec 12) (s : State) :=
  s.aBranch t off.toInt (cmpRegs rs1 rs2 (fun x y => !x.ult y))

/-- Pushes an entry to bq, waiting while it is full (R33, R153). -/
def Ctx.pushBq (c : Ctx) (e : BqEntry) : Act Ctx :=
  if 64 ≤ c.bq.length then .error (.wait .bq) else .ok { c with bq := c.bq ++ [e] }

/-- CALL: a63 takes the address of the next line, at the ordinary latency of 1 (R142), and the redirect entry goes to bq. -/
def execCall (t : Tok) (off : BitVec 24) (s : State) :=
  s.local .A t (fun c => do
    let target := c.ea.lineAt off.toInt
    let c ← c.pushBq (.redirect target)
    let c ← c.emit .A (.a 63) (c.ea.pc + 32).toNat 1 t
    return { c with ea := { c.ea with target := some target } })

/-- JR: the target must lie in space 0x0 with bits [4:0] zero. -/
def execJr (t : Tok) (rs1 : BitVec 6) (imm : BitVec 12) (s : State) :=
  s.localNow .A t (fun c => do
    let x ← c.rdA rs1
    let target := BitVec.ofInt 64 ((x.toNat : Int) + 32 * imm.toInt)
    check (target.toNat % 32 == 0) (faultOf 4 3 target.toNat)
    check (Nat.blt target.toNat (2 ^ 48)) (faultOf 2 1 target.toNat)
    let c ← c.pushBq (.redirect target)
    return { c with ea := { c.ea with target := some target } })

/-- BQP (R153). -/
def execBqp (t : Tok) (rs1 : BitVec 6) (s : State) :=
  s.localNow .A t (fun c => do
    let x ← c.rdA rs1
    c.pushBq (.outcome (x != 0)))

/-! ## Branches of the X-engine (R229, R230) -/

/-- The code of an entry's kind (R341 MISUSE, R311). -/
def BqEntry.kind : BqEntry → Nat
  | .outcome _ => 0 | .count _ => 1 | .redirect _ => 2

/-- The MISUSE fault (R341). -/
def misuse (e : BqEntry) : Stop := faultOf 5 3 0 e.kind

/-- A branch decided by the X-engine. -/
def State.xBranch (s : State) (t : Tok) (off : Int) (taken : Ctx → Act (Ctx × Bool)) : Host.Outcome State Fault Refusal :=
  s.localNow .X t (fun c => do
    let (c, b) ← taken c
    return if b then { c with ex := { c.ex with target := some (c.ex.lineAt off) } } else c)

/-- BRQ: pops an outcome entry. -/
def execBrq (t : Tok) (off : BitVec 24) (s : State) :=
  s.xBranch t off.toInt (fun c =>
    match c.bq with
    | [] => .error (.wait .bq)
    | .outcome b :: r => .ok ({ c with bq := r }, b)
    | e :: _ => .error (misuse e))

/-- The bits 0 to E − 1 of a mask. -/
def Ctx.maskBits (c : Ctx) (k : KReg) : List Bool := (List.range c.elems).map (fun i => k.getLsbD i)

/-- BRK: ANY, ALL or NONE of the bits 0 to E − 1. -/
def execBrk (t : Tok) (k cond : BitVec 6) (off : BitVec 12) (s : State) :=
  s.xBranch t off.toInt (fun c => do
    let m ← c.rdK (kOf k)
    let bits := c.maskBits m
    return (c, match cond.toNat with | 0 => bits.any id | 1 => bits.all id | _ => !bits.any id))

/-- BRX: EQZ, NEZ, LTZ, GEZ or ALWAYS. -/
def execBrx (t : Tok) (rs cond : BitVec 6) (off : BitVec 12) (s : State) :=
  s.xBranch t off.toInt (fun c => do
    let x ← c.rdS rs
    return (c, match cond.toNat with | 0 => x == 0 | 1 => x != 0 | 2 => x.msb | 3 => !x.msb | _ => true))

/-! ## Loops (R38, R39) -/

/-- The words of the body lines that are not empty (R39), from the line that the loop's engine sees: the loom's instruction
cache if it holds a line, else memory. A body line whose page is not in the translation buffer is walked for, and one that does
not translate raises its fault at the loop instruction (DESIGN CHOICE, log 134). -/
def State.bodyWords (s : State) (c : Ctx) (first lines : Nat) : Act Nat :=
  (List.range lines).foldlM (fun n i =>
    let va := first + 32 * i
    match SMap.find? (s.loom s.cur.loom).icache va with
    | some ws => .ok (n + lanes (ws.headD 0))
    | none =>
      match s.translate s.cur.who c.peer va with
      | .error e => .error e
      | .ok t => .ok (n + lanes (word32 (Memory.readN s.mem (t.pa + (va - t.va)) 4)))) 0
where
  /-- How many lanes of a header are not empty. -/
  lanes (hdr : W32) : Nat := ((List.range 7).filter (fun i => hdr.extractLsb' (4 * i) 4 != 0)).length

/-- The step of a loop instruction once its count is known: depth, the body's size, then the loop state, which takes effect at
the end of the line. -/
def Ctx.enterLoop (c : Ctx) (e : Eng) (body : BitVec 6) (n : Nat) : Ctx :=
  let g := c.eng e
  let lines := body.toNat + 1
  let first := g.pc.toNat + 32
  let after := BitVec.ofNat 64 (first + 32 * lines)
  if n = 0 then c.setEng e { g with skip := some after }
  else
    let d := g.depth
    c.setEng e { g with lc := Vector.ofFn (fun i => if i.val = d then 0 else g.lc[i]),
                               ln := Vector.ofFn (fun i => if i.val = d then BitVec.ofNat 32 n else g.ln[i]), depth := d + 1,
                               bodies := g.bodies ++ [(first, first + 32 * (lines - 1))],
                               skip := some (BitVec.ofNat 64 first) }

/-- The checks of R39 that come before a count is taken: nesting, then the body. -/
def State.loopChecks (s : State) (c : Ctx) (e : Eng) (body : BitVec 6) : Act Unit := do
  let g := c.eng e
  check (Nat.blt g.depth 3) (faultOf 5 6)
  let w ← s.bodyWords c (g.pc.toNat + 32) (body.toNat + 1)
  check (Nat.ble w 256) (faultOf 5 7 0 w)

/-- LOOP. -/
def execLoop (body : BitVec 6) (count : BitVec 16) (s : State) :=
  s.local s.cur.eng ⟨false, false⟩ (fun c => do
    s.loopChecks c s.cur.eng body
    return c.enterLoop s.cur.eng body count.toNat)

/-- LOOPR: the A-engine reads the register and pushes the count, the X-engine pops it. COUNT is raised before anything is
pushed (R362). -/
def execLoopr (body ra : BitVec 6) (s : State) :=
  s.local s.cur.eng ⟨false, false⟩ (fun c =>
    match s.cur.eng with
    | .A => do
      check (Nat.blt c.ea.depth 3) (faultOf 5 6)
      let n ← c.rdA ra
      check (Nat.ble n.toNat 0xFFFFFFFF) (faultOf 5 8 0 n.toNat)
      s.loopChecks c .A body
      let c ← c.pushBq (.count n.toNat)
      return c.enterLoop .A body n.toNat
    | .X => do
      check (Nat.blt c.ex.depth 3) (faultOf 5 6)
      match c.bq with
      | [] => .error (.wait .bq)
      | .count n :: r => do
        s.loopChecks c .X body
        return ({ c with bq := r } : Ctx).enterLoop .X body n
      | e :: _ => .error (misuse e))

/-! ## SAFEPT, PICK.END, SLIP (R43 to R48) -/

/-- SAFEPT: each engine counts the SAFEPTs that it executes, its line count starts again, and it stops at the k-th when a
request is pending, whose save then takes the masks. In a handler and in the evaluator context it has no effect (R44, R305). -/
def execSafept (id : BitVec 12) (kmask : BitVec 8) (amask : BitVec 64) (smask vmask : BitVec 32) (s : State) :=
  s.local s.cur.eng ⟨false, false⟩ (fun c =>
    if s.cur.ev ∨ c.tframe ≠ 0 then .ok c
    else
      let g := c.eng s.cur.eng
      let n := g.safepts + 1
      let stop := match c.req with | some r => Nat.ble r.k n | none => false
      let c := if stop then { c with safept := (id.toNat, amask, smask, vmask, kmask) } else c
      .ok (c.setEng s.cur.eng { g with safepts := n, lineCount := 0, safeptLine := true, stoppedSafept := stop }))

/-- PICK.END: the engine stops its stream; active loops are abandoned. -/
def execPickEnd (s : State) :=
  s.local s.cur.eng ⟨false, false⟩ (fun c =>
    let g := c.eng s.cur.eng
    .ok (c.setEng s.cur.eng { g with ended := true, depth := 0, bodies := [] }))

/-- SLIP: the A-engine writes SLIPW; in the X-engine it has no effect. -/
def execSlip (window : BitVec 8) (s : State) :=
  s.local s.cur.eng ⟨false, false⟩ (fun c => .ok (if s.cur.eng = .A then { c with slipw := window } else c))

/-! ## Control registers (R126, R303, R304) -/

/-- Where the area of a context lies: CTXPOOL(p) + (2 × (n mod 40) + c) × 256 KiB (R311). -/
def State.ctxBase (s : State) (loom : Nat) (ev : Bool) : Nat :=
  match s.part? (s.ctxAt loom ev).peer with
  | some p => (p.ctxPool.getD (panelOf loom) (0, 0)).1 + (2 * (loom % 40) + (if ev then 1 else 0)) * 2 ^ 18
  | none => 0

/-- The value of a control register, read at issue. -/
def State.csr (s : State) (c : Ctx) (n : Nat) : W64 :=
  let loop (v : Vector W32 3) (i : Nat) : W64 := ((v.toList.getD i 0).setWidth 64)
  match n with
  | 0x00 => c.picktag
  | 0x01 => c.pass
  | 0x02 => c.wver
  | 0x03 => c.gangid
  | 0x04 => BitVec.ofNat 64 s.cur.loom
  | 0x05 => BitVec.ofNat 64 ((if s.cur.ev then 4 else 0) + (if s.fullService s.cur.loom then 2 else 0)
      + (if s.determinate c then 1 else 0))
  | 0x08 => c.slipw.setWidth 64
  | 0x10 => c.ftbase.setWidth 64
  | 0x20 => BitVec.ofNat 64 (c.count .ldc)
  | 0x21 => BitVec.ofNat 64 (c.count .stc)
  | 0x22 => BitVec.ofNat 64 (c.count .cpc)
  | 0x23 => BitVec.ofNat 64 (c.count .tkc)
  | 0x30 => loop c.ea.lc 0
  | 0x31 => loop c.ea.lc 1
  | 0x32 => loop c.ea.lc 2
  | 0x34 => loop c.ea.ln 0
  | 0x35 => loop c.ea.ln 1
  | 0x36 => loop c.ea.ln 2
  | 0x80 => c.tvec
  | 0x81 => c.tframe
  | 0x82 => c.tcause
  | 0x83 => BitVec.ofNat 64 (s.ctxBase s.cur.loom s.cur.ev)
  | 0x84 => BitVec.ofNat 64 c.peer
  | 0x85 => BitVec.ofNat 64 (((s.part? c.peer).map (·.panels.toNat)).getD 0)
  | _ => 0

/-- CSRR: declared latency 1. -/
def execCsrr (t : Tok) (rd : BitVec 6) (csr : BitVec 8) (s : State) :=
  s.local .A t (fun c => c.emit .A (.a rd) (s.csr c csr.toNat).toNat 1 t)

/-- The effect of a write of a control register; registers that are read-only ignore it (R6, R126). -/
def Ctx.setCsr (c : Ctx) (n : Nat) (x : W64) : Ctx :=
  match n with
  | 0x08 => { c with slipw := x.setWidth 8 }
  | 0x10 => { c with ftbase := x.setWidth 8 }
  | 0x80 => { c with tvec := x &&& 0xFFFFFFFFFFFFFFE1 }
  | _ => c

/-- CSRW: takes effect for the next A-engine lane. -/
def execCsrw (t : Tok) (rs1 : BitVec 6) (csr : BitVec 8) (s : State) :=
  s.localNow .A t (fun c => do
    let x ← c.rdA rs1
    return c.setCsr csr.toNat x)

/-- TRAP: a fault of class software with CAUSE equal to its code (R305) (DEDUCED, log 20). -/
def execTrap (t : Tok) (code : BitVec 8) (s : State) :=
  s.done (do
    let _ ← s.ctx.tokens .A t
    .error (faultOf 8 code.toNat))

/-- YIELD: holds the A-engine for n × 16 cycles, which YIELD_EXPIRY ends; YIELD 0 has no effect (R307). -/
def execYield (t : Tok) (n : BitVec 8) (s : State) :=
  s.localNow .A t (fun c =>
    if n = 0 then .ok c
    else match c.yielding with
      | some true => .ok { c with yielding := none }
      | _ => .error (.wait .yielding))

/-- YIELD_EXPIRY. -/
def execYieldExpiry (loom : Nat) (ev : Bool) (s : State) :=
  s.event (
    let c := s.ctxAt loom ev
    if c.yielding = some false then some (s.setCtxAt loom ev { c with yielding := some true }) else none)

end Sys2Proof.Machine
end

