-- ==== Sys2Proof/Machine/Sequencer.lean ====
section
/-!
DEFINITION. The sequencers: fetch and decode of a line, its start, its lanes, its completion, and what a wait does
(R31, R32, R36 to R39, R44, R45, R152, R154, R231, R341 to R345, R359, R361, R373). What an instruction does is a parameter
here; `step` gives `exec` for it.
-/

namespace Sys2Proof

/-! ## Lines -/

/-- The instructions of a line that an engine executes (R116). -/
def Line.opsFor (l : Line) (e : Machine.Eng) : List LaneOp :=
  l.ops.filter (fun o => o.space == .J || (match e with | .A => o.space == .A | .X => o.space == .X))

/-- Whether a line is a rendezvous line (R231). -/
def Line.rendezvous (l : Line) : Bool := l.ops.any (·.instr.isXBranch) && !l.ops.any (·.instr.isABranch)

/-- Whether the X-engine pops a redirect entry at the end of the line (R152). -/
def Line.redirects (l : Line) : Bool :=
  l.ops.any (fun o => match o.instr with | .call .. | .jr .. => true | _ => false)

/-- Whether a line may be the 2,048th since the last SAFEPT: one with SAFEPT or PICK.END, or in a handler one with RETT
(R44, R305). -/
def Line.exempt (l : Line) (handler : Bool) : Bool :=
  l.ops.any (fun o => match o.instr with
    | .safept .. => !handler
    | .pickEnd => true
    | .rett .. => handler
    | _ => false)

/-- The lane of RETT, CTX.SAVE or CTX.LOAD in a line, if it has one (R306). -/
def Line.contextLane (l : Line) : Option Nat := (l.ops.find? (·.instr.isContext)).map (·.lane)

/-- The stream field of a word, where its format has one (R118). -/
def LaneOp.stream (o : LaneOp) : Nat :=
  let m := (o.word.extractLsb' 24 6).toNat
  if o.space == .A && ((Nat.ble 0x1A m && Nat.ble m 0x22) || isQ .A o.word) then (o.word.extractLsb' 8 4).toNat else 0

end Sys2Proof

namespace Sys2Proof.Machine

/-- What `exec` is: the meaning of an instruction. -/
abbrev Meaning := Instr → State → Host.Outcome State Fault Refusal

/-! ## Fetch (R54, R112, R373) -/

/-- What a fetch gives: the words of the line with the loom's cache filled, a wait or a fault, or a line in error, whose
memory line the read has poisoned. -/
inductive Fetched where
  | words (s : State) (ws : List W32) | stop (e : Stop) | bad (s : State) (f : FaultInfo)

/-- The fault of a line whose memory is in error (DEDUCED, log 56). -/
def fetchFault (f : FaultInfo) : FaultInfo :=
  { f with cause := if f.cls = 16 ∧ f.cause = 1 then 6 else f.cause, precise := true, src := 0 }

/-- The lines of an instruction cache (R55): 128 KiB of 32-byte lines. -/
def icacheLines : Nat := 4096

/-- Takes a line into an instruction cache; a full one gives up the line that a free choice names (R55; DESIGN CHOICE, log 142). -/
def icacheInsert (cache : SMap (List W32)) (free pc : Nat) (ws : List W32) : SMap (List W32) :=
  let full := Nat.ble icacheLines cache.length && (SMap.find? cache pc).isNone
  SMap.set (if full then cache.eraseIdx (Config.evicted free % cache.length) else cache) pc ws

/-- Fetches the line at an address for the engine that moves: from the instruction cache of its loom, else through its page,
which must have X. A line outside space 0x0 lies on no page with X (DEDUCED, log 42). -/
def State.fetchLine (s : State) (peer pc : Nat) : Fetched :=
  match SMap.find? (s.loom s.cur.loom).icache pc with
  | some ws => .words s ws
  | none =>
    if 2 ^ 48 ≤ pc then .stop (faultOf 2 5 pc)
    else
      match s.translate s.cur.who peer pc with
      | .error e => .stop e
      | .ok t =>
        if !MemOp.fetch.inPage t.attrs then .stop (faultOf 2 5 pc)
        else
          match s.readSpan { pa := t.pa + (pc - t.va), va := pc, len := 32, off := 0, attrs := t.attrs } with
          | (s, _, some f) => .bad s (fetchFault f)
          | (s, bs, none) =>
            let l := s.loom s.cur.loom
            .words ({ s with freeIdx := s.freeIdx + 1 }.setLoom s.cur.loom
              { l with icache := icacheInsert l.icache s.freeIdx pc (lineWords bs) }) (lineWords bs)

/-! ## The next line (R31, R39) -/

/-- Replaces one loop counter. -/
def Engine.setLc (g : Engine) (d : Nat) (n : W32) : Engine :=
  { g with lc := Vector.ofFn (fun i => if i.val = d then n else g.lc[i]) }

/-- The end-of-body steps for the line that ends: the innermost level whose body ends there first, then outwards while levels
end. It gives the first line of the body that goes on, if one does (DEDUCED, log 19). -/
def Engine.loopEnd (g : Engine) : (levels : Nat) → Engine × Option W64
  | 0 => (g, none)
  | d + 1 =>
    match g.bodies[d]? with
    | none => g.loopEnd d
    | some (first, last) =>
      if last ≠ g.pc.toNat then g.loopEnd d
      else
        let n : W32 := g.lc.toList.getD d 0 + 1
        let g := g.setLc d n
        if n.toNat < (g.ln.toList.getD d 0).toNat then (g, some (BitVec.ofNat 64 first))
        else ({ g with depth := d, bodies := g.bodies.take d } : Engine).loopEnd d

/-- A taken branch ends every level whose body its target leaves. -/
def Engine.cutLevels (g : Engine) (t : W64) : Engine :=
  let kept := g.bodies.takeWhile (fun b => Nat.ble b.1 t.toNat && Nat.ble t.toNat b.2)
  if kept.length = g.bodies.length then g else { g with depth := kept.length, bodies := kept }

/-- The engine at its next line: a branch's target, the first line of a body that goes on, where a loop instruction sends it, or the
next line. At the end of a body's last line the step of R39 is taken also where that line holds a loop instruction
(DEDUCED, log 19). -/
def Engine.advance (g : Engine) : Engine :=
  let go (g : Engine) (pc : W64) : Engine :=
    { g with pc := pc, lane := 1, inLine := false, target := none, skip := none, safeptLine := false }
  match g.target with
  | some t => go (g.cutLevels t) t
  | none =>
    match g.loopEnd g.depth with
    | (g', some t) => go g' t
    | (g', none) => go g' (if g'.depth = g.depth then g.skip.getD (g.pc + 32) else g.pc + 32)

/-! ## Engine cycles and declared completions -/

/-- Operations that are complete leave their counters in the cycle that determinate mode declares (R170). -/
def Ctx.leaveDue (c : Ctx) : Ctx :=
  { c with outs := c.outs.filter (fun o => !(o.completed && (match o.due with | some d => Nat.ble d c.detCyc | none => true))) }

/-- One more cycle of the count of R170. -/
def Ctx.tickDet (c : Ctx) : Ctx := ({ c with detCyc := c.detCyc + 1 }).leaveDue

/-- Whether an operation whose declared completion is the next cycle holds the A-engine. -/
def Ctx.detHeld (c : Ctx) : Bool :=
  c.outs.any (fun o => !o.completed && (match o.due with | some d => Nat.ble d (c.detCyc + 1) | none => false))

/-- One cycle that counts for landing and for nothing else (R37). -/
def Ctx.passCycle (c : Ctx) (e : Eng) : Ctx :=
  if c.dataHeld e then c
  else
    let c := c.land e
    let g := c.eng e
    c.setEng e { g with cyc := g.cyc + 1 }

/-! ## Completing a line (R31, R39, R154, R231) -/

/-- The A-engine takes the outcome of the rendezvous line that it has completed and goes on. -/
def Ctx.takeRendezvous (c : Ctx) : Ctx :=
  match c.rvz with
  | t :: r => { c with rvz := r, ea := ({ c.ea with heldRvz := false, target := t } : Engine).advance }
  | [] => c

/-- Counts the completed line of an engine and compares it with the other engine's line of that number; it answers the two
addresses, the A-engine's first, where they differ. -/
def Ctx.countLine (c : Ctx) (e : Eng) (exposed : Bool) : Ctx × Option (W64 × W64) :=
  let g := c.eng e
  let behind := Nat.blt g.lines (c.eng e.other).lines
  let theirs : Option W64 := if behind then (c.ahead.head?).join else none
  let differ := match theirs with
    | some a => if a = g.pc then none else some (match e with | .A => (g.pc, a) | .X => (a, g.pc))
    | none => none
  let c := { c with ahead := if behind then c.ahead.tail else c.ahead ++ [some g.pc] }
  (c.setEng e { g with lines := g.lines + 1, cyc := g.cyc + 1, mode := exposed, ran := true, waiting := none,
                       lineCount := if g.safeptLine then 0 else g.lineCount + 1 }, differ)

/-- Whether the X-engine, having completed a line with RETT, CTX.SAVE or CTX.LOAD, must wait for the A-engine to issue it
(R306, R308, R309). -/
def Ctx.awaitsContext (c : Ctx) (l : Line) : Bool :=
  match l.contextLane with
  | none => false
  | some n => Nat.blt c.ea.lines c.ex.lines && !(c.ea.lines + 1 == c.ex.lines && c.ea.inLine && Nat.blt n c.ea.lane)

/-- The engine leaves a line that it has completed. -/
def Ctx.leaveLine (c : Ctx) (e : Eng) (l : Line) : Ctx :=
  let g := c.eng e
  if g.ended then c.setEng e { g with inLine := false, target := none, skip := none, safeptLine := false }
  else if l.rendezvous then
    match e with
    | .A => if c.rvz = [] then { c with ea := { g with heldRvz := true, inLine := false, safeptLine := false } } else c.takeRendezvous
    | .X =>
      let c := { c with rvz := c.rvz ++ [g.target], ex := g.advance }
      if c.ea.heldRvz then c.takeRendezvous else c
  else
    let g' := g.advance
    c.setEng e (if e = .X then { g' with heldCtx := c.awaitsContext l } else g')

/-- The DIVERGENCE fault (R154, R341) (DEDUCED, log 43). -/
def divergence (ad : W64 × W64) (line : W64) : FaultInfo := { cls := 5, cause := 4, addr := line.toNat, d1 := ad.1.toNat }

/-- An engine completes its line. -/
def State.completeLine (s : State) (e : Sel) (l : Line) : State :=
  let c := s.ctxAt e.loom e.ev
  let line := (c.eng e.eng).pc
  let (c, differ) := c.countLine e.eng l.exposed
  let c := match e.eng with | .A => c.tickDet | .X => c
  let s := s.setCtxAt e.loom e.ev (c.leaveLine e.eng l)
  match differ with
  | some ad => if c.act = .running then s.raiseSequencer e.loom e.ev (divergence ad line) else s
  | none => s

/-- The end of a line's lanes: the X-engine first pops the redirect entry of a CALL or JR, for which it waits (R152). -/
def State.endLine (s : State) (e : Sel) (l : Line) : Except (Option BqEntry) State :=
  let c := s.ctxAt e.loom e.ev
  let g := c.eng e.eng
  if e.eng = .X ∧ l.redirects ∧ !g.ended then
    match c.bq with
    | [] => .error none
    | .redirect t :: r =>
      .ok ((s.setCtxAt e.loom e.ev { c with bq := r, ex := { g with target := some t } }).completeLine e l)
    | x :: _ => .error (some x)
  else .ok (s.completeLine e l)

/-! ## Standstill (R35, R359) -/

/-- Whether a load that will fill an entry of a load queue is outstanding. -/
def Ctx.lqComing (c : Ctx) (n : Nat) : Bool := ((c.lq.toList.getD n []).any (·.pending))

/-- The filled entries of a load queue. -/
def Ctx.lqFilled (c : Ctx) (n : Nat) : Nat := ((c.lq.toList.getD n []).filter (!·.pending)).length

/-- A wait as the engine keeps it: for a load queue, with the entries that it has found filled, so that a later entry ends it. -/
def Ctx.keepWait (c : Ctx) (w : Wait) : Wait :=
  match w with
  | .lq n _ => .lq n (c.lqFilled n)
  | w => w

/-- The wait-map byte of a wait of an engine that still holds, and that only the other engine can end: 0 if there is none.
In scoreboard mode a result that is on its way lands in its own time. -/
def Ctx.waitByte (c : Ctx) (e : Eng) : Nat :=
  let lands := !(c.eng e.other).mode
  match (c.eng e).waiting, e with
  | some (.lq n had), .X => if c.lqComing n || Nat.blt had (c.lqFilled n) then 0 else 0x01
  | some (.lq n _), .A => if 8 ≤ (c.lq.toList.getD n []).length && !c.lqComing n then 0x01 else 0
  | some (.sq n), .A =>
    match c.sq.toList.getD n [] with
    | [] => 0x02
    | q :: _ => if q.pending && !lands then 0x02 else 0
  | some (.sq n), .X => if 8 ≤ (c.sq.toList.getD n []).length then 0x02 else 0
  | some .bq, .A => if 64 ≤ c.bq.length then 0x04 else 0
  | some .bq, .X => if c.bq = [] then 0x04 else 0
  | some .token, .A => if c.tokXA = 0 && !(lands && c.resXA != 0) then 0x08 else 0
  | some .token, .X => if c.tokAX = 0 && !(lands && c.resAX != 0) then 0x08 else 0
  | some .tokenRoom, .A => if 32 ≤ c.tokAX + c.resAX then 0x08 else 0
  | some .tokenRoom, .X => if 32 ≤ c.tokXA + c.resXA then 0x08 else 0
  | some .slip, .A => if Nat.blt (c.slipw.toNat + c.ex.lines) c.ea.lines then 0x10 else 0
  | some .rendezvous, .A => if c.ea.heldRvz then 0x10 else 0
  | some .crossing, _ => 0x20
  | _, _ => 0

/-- Whether a wait-map byte names a queue, bq or a token FIFO. -/
def queueWait (b : Nat) : Bool := b == 1 || b == 2 || b == 4 || b == 8

/-- Whether a queue, bq or a token FIFO holds anything. -/
def Ctx.queuesHold (c : Ctx) : Bool :=
  c.lq.toList.any (· != []) || c.sq.toList.any (· != []) || c.bq != [] || c.tokAX != 0 || c.tokXA != 0

/-- DEADLOCK, if the two engines stand still against each other. -/
def Ctx.deadlock (c : Ctx) : Option FaultInfo :=
  let a := c.waitByte .A
  let x := c.waitByte .X
  if (queueWait a && queueWait x) || (a == 0x20 && x == 0x20 && c.ea.lines == c.ex.lines && c.queuesHold) then
    some { cls := 5, cause := 1, addr := c.ea.pc.toNat, d1 := a + 256 * x }
  else none

/-- SLIP, if the slip window or a rendezvous holds the A-engine and the X-engine waits for what only the A-engine gives. -/
def Ctx.slipStall (c : Ctx) : Option FaultInfo :=
  let a := c.waitByte .A
  let x := c.waitByte .X
  let fed := match c.ex.waiting with | some .tokenRoom => false | _ => x == 1 || x == 4 || x == 8
  if a == 0x10 && fed then some { cls := 7, cause := 3, addr := c.ea.pc.toNat, d1 := a + 256 * x } else none

/-- Raises a progress fault of a running context, if one holds. -/
def State.raiseIf (s : State) (loom : Nat) (ev : Bool) (f : Ctx → Option FaultInfo) : Option State :=
  let c := s.ctxAt loom ev
  if c.act = .running then (f c).map (s.raiseSequencer loom ev) else none

/-- QUEUE_DEADLOCK. -/
def execQueueDeadlock (loom : Nat) (ev : Bool) (s : State) := s.event (s.raiseIf loom ev Ctx.deadlock)
/-- SLIP_STALL. -/
def execSlipStall (loom : Nat) (ev : Bool) (s : State) := s.event (s.raiseIf loom ev Ctx.slipStall)

/-- The sequencers look for a standstill whenever an engine is held (DEDUCED, log 55). -/
def State.checkStandstill (s : State) (e : Sel) : State :=
  ((s.raiseIf e.loom e.ev Ctx.deadlock).or (s.raiseIf e.loom e.ev Ctx.slipStall)).getD s

/-! ## Waits -/

/-- An engine held by BAR.WAIT: it is parked at the barrier, and at a peer it asks for the barrier's phase (R181). -/
def State.parkAt (s : State) (e : Sel) (pa phase raw : Nat) : State :=
  let c := s.ctxAt e.loom e.ev
  let first := c.barWait.isNone
  let s := s.setCtxAt e.loom e.ev { c with barWait := some (pa, phase, raw) }
  match place (BitVec.ofNat 64 raw) with
  | some (.peer q va) =>
    if q ≠ c.peer ∧ first ∧ !c.barSeen.any (fun x => x.1 == raw) then
      let r : Request := { rtag := s.nextTag, peer := c.peer, dpeer := q, loom := e.loom, ev := e.ev,
                           owner := .barrier raw, flit := noFlit, kind := 0 }
      { s with requests := s.requests ++ [r], nextTag := (s.nextTag + 1) % 65536,
               out := s.out ++ [Output.object q s.nextTag .barTest va] }
    else s
  | _ => s

/-- An instruction that reads memory before it can issue (BOB.ARM, SUSP.MK): the read goes out as a load of its stream, once, and
the instruction waits for its data. -/
def State.fetchOperand (s : State) (e : Sel) (st a len : Nat) : State :=
  let c := s.ctxAt e.loom e.ev
  if c.accs.any (fun x => x.dest == .operand && x.obj == some a) then s
  else
    match s.checkRun e.who e.loom c.peer .load 0 0 (BitVec.ofNat 64 a) len with
    | .error _ => s
    | .ok sps =>
      let st : BitVec 4 := BitVec.ofNat 4 st
      let acc : Access := { id := c.nextId, kind := .load, stream := st, spans := sps, dest := .operand, len := len, obj := some a,
                            line := c.ea.pc.toNat, lane := c.ea.lane, word := c.ea.word, issued := s.nextStamp }
      ({ s with nextStamp := s.nextStamp + 1 }.setCtxAt e.loom e.ev { c with accs := c.accs ++ [acc], nextId := c.nextId + 1 }).pump e.loom e.ev

/-- What else an engine's wait does: a walk is asked for, YIELD starts to count, a barrier takes a waiter, and in determinate
mode WAIT.C counts cycles while the counters, leaving as they are scheduled, do not meet its limits (R65, R171, R181, R307). -/
def State.waitEffect (s : State) (e : Sel) (w : Wait) : State :=
  let c := s.ctxAt e.loom e.ev
  match w with
  | .walk va => s.requestWalk (panelOf e.loom) e.who c.peer va
  | .yielding => s.setCtxAt e.loom e.ev { c with yielding := some (c.yielding.getD false) }
  | .barrier pa phase raw => s.parkAt e pa phase raw
  | .operand st a len => s.fetchOperand e st a len
  | .room o => s.arrivalWaits c.peer o
  | .waitC nl ns nc nt =>
    let counted (k : Counter) : Nat := (c.outs.filter (fun o => o.ctr == k && (match o.due with
      | some d => Nat.blt c.detCyc d | none => true))).length
    if s.determinate c && !meetsLimits nl ns nc nt counted && !c.detHeld then s.setCtxAt e.loom e.ev c.tickDet else s
  | _ => s

/-- Whether a cycle of a wait counts for the landing of results: at a mode crossing, at the rendezvous of RETT, CTX.SAVE and
CTX.LOAD, and at a scoreboard dependence, which ends when the result has landed (R9, R36, R37, R306; DEDUCED, log 24). A wait for a
queue, bq, a token, the slip window, a walk, a rendezvous or YIELD is no engine cycle (R36, R65, R231, R307). -/
def Wait.counts (w : Wait) : Bool :=
  match w with
  | .reg | .crossing | .context => true
  | _ => false

/-- An engine is held. -/
def State.hold (s : State) (e : Sel) (w : Wait) : State :=
  let s := s.waitEffect e w
  let c := s.ctxAt e.loom e.ev
  let c := c.setEng e.eng { c.eng e.eng with waiting := some (c.keepWait w) }
  let c := if w.counts then c.passCycle e.eng else c
  ({ s.setCtxAt e.loom e.ev c with disp := .waits w }).checkStandstill e

/-! ## Lanes -/

/-- What becomes of a line's lanes: all issued, one that waits, one that faults, or a stop of the model. -/
inductive Lanes where
  | issued (s : State) | waits (s : State) (w : Wait) | faults (s : State) (o : LaneOp) (f : FaultInfo)
  | stops (r : Host.Outcome State Fault Refusal)

/-- Issues lanes in order, until the engine ends its stream or a lane does not issue. -/
def State.runLanes (ex : Meaning) (e : Sel) : List LaneOp → State → Lanes
  | [], s => .issued s
  | o :: r, s =>
    let c := s.ctxAt e.loom e.ev
    let at' := s.setCtxAt e.loom e.ev (c.setEng e.eng { c.eng e.eng with lane := o.lane, word := o.word })
    match ex o.instr { at' with disp := .idle } with
    | .next t =>
      match t.disp with
      | .waits w => .waits at' w
      | .faults f => .faults at' o f
      | _ =>
        let c := t.ctxAt e.loom e.ev
        let g := c.eng e.eng
        if g.ended || !g.inLine then .issued t
        else State.runLanes ex e r (t.setCtxAt e.loom e.ev (c.setEng e.eng { g with lane := o.lane + 1, waiting := none }))
    | out => .stops out

/-- A precise fault of a lane. -/
def State.laneFault (s : State) (e : Sel) (o : LaneOp) (f : FaultInfo) : State :=
  { s.raisePrecise e o.lane o.word o.stream f with disp := .faults f }

/-- After a line's last lane. -/
def State.afterLanes (s : State) (e : Sel) (l : Line) : State :=
  match s.endLine e l with
  | .ok t => { t with disp := .issued }
  | .error none =>
    let c := s.ctxAt e.loom e.ev
    (s.setCtxAt e.loom e.ev (c.setEng e.eng { c.eng e.eng with lane := 8 })).hold e .bq
  | .error (some x) => { s.raisePrecise e 0 0 0 { cls := 5, cause := 3, d1 := x.kind } with disp := .faults { cls := 5, cause := 3 } }

/-- An engine goes on in a line that it has started: the next lane of a scoreboard line, or all lanes of an exposed line
together, none of which issues unless all can (R36, R344). `before` is the state to which a line that does not issue goes
back. A context that was stopped or reloaded by its own lane is left as it is. -/
def State.goOn (ex : Meaning) (before s : State) (e : Sel) (l : Line) : Host.Outcome State Fault Refusal :=
  let g := (s.ctxAt e.loom e.ev).eng e.eng
  let ops := (l.opsFor e.eng).filter (fun o => Nat.ble g.lane o.lane)
  let now := if l.exposed then ops else ops.take 1
  match State.runLanes ex e now s with
  | .issued t =>
    let c := t.ctxAt e.loom e.ev
    let g := c.eng e.eng
    if !g.inLine ∨ c.act ≠ .running then .next { t with disp := .issued }
    else if g.ended ∨ l.exposed ∨ ops.length ≤ 1 then .next (t.afterLanes e l)
    else .next { t with disp := .issued }
  | .waits t w => .next ((if l.exposed then before else t).hold e w)
  | .faults t o f => .next ((if l.exposed then before else t).laneFault e o f)
  | .stops r => r

/-! ## Starting a line -/

/-- What holds an engine at the start of its next line, before the line is fetched (R32, R154, R231). -/
def Ctx.startHeld (c : Ctx) (e : Eng) : Option Wait :=
  match e with
  | .A =>
    if c.ea.heldRvz then some .rendezvous
    else if c.slipw.toNat + c.ex.lines < c.ea.lines then some .slip
    else if c.detHeld then some .data
    else none
  | .X =>
    if c.ex.heldCtx then some .context
    else if c.ea.lines + 256 ≤ c.ex.lines then some .lead
    else none

/-- Whether an engine may cross modes (R37). -/
def Ctx.mayCross (c : Ctx) (e : Eng) : Bool :=
  !c.inFlight.any (·.eng == e) && !c.queuesHold && c.resAX == 0 && c.resXA == 0
    && Nat.ble (c.eng e).lines (c.eng e.other).lines

/-- Whether the line that an engine is about to start is the 2,048th without a SAFEPT (R44, R305, R361). -/
def Ctx.overrun (c : Ctx) (ev : Bool) (e : Eng) (l : Line) : Bool :=
  (!ev || c.tframe != 0) && Nat.ble 2047 (c.eng e).lineCount && !l.exempt (c.tframe != 0)

/-- The OVERRUN fault, a sequencer fault at the line. -/
def overrunFault (g : Engine) : FaultInfo := { cls := 7, cause := 1, addr := g.pc.toNat, d1 := g.lineCount + 1 }

/-- A line that the engine has reached and decoded starts. -/
def State.startLine (ex : Meaning) (s : State) (e : Sel) (l : Line) : Host.Outcome State Fault Refusal :=
  let c := s.ctxAt e.loom e.ev
  let g := c.eng e.eng
  if c.overrun e.ev e.eng l then .next { s.raiseSequencer e.loom e.ev (overrunFault g) with disp := .faults (overrunFault g) }
  else if g.ran ∧ g.mode ≠ l.exposed ∧ !c.mayCross e.eng then .next (s.hold e .crossing)
  else if c.dataHeld e.eng then .next (s.hold e .data)
  else
    let c := c.land e.eng
    let g := c.eng e.eng
    State.goOn ex s (s.setCtxAt e.loom e.ev (c.setEng e.eng
      { g with mode := l.exposed, inLine := true, waiting := none, began := (c.inFlight.length, c.nextId) })) e l

/-- The engine at its line: fetch, decode, and on. -/
def State.tryLine (ex : Meaning) (s : State) (e : Sel) : Host.Outcome State Fault Refusal :=
  let c := s.ctxAt e.loom e.ev
  let g := c.eng e.eng
  match s.fetchLine c.peer g.pc.toNat with
  | .stop (.wait w) => .next (s.hold e w)
  | .stop (.fault f) => .next { s.raisePrecise e 0 0 0 f with disp := .faults f }
  | .bad s f => .next { s.raisePrecise e 0 0 0 f with disp := .faults f }
  | .words s ws =>
    match decodeLine ws with
    | .error x =>
      let f : FaultInfo := { cls := 1, cause := x.cause.code, d1 := x.detail }
      .next { s.raisePrecise e x.lane x.word 0 f with disp := .faults f }
    | .ok l =>
      if g.inLine then
        if g.lane = 8 then .next (s.afterLanes e l) else State.goOn ex s s e l
      else State.startLine ex s e l

/-- A move of an engine of a context (R31): it issues its next lane or line, or is held. -/
def State.issueCtx (ex : Meaning) (s : State) (e : Sel) : Host.Outcome State Fault Refusal :=
  let s := { s with cur := e }
  let c := s.ctxAt e.loom e.ev
  let g := c.eng e.eng
  if c.act ≠ .running then .next { s with disp := .waits .context }
  else if g.ended then .next { s with disp := .waits .ended }
  else if g.inLine then State.tryLine ex s e
  else if g.stoppedSafept && g.lane == 1 then .next { s with disp := .waits .safept }
  else
    match c.startHeld e.eng with
    | some w => .next (s.hold e w)
    | none => State.tryLine ex s e

/-! ## The two contexts of a loom (R42) -/

/-- How many more lines an engine gives the pick context before a waiting evaluation. -/
def Loom.share (l : Loom) (e : Eng) : Nat := match e with | .A => l.shareA | .X => l.shareX
/-- Replaces that number. -/
def Loom.setShare (l : Loom) (e : Eng) (n : Nat) : Loom := match e with | .A => { l with shareA := n } | .X => { l with shareX := n }

/-- Whether the context of a move holds priority in its engine: the evaluator context while an evaluation runs in it, but the pick
context first while it has lines left to it. -/
def State.priority (s : State) (e : Sel) : Bool :=
  e.ev == ((s.ctxAt e.loom true).act == .running && (s.loom e.loom).share e.eng == 0)

/-- Whether a move of an engine would issue. -/
def State.canGo (ex : Meaning) (s : State) (e : Sel) : Bool :=
  match State.issueCtx ex s e with
  | .next t => (match t.disp with | .issued | .faults _ => true | _ => false)
  | _ => true

/-- After a move of an engine while the pick context keeps priority: a line that the pick context has executed is counted, and it loses
priority when its next line cannot start, so also when the evaluator context issues. -/
def State.spendShare (s t : State) (e : Sel) : State :=
  let n := (t.loom e.loom).share e.eng
  if n = 0 then t
  else if e.ev then (if t.disp = .issued then t.setLoom e.loom ((t.loom e.loom).setShare e.eng 0) else t)
  else
    let left := match t.disp with
      | .issued => if ((s.ctxAt e.loom false).eng e.eng).lines < ((t.ctxAt e.loom false).eng e.eng).lines then n - 1 else n
      | .waits _ => 0
      | _ => n
    t.setLoom e.loom ((t.loom e.loom).setShare e.eng left)

/-- A move of an engine (R42): an engine executes a line of the context without priority only if the other context's next line cannot
start. -/
def State.issue (ex : Meaning) (s : State) (e : Sel) : Host.Outcome State Fault Refusal :=
  let other : Sel := ⟨e.loom, !e.ev, e.eng⟩
  if (s.ctxAt e.loom (!e.ev)).act == .running && !s.priority e && State.canGo ex s other then
    .next { s with cur := e, disp := .waits .context }
  else
    match State.issueCtx ex s e with
    | .next t => .next (s.spendShare t e)
    | r => r

/-- SAFEPT_OVERRUN: the engine stands at the start of a line that its loom holds, and the count reaches 2,048 there. -/
def State.safeptOverrun (s : State) (loom : Nat) (ev : Bool) (e : Eng) : Option State :=
  let c := s.ctxAt loom ev
  let g := c.eng e
  match SMap.find? (s.loom loom).icache g.pc.toNat with
  | none => none
  | some ws =>
    match decodeLine ws with
    | .error _ => none
    | .ok l =>
      if c.act = .running ∧ !g.inLine ∧ !g.ended ∧ !g.stoppedSafept ∧ (c.startHeld e).isNone ∧ c.overrun ev e l then
        some (s.raiseSequencer loom ev (overrunFault g))
      else none

/-- SAFEPT_OVERRUN. -/
def execSafeptOverrun (loom : Nat) (ev : Bool) (xEng : Bool) (s : State) :=
  s.event (s.safeptOverrun loom ev (if xEng then .X else .A))

/-- Lands the results of an engine that are due first, without an engine cycle. -/
def Ctx.landFirst (c : Ctx) (e : Eng) : Ctx :=
  let mine := c.inFlight.filter (fun r => r.eng == e && r.awaiting == none)
  let first := mine.foldl (fun n r => Nat.min n r.due) ((mine.head?.map (·.due)).getD 0)
  let now (r : Result) : Bool := r.eng == e && r.awaiting == none && r.due == first
  (c.inFlight.filter now).foldl Ctx.landOne { c with inFlight := c.inFlight.filter (fun r => !now r) }

/-- REGISTER_RESULT_LAND: in scoreboard mode a result lands in the cycle of its declared latency also while its engine waits, and
after the end of its engine's stream; no engine cycle is counted for it (R9, R36, R350; DEDUCED, log 24). -/
def State.resultLand (s : State) (loom : Nat) (ev : Bool) (e : Eng) : Option State :=
  let c := s.ctxAt loom ev
  let g := c.eng e
  if c.act = .running ∧ (g.ended ∨ !g.mode ∧ g.waiting.isSome) ∧ c.inFlight.any (fun r => r.eng == e && r.awaiting == none) then
    some (s.setCtxAt loom ev (c.landFirst e))
  else none

/-- REGISTER_RESULT_LAND. -/
def execRegisterResultLand (loom : Nat) (ev : Bool) (xEng : Bool) (s : State) :=
  s.event (s.resultLand loom ev (if xEng then .X else .A))

/-- DECLARED_COMPLETION (R170): in determinate mode the completed operations whose declared cycle has come leave their counters.
The count of R170 moves with the lines and WAIT.C of the A-engine. -/
def State.declaredCompletion (s : State) (loom : Nat) (ev : Bool) : Option State :=
  let c := s.ctxAt loom ev
  if c.outs.any (fun o => o.completed && (match o.due with | some d => Nat.ble d c.detCyc | none => true)) then
    some (s.setCtxAt loom ev c.leaveDue)
  else none

/-- DECLARED_COMPLETION. -/
def execDeclaredCompletion (loom : Nat) (ev : Bool) (s : State) := s.event (s.declaredCompletion loom ev)

/-! ## One instruction in a line -/

/-- The eight words of a line that holds the instruction of these words with as many empty lanes as it needs, and with the
branch partner that R231 asks for. -/
def soloLine (e : Words) (i : Instr) : List W32 :=
  let pad (ws : List W32) : List W32 := (ws ++ List.replicate 8 0).take 8
  match i with
  | .br _ off => pad [0x21, e.word, pBC ⟨false, false⟩ 0x1D 0 4 (off.setWidth 12)]
  | .beq .. | .bne .. | .blt .. | .bge .. | .bltu .. | .bgeu .. =>
    pad [0x21, e.word, pBL ⟨false, false⟩ 0x1B (BitVec.ofInt 24 ((e.word.extractLsb' 0 12 : BitVec 12).toInt))]
  | .brq _ off => pad [0x12, e.word, pBC ⟨false, false⟩ 0x11 0 0 (off.setWidth 12)]
  | _ => pad (soloHeader e.space e.exts.length :: e.word :: e.exts)

end Sys2Proof.Machine
end

