-- ==== Sys2Proof/Machine/Area.lean ====
section
/-!
DEFINITION. Context areas and fault frames (R311, R347 to R355), entering a handler and leaving it (R305, R306), saving and
loading a context (R308 to R310), and pre-emption's save and reload (R45, R312, R313, R352).
-/

namespace Sys2Proof.Machine

/-! ## Descriptors (R349) -/

/-- DKIND and DREG of a destination. -/
def Dest.code : Dest → Nat × Nat
  | .none => (0, 0)
  | .a r => (0, r.toNat)
  | .s r => (0, r.toNat)
  | .v r => (1, r.toNat)
  | .k r => (2, r.toNat)
  | .sq q _ _ => (3, 36 + q.toNat)

/-- The destination that DKIND, DREG, BYTES and the engine name; none if R120 does not admit it. -/
def Dest.ofCode (e : Eng) (kind reg bytes : Nat) : Option Dest :=
  match e, kind with
  | .A, 0 => some (.a (BitVec.ofNat 6 reg))
  | .A, _ => none
  | .X, 0 => if reg < 32 then some (.s (BitVec.ofNat 5 reg)) else none
  | .X, 1 => if reg < 32 then some (.v (BitVec.ofNat 5 reg)) else none
  | .X, 2 => if reg < 8 then some (.k (BitVec.ofNat 3 reg)) else none
  | .X, _ => if reg = 36 ∨ reg = 37 then some (.sq (BitVec.ofNat 1 (reg - 36)) bytes .none) else .none

/-- Engine cycles until a result lands (R351). -/
def Ctx.remain (c : Ctx) (r : Result) : Nat := Nat.max 1 (r.due - (c.eng r.eng).cyc)

/-- The 16 bytes of a descriptor whose value slot, if it has one, is `slot`. -/
def Ctx.descriptor (c : Ctx) (r : Result) (slot : Nat) : Nat :=
  let (kind, reg) := r.dest.code
  let value := if r.dest.wide then slot else match r.dest with | .s _ => r.value.toNat % 2 ^ 32 | _ => r.value.toNat % 2 ^ 64
  let len := match r.dest with | .sq _ n _ => n | _ => 0
  value * 2 ^ 64 + (c.remain r % 2 ^ 20) * 2 ^ 44 + 2 ^ 43 + (if r.eng = .X then 2 ^ 42 else 0)
    + (if r.failed then 2 ^ 41 else 0) + (if r.post then 2 ^ 40 else 0) + r.flags.toNat * 2 ^ 34 + kind * 2 ^ 32
    + reg * 2 ^ 26 + (len % 4096) * 2 ^ 14

/-- The bytes that a value slot holds for a destination. -/
def Dest.slotLen : Dest → Nat
  | .k _ => 256
  | .sq _ n _ => n
  | _ => 2048

/-- A value slot's 2 KiB. -/
def slotBytes (r : Result) : List Byte := leBytes 2048 (r.value.toNat % 2 ^ (8 * r.dest.slotLen))

/-- The results in flight, each with the value slot it takes: slots go to the wide ones in order (DEDUCED, log 54). -/
def withSlots : List Result → (next : Nat) → List (Result × Nat)
  | [], _ => []
  | r :: rest, n => (r, n) :: withSlots rest (if r.dest.wide then n + 1 else n)

/-- The descriptors and value slots of a context as pieces of the frame slot. -/
def Ctx.landingPieces (c : Ctx) : List (Nat × List Byte) :=
  let rs := withSlots c.inFlight 0
  (rs.zipIdx.map (fun x => (0x100 + 16 * x.2, leBytes 16 (c.descriptor x.1.1 x.1.2))))
    ++ (rs.filter (·.1.dest.wide)).map (fun x => (0x1000 + 2048 * x.2, slotBytes x.1))

/-! ## Areas (R311) -/

/-- Which registers an area's masks mark (R43). -/
structure Masks where
  id : Nat
  a : W64
  s : W32
  v : W32
  k : BitVec 8
  deriving DecidableEq, Repr

/-- Every mask set: the reserved bits of a0, s0 and k0 stay clear (R43, R308, R347) (DEDUCED, log 50). -/
def Masks.all : Masks := { id := 0xFFFFFFFF, a := 0xFFFFFFFFFFFFFFFE, s := 0xFFFFFFFE, v := 0xFFFFFFFF, k := 0xFE }

/-- A queue entry's 2-byte length with its FAILED and PENDING bits (R347). -/
def QEntry.lenWord (e : QEntry) : Nat := e.len % 4096 + (if e.pending then 2 ^ 14 else 0) + (if e.failed then 2 ^ 15 else 0)

/-- The six queues in section order. -/
def Ctx.queues (c : Ctx) : List (List QEntry) := c.lq.toList ++ c.sq.toList

/-- Bytes 0x08 to 0xFF of an area's header (DEDUCED, log 51). -/
def Ctx.header (c : Ctx) (nextA nextX : W64) (m : Masks) : List Byte :=
  let loop (g : Engine) : List Byte := (g.lc.toList ++ g.ln.toList).flatMap bytes32
  leBytes 8 nextA.toNat ++ leBytes 8 nextX.toNat ++ leBytes 4 m.id ++ leBytes 2 c.ea.lineCount ++ leBytes 2 c.ex.lineCount
    ++ leBytes 8 m.a.toNat ++ leBytes 4 m.s.toNat ++ leBytes 4 m.v.toNat ++ leBytes 8 m.k.toNat
    ++ leBytes 8 (c.ea.depth + 256 * c.ex.depth) ++ loop c.ea ++ loop c.ex
    ++ bytes32 c.vshape ++ leBytes 4 c.flags.toNat ++ bytes32 c.ftx ++ leBytes 4 c.slipw.toNat ++ leBytes 8 c.g.toNat
    ++ leBytes 1 c.tokAX ++ leBytes 1 c.tokXA ++ (c.queues.map (fun q => BitVec.ofNat 8 q.length)) ++ leBytes 1 c.bq.length
    ++ List.replicate 15 0
    ++ c.queues.flatMap (fun q => (List.range 8).flatMap (fun i => leBytes 2 ((q[i]?.map QEntry.lenWord).getD 0)))

/-- An entry of bq as 8 bytes (R311). -/
def BqEntry.word : BqEntry → Nat
  | .outcome b => if b then 1 else 0
  | .count n => 2 ^ 62 + n
  | .redirect t => 2 ^ 63 + t.toNat % 2 ^ 62

/-- The register and queue sections as pieces: the registers that the masks mark, or every register. -/
def Ctx.sections (c : Ctx) (m : Masks) (every : Bool) : List (Nat × List Byte) :=
  let pick (n : Nat) (live : Nat → Bool) (f : Nat → Nat × List Byte) : List (Nat × List Byte) :=
    ((List.range n).filter (fun i => every || live i)).map f
  pick 64 m.a.getLsbD (fun i => (0x100 + 8 * i, leBytes 8 (c.aVal (BitVec.ofNat 6 i)).toNat))
    ++ pick 32 m.s.getLsbD (fun i => (0x300 + 4 * i, bytes32 (c.sVal (BitVec.ofNat 5 i))))
    ++ pick 8 m.k.getLsbD (fun i => (0x400 + 256 * i, leBytes 256 (c.kVal (BitVec.ofNat 3 i)).toNat))
    ++ pick 32 m.v.getLsbD (fun i => (0x1000 + 2048 * i, leBytes 2048 ((c.v.toList.getD i 0).toNat)))
    ++ [(0xC00, (List.range 64).flatMap (fun i => leBytes 8 ((c.bq[i]?.map BqEntry.word).getD 0)))]
    ++ c.queues.zipIdx.flatMap (fun x => (List.range 8).map (fun i =>
        (0x11000 + 0x4000 * x.2 + 2048 * i, ((x.1[i]?).map (fun e => e.bytes 2048)).getD (List.replicate 2048 0))))
    ++ [(0x29000, List.replicate 0x7000 0)]

/-- Writes pieces at a virtual base. -/
def State.putPieces (s : State) (p : Partition) (base : Nat) (ps : List (Nat × List Byte)) : State :=
  ps.foldl (fun s x => s.writeVa p (base + x.1) x.2) s

/-- Keeps what an area has no place for (DEDUCED, log 9). -/
def Ctx.keep (c : Ctx) (area : Nat) : Ctx :=
  { c with kept := SMap.set c.kept area { bodiesA := c.ea.bodies, bodiesX := c.ex.bodies, rvz := c.rvz } }

/-! ## The fault frame (R347, R348) -/

/-- The header word of a line as a loom could fetch it: from its instruction cache, else from memory where the page has X and the line
no error. -/
def State.headerAt (s : State) (loom peer pc : Nat) : Option W32 :=
  match SMap.find? (s.loom loom).icache pc with
  | some ws => ws.head?
  | none =>
    if 2 ^ 48 ≤ pc then none
    else ((s.part? peer).bind (fun p => s.translateNow p pc)).bind (fun x =>
      let (_, bs, f) := s.readSpan { pa := x.1, va := pc, len := 32, off := 0, attrs := x.2 }
      if MemOp.fetch.inPage x.2 && f.isNone then (lineWords bs).head? else none)

/-- The region mode that PMODE gives: of the line last executed, else of the resume line, or 0 when that line cannot be fetched. -/
def State.pmode (s : State) (loom peer : Nat) (g : Engine) : Nat :=
  if g.ran || g.inLine then (if g.mode then 1 else 0)
  else match s.headerAt loom peer g.pc.toNat with
    | some w => if w.getLsbD 28 then 1 else 0
    | none => 0

/-- The lowest lane of its line that an engine has not issued. -/
def Engine.resumeLane (g : Engine) : Nat := Nat.max 1 (Nat.min 7 g.lane)

/-- The pieces of a frame slot for a fault. -/
def State.framePieces (s : State) (loom : Nat) (c : Ctx) (st : StopInfo) : List (Nat × List Byte) :=
  let f := st.fault
  let slip := BitVec.ofInt 16 ((c.ea.lines : Int) - (c.ex.lines : Int))
  let head := leBytes 4 1 ++ leBytes 2 (f.cls * 256 + f.cause) ++ leBytes 1 f.src
    ++ leBytes 1 ((if f.precise then 1 else 0) + (if f.remote then 2 else 0))
    ++ leBytes 8 c.ea.pc.toNat ++ leBytes 8 c.ex.pc.toNat ++ leBytes 1 c.ea.resumeLane ++ leBytes 1 c.ex.resumeLane
    ++ leBytes 2 slip.toNat ++ leBytes 2 c.inFlight.length ++ leBytes 1 (s.pmode loom c.peer c.ea) ++ leBytes 1 (s.pmode loom c.peer c.ex)
    ++ leBytes 8 f.addr ++ leBytes 8 f.line ++ leBytes 1 f.lane ++ leBytes 1 f.stream
    ++ leBytes 2 (st.rseq.getD 0).toNat ++ leBytes 12 0 ++ leBytes 8 f.d0 ++ leBytes 8 f.d1 ++ leBytes 8 f.d2 ++ leBytes 8 f.d3
    ++ List.replicate 160 0
  [(0, head), (0x100, List.replicate 512 0), (0x300, List.replicate 0xD00 0)] ++ c.landingPieces

/-- Where the frame slot lies in an area. -/
def slotOffset : Nat := 0x30000

/-- Writes the frame of a stopped context: the save sections, the header but for KIND and its CRC, and the slot. -/
def State.writeFrame (s : State) (loom : Nat) (ev : Bool) (st : StopInfo) : State :=
  let c := s.ctxAt loom ev
  match s.part? c.peer with
  | none => s
  | some p =>
    let base := s.ctxBase loom ev
    let s := s.putPieces p base ((8, c.header c.ea.pc c.ex.pc Masks.all) :: c.sections Masks.all true)
    let s := s.putPieces p (base + slotOffset) (s.framePieces loom c st)
    s.setCtxAt loom ev (c.keep base)

/-! ## Entering a handler (R305) -/

/-- A context at a line in the state of R25: its identity, its system registers and its control registers PICKTAG, PASS, WVER,
GANGID and SLIPW are kept. -/
def Ctx.startAt (c : Ctx) (pc : W64) : Ctx :=
  { c with a := Vector.replicate 64 0, s := Vector.replicate 32 0, v := Vector.replicate 32 0, k := Vector.replicate 8 0,
           vshape := 0x200, flags := 0, ftx := 3, g := 0, ftbase := 3,
           ea := { pc := pc, safepts := c.ea.safepts }, ex := { pc := pc, safepts := c.ex.safepts },
           lq := Vector.replicate 4 [], sq := Vector.replicate 2 [], bq := [], tokAX := 0, tokXA := 0, resAX := 0, resXA := 0,
           inFlight := [], ahead := [], rvz := [], barWait := none, barSeen := none,
           operands := [], yielding := none }

/-- Whether the outstanding counters are at zero, counting what determinate mode still holds back as complete, and every
register load has its data or has failed (R45, R305) (DEDUCED, log 18) (DEDUCED, log 49). -/
def Ctx.drained (c : Ctx) : Bool := c.outs.all (·.completed) && c.inFlight.all (·.awaiting.isNone)

/-- HANDLED_FAULT_ENTRY: the frame, TFRAME and TCAUSE, and both engines at TVEC with a1 and a2 (R305). -/
def State.handledEntry (s : State) (loom : Nat) (ev : Bool) : Option State :=
  let c := s.ctxAt loom ev
  match c.stop with
  | none => none
  | some st =>
    if c.act ≠ .stopped ∨ !st.handled ∨ !c.drained then none
    else
      let s := s.writeFrame loom ev st
      let frame := BitVec.ofNat 64 (s.ctxBase loom ev + slotOffset)
      let cause : W64 := BitVec.ofNat 64 (st.fault.cls * 256 + st.fault.cause)
      let c := (s.ctxAt loom ev).startAt (c.tvec &&& 0xFFFFFFFFFFFFFFE0)
      some (s.setCtxAt loom ev { c with act := .running, stop := none, more := [], tframe := frame, tcause := cause, outs := [],
                                        a := (c.a.set 1 frame).set 2 cause })

/-- HANDLED_FAULT_ENTRY. -/
def execHandledFaultEntry (loom : Nat) (ev : Bool) (s : State) := s.event (s.handledEntry loom ev)

/-- UNHANDLED_FAULT_STOP (R356 to R358): the frame is written unless TFRAME is not 0, the context executes what it has queued and
does not run again; an evaluation that it runs, or carries as an E pick, fails. -/
def State.unhandledStop (s : State) (loom : Nat) (ev : Bool) : Option State :=
  let c := s.ctxAt loom ev
  match c.stop with
  | none => none
  | some st =>
    if c.act ≠ .stopped ∨ st.handled ∨ !c.drained then none
    else
      let s := if c.tframe = 0 then s.writeFrame loom ev st else s
      let s := s.setCtxAt loom ev { s.ctxAt loom ev with act := .draining, faulted := true }
      let carried := ((s.part? c.peer).bind (fun p => p.picks.find? (fun k => some k.id == c.pick))).bind (·.evalHead)
      let head := if ev then c.eval.map (·.head) else carried
      some { s with evals := s.evals.map (fun r =>
        if head = some r.head ∧ !r.filled ∧ r.failing = 0 then { r with failing := 1 } else r) }

/-- UNHANDLED_FAULT_STOP. -/
def execUnhandledFaultStop (loom : Nat) (ev : Bool) (s : State) := s.event (s.unhandledStop loom ev)

/-! ## Reading an area back -/

/-- Bytes of an area or a slot by offset and length. -/
abbrev Reader := Nat → Nat → List Byte

/-- Reads from a virtual base; what does not translate reads as zero. -/
def State.reader (s : State) (p : Partition) (base : Nat) : Reader := fun off n =>
  (s.readVa p (base + off) n).getD (List.replicate n 0)

/-- The number at an offset. -/
def Reader.num (rd : Reader) (off n : Nat) : Nat := leNat (rd off n)

/-- A saved bq entry; none for kind 0b11. A redirect entry names a line, so its target's bits [4:0] read as zero (R112;
DEDUCED, log 137). -/
def BqEntry.ofWord (x : Nat) : Option BqEntry :=
  match x / 2 ^ 62 with
  | 0 => some (.outcome (x.testBit 0))
  | 1 => some (.count (x % 2 ^ 62))
  | 2 => some (.redirect (BitVec.ofNat 64 (x % 2 ^ 62 / 32 * 32)))
  | _ => none

/-- The saved bq: at most 64 entries (DESIGN CHOICE, log 25). -/
def Reader.bq (rd : Reader) : Option (List BqEntry) :=
  (List.range (Nat.min 64 (rd.num 0x90 1))).mapM (fun i => BqEntry.ofWord (rd.num (0xC00 + 8 * i) 8))

/-- A saved queue by its place in section order: at most 8 entries (DESIGN CHOICE, log 25). -/
def Reader.queue (rd : Reader) (n : Nat) : List QEntry :=
  (List.range (Nat.min 8 (rd.num (0x8A + n) 1))).map (fun i =>
    let w := rd.num (0xA0 + 16 * n + 2 * i) 2
    { data := BitVec.ofNat 16384 (rd.num (0x11000 + 0x4000 * n + 2048 * i) 2048), len := w % 4096, pending := w.testBit 14,
      failed := w.testBit 15 })

/-- The loop state of an engine from a header, whose bodies the loom kept. -/
def Reader.loops (rd : Reader) (g : Engine) (depthOff lcOff : Nat) (bodies : List (Nat × Nat)) : Engine :=
  let w (i : Nat) : W32 := BitVec.ofNat 32 (rd.num (lcOff + 4 * i) 4)
  let d := Nat.min 3 (rd.num depthOff 1)
  { g with depth := d, bodies := bodies.take d, lc := Vector.ofFn (fun i => w i.val), ln := Vector.ofFn (fun i => w (3 + i.val)) }

/-- A context with the state of an area: registers that the masks do not mark are zero (R45, R309), and reserved bits of VSHAPE and
FTX are ignored (R2, R124, R127). A VSHAPE with RLOG 6 or 7 or COLS 0 is taken as it stands: 64 or 128 rows, or no element
(DESIGN CHOICE, log 135). `kept` is what the loom kept beside the area. -/
def Ctx.loadArea (c : Ctx) (rd : Reader) (kept : Kept) : Ctx :=
  let am : W64 := BitVec.ofNat 64 (rd.num 0x20 8)
  let sm : W32 := BitVec.ofNat 32 (rd.num 0x28 4)
  let vm : W32 := BitVec.ofNat 32 (rd.num 0x2C 4)
  let km : BitVec 8 := BitVec.ofNat 8 (rd.num 0x30 1)
  let reg (w : Nat) (i : Nat) (live : Bool) (off : Nat) : BitVec w :=
    if live && i != 0 then BitVec.ofNat w (rd.num off (w / 8)) else 0
  { c with a := Vector.ofFn (fun i => reg 64 i.val (am.getLsbD i.val) (0x100 + 8 * i.val)),
           s := Vector.ofFn (fun i => reg 32 i.val (sm.getLsbD i.val) (0x300 + 4 * i.val)),
           v := Vector.ofFn (fun i => if vm.getLsbD i.val then BitVec.ofNat 16384 (rd.num (0x1000 + 2048 * i.val) 2048) else 0),
           k := Vector.ofFn (fun i => reg 2048 i.val (km.getLsbD i.val) (0x400 + 256 * i.val)),
           vshape := BitVec.ofNat 32 (rd.num 0x70 4 % 2 ^ 15), flags := BitVec.ofNat 6 (rd.num 0x74 4),
           pickFlags := c.pickFlags ||| BitVec.ofNat 6 (rd.num 0x74 4), ftx := BitVec.ofNat 32 (rd.num 0x78 4 % 2 ^ 8), slipw := BitVec.ofNat 8 (rd.num 0x7C 4), g := BitVec.ofNat 64 (rd.num 0x80 8),
           tokAX := Nat.min 32 (rd.num 0x88 1), tokXA := Nat.min 32 (rd.num 0x89 1), resAX := 0, resXA := 0,
           lq := Vector.ofFn (fun i => rd.queue i.val), sq := Vector.ofFn (fun i => rd.queue (4 + i.val)),
           bq := rd.bq.getD [], inFlight := [], ahead := [], rvz := kept.rvz,
           ea := rd.loops c.ea 0x38 0x40 kept.bodiesA, ex := rd.loops c.ex 0x39 0x58 kept.bodiesX }

/-- An engine about to start a line. -/
def Engine.at' (g : Engine) (pc : W64) (lane : Nat) : Engine :=
  { g with pc := pc &&& 0xFFFFFFFFFFFFFFE0, lane := lane, inLine := false, target := none, skip := none, heldRvz := false,
           heldCtx := false, ended := false, stoppedSafept := false, safeptLine := false, waiting := none }

/-- What the loom kept beside an area. -/
def Ctx.keptFor (c : Ctx) (area : Nat) : Kept := SMap.getD c.kept area { bodiesA := [], bodiesX := [], rvz := [] }

/-! ## The landing list read back (R351, R353) -/

/-- A descriptor from its bits and the slot reader. -/
def readDescriptor (rd : Reader) (x : Nat) : Option Result :=
  let f (lo n : Nat) := (x / 2 ^ lo) % 2 ^ n
  let e : Eng := if x.testBit 42 then .X else .A
  (Dest.ofCode e (f 32 2) (f 26 6) (f 14 12)).map (fun d =>
    { eng := e, dest := d, due := f 44 20, flags := BitVec.ofNat 6 (f 34 6), post := x.testBit 40, failed := x.testBit 41,
      value := if d.wide then BitVec.ofNat 16384 (rd.num (0x1000 + 2048 * f 64 5) d.slotLen) else BitVec.ofNat 16384 (f 64 64) })

/-- The 32 descriptors of a slot, as numbers. -/
def Reader.descriptors (rd : Reader) : List Nat := (List.range 32).map (fun i => rd.num (0x100 + 16 * i) 16)

/-- The first of checks 1 to 5 and 8 of R353 that a frame fails, or the landing list (DEDUCED, log 52). -/
def checkFrame (area slot : Reader) (fkind : Nat) : Except Nat (List Result) :=
  let n := slot.num 0x1C 2
  let ds := slot.descriptors
  let used := ds.take n
  let line (x : Nat) : Bool := Nat.blt x (2 ^ 48) && x % 32 == 0
  let lane (x : Nat) : Bool := Nat.ble 1 x && Nat.ble x 7
  let slots := (used.filter (fun x => (x / 2 ^ 32) % 4 ≠ 0)).map (fun x => x / 2 ^ 64)
  if slot.num 0 4 ≠ fkind then .error 1
  else if 32 < n ∨ !(ds.zipIdx.all (fun x => x.1.testBit 43 == decide (x.2 < n))) then .error 2
  else if used.any (fun x => (x / 2 ^ 44) % 2 ^ 20 == 0) ∨ used.any (fun x => (readDescriptor slot x).isNone)
      ∨ slots.any (fun k => Nat.blt 29 (k % 32)) ∨ (slots.map (· % 32)).eraseDups.length ≠ slots.length then .error 3
  else if used.any (·.testBit 41) ∨ (List.range 6).any (fun q => (area.queue q).any (·.failed)) then .error 4
  else if fkind = 1 ∧ !(line (slot.num 8 8) && line (slot.num 16 8) && lane (slot.num 0x18 1) && lane (slot.num 0x19 1)) then .error 5
  else if area.bq.isNone then .error 8
  else .ok (used.filterMap (readDescriptor slot))

/-- Reinstalls a landing list: engine cycles count anew, so REMAIN is the cycle in which a result lands (R351). -/
def Ctx.reinstall (c : Ctx) (rs : List Result) : Ctx :=
  let posts (e : Eng) : Nat := (rs.filter (fun r => r.eng == e && r.post)).length
  { c with inFlight := rs, resAX := posts .A, resXA := posts .X, ea := { c.ea with cyc := 0 }, ex := { c.ex with cyc := 0 } }

/-! ## RETT (R306, R353, R354) -/

/-- The context without what the lower lanes of the A-engine's exposed line have issued in the same cycle (R36). -/
def Ctx.beforeLine (c : Ctx) : Ctx :=
  if c.exposed .A then
    { c with inFlight := c.inFlight.take c.ea.began.1, outs := c.outs.filter (fun o => Nat.blt o.id c.ea.began.2) }
  else c

/-- Whether the rendezvous of RETT, CTX.SAVE and CTX.LOAD holds: the X-engine has completed the line of the instruction and waits, no
result is in flight and the counters are at zero (R306) (DEDUCED, log 136). -/
def Ctx.atRendezvous (c : Ctx) : Bool :=
  Nat.blt c.ea.lines c.ex.lines && c.beforeLine.inFlight.isEmpty && c.beforeLine.drained

/-- The context fault of a failed check. -/
def contextFault (n : Nat) (bare : Bool) : Stop := .fault { cls := 7, cause := 2, d1 := n, bare := bare }

/-- Whether an engine that resumes had stopped at its k-th SAFEPT for the request that a handled trap deferred (R45, R313). -/
def Ctx.heldAt (c : Ctx) (g : Engine) : Bool := c.req.any (fun r => Nat.ble r.k g.safepts)

/-- The context that a checked frame gives. -/
def Ctx.restart (c : Ctx) (base : Nat) (area slot : Reader) (rs : List Result) : Ctx :=
  let c := (c.loadArea area (c.keptFor base)).reinstall rs
  let d := (BitVec.ofNat 16 (slot.num 0x1A 2)).toInt
  let mode (off : Nat) : Bool := slot.num off 1 % 2 == 1
  let pcA : W64 := BitVec.ofNat 64 (slot.num 8 8)
  let pcX : W64 := BitVec.ofNat 64 (slot.num 16 8)
  let ea := { c.ea.at' pcA (slot.num 0x18 1) with
    lines := d.toNat, lineCount := area.num 0x1C 2, mode := mode 0x1E, ran := true, stoppedSafept := c.heldAt c.ea }
  let ex := { c.ex.at' pcX (slot.num 0x19 1) with
    lines := (-d).toNat, lineCount := area.num 0x1E 2, mode := mode 0x1F, ran := true, stoppedSafept := c.heldAt c.ex }
  { c with ea := ea, ex := ex, ahead := List.replicate d.natAbs none, outs := [] }

/-- RETT. -/
def execRett (t : Tok) (rs1 : BitVec 6) (s : State) :=
  s.command t (fun c => do
    let x ← c.rdA rs1
    check c.atRendezvous (.wait .context)
    check (x == c.tframe && c.tframe != 0) (contextFault 6 true)
    check (!c.queuesHold && c.resAX == (if t.ps then 1 else 0) && c.resXA == 0) (contextFault 7 true)
    match s.part? c.peer with
    | none => .error (contextFault 1 true)
    | some p =>
      let base := s.ctxBase s.cur.loom s.cur.ev
      let area := s.reader p base
      let slot := s.reader p (base + slotOffset)
      match checkFrame area slot 1 with
      | .error n => .error (contextFault n true)
      | .ok rs =>
        let c := { c.restart base area slot rs with tframe := 0 }
        let c := if t.ps then { c with tokAX := c.tokAX + 1 } else c
        let s := (s.setCtx c).writeVa p (base + slotOffset) [0, 0, 0, 0]
        let l := s.loom s.cur.loom
        return s.setLoom s.cur.loom { l with icache := [] })

/-! ## CTX.SAVE and CTX.LOAD (R308 to R310) -/

/-- The spans of an area operand, checked as R308 and R309 ask: aligned, in space 0x0, and on pages with W that are neither compressed,
tagged nor memory-side, to be written or read. -/
def State.areaSpans (s : State) (c : Ctx) (op : MemOp) (a : W64) : Act (List Span) := do
  check (a.toNat % 2 ^ 18 == 0) (faultOf 4 1 a.toNat)
  s.run c op 0x3E 0 a (2 ^ 18)

/-- The pieces of a span list that lie between two offsets of the area. -/
def cutSpans (sps : List Span) (off len : Nat) : List Span :=
  sps.filterMap (fun sp =>
    let lo := Nat.max off sp.off
    let hi := Nat.min (off + len) (sp.off + sp.len)
    if lo < hi then some { sp with pa := sp.pa + (lo - sp.off), va := sp.va + (lo - sp.off), off := lo - off, len := hi - lo } else none)

/-- Writes pieces of an area through its spans, as writes of the context; a memory error is raised against it. -/
def State.savePieces (s : State) (who : Nat × Bool) (sps : List Span) (ps : List (Nat × List Byte)) : State × Option FaultInfo :=
  match ps with
  | [] => (s, none)
  | x :: r =>
    match s.writeSpans x.2 (cutSpans sps x.1 x.2.length) (some who) with
    | (s, some f) => (s, some f)
    | (s, none) => s.savePieces who sps r

/-- The line counts start from zero after the line of the instruction (R310), and the X-engine goes on if it waited. -/
def Ctx.recount (c : Ctx) : Ctx :=
  { c with ea := { c.ea with safeptLine := true },
           ex := if c.ex.heldCtx then { c.ex with heldCtx := false, lineCount := 0 } else { c.ex with safeptLine := true } }

/-- CTX.SAVE: the area with KIND 2, whose a[rd] is 1; then a[rd] is 0. -/
def execCtxSave (t : Tok) (rd rs1 : BitVec 6) (s : State) :=
  s.command t (fun c => do
    let x ← c.rdA rs1
    check c.atRendezvous (.wait .context)
    let sps ← s.areaSpans c .save x
    let next := c.ea.pc + 32
    let saved := c.write (.a rd) 1
    let head := saved.header next next Masks.all
    let kind := leBytes 4 2 ++ leBytes 4 (crc32c head)
    let (s', f) := s.savePieces (s.cur.loom, s.cur.ev) sps ((0, kind ++ head) :: saved.sections Masks.all true)
    let c := ((c.write (.a rd) 0).keep x.toNat).recount
    let s' := s'.setCtx (c.postNow .A t)
    return match f with
      | some f => s'.raiseAsync s.cur.loom s.cur.ev f
      | none => s')

/-- CTX.LOAD: KIND 1 or 2, the CRC, the bq entries; then the saved state under its masks, and both engines at the lines that the
area names (DEDUCED, log 53). -/
def execCtxLoad (t : Tok) (rs1 : BitVec 6) (s : State) :=
  s.command t (fun c => do
    let x ← c.rdA rs1
    check c.atRendezvous (.wait .context)
    let sps ← s.areaSpans c .restore x
    let (s', bs, f) := s.readSpans (cutSpans sps 0 slotOffset)
    match f with
    | some f => return (s'.setCtx c).raiseAsync s.cur.loom s.cur.ev f
    | none => do
      let area : Reader := fun off n => (bs.drop off).take n
      check (area.num 0 4 == 1 || area.num 0 4 == 2) (contextFault 9 false)
      check (area.num 4 4 == crc32c (area 8 248)) (contextFault 10 false)
      check area.bq.isSome (contextFault 8 false)
      let c' := c.loadArea area (c.keptFor x.toNat)
      let toLine (g : Engine) (off : Nat) : Engine :=
        { g.at' (BitVec.ofNat 64 (area.num off 8)) 1 with lines := 0, lineCount := 0 }
      let c' := { c' with ea := toLine c'.ea 8, ex := toLine c'.ex 16, outs := [] }
      let c' := if t.ps then { c' with tokAX := c'.tokAX + 1 } else c'
      return s'.setCtx c')

/-! ## Pre-emption (R45, R312, R313, R352) -/

/-- PREEMPT_SAVE: both engines stand at their k-th SAFEPT and the context has drained; the area takes KIND 1 with the registers
that the SAFEPT marks, the slot takes the landing list, and the pick is parked (DEDUCED, log 121). -/
def State.preemptSave (s : State) (loom : Nat) : Option State :=
  let c := s.ctxAt loom false
  match s.part? c.peer, c.req with
  | some p, some r =>
    if !r.preempt ∨ c.act ≠ .running ∨ !c.ea.stoppedSafept ∨ !c.ex.stoppedSafept ∨ c.ea.inLine ∨ c.ex.inLine ∨ !c.drained then none
    else
      let base := s.ctxBase loom false
      let m : Masks := { id := c.safept.1, a := c.safept.2.1, s := c.safept.2.2.1, v := c.safept.2.2.2.1, k := c.safept.2.2.2.2 }
      let head := c.header c.ea.pc c.ex.pc m
      let slotHead := leBytes 4 2 ++ leBytes 24 0 ++ leBytes 2 c.inFlight.length
        ++ leBytes 1 (if c.ea.mode then 1 else 0) ++ leBytes 1 (if c.ex.mode then 1 else 0)
      let s := s.putPieces p base ((0, leBytes 4 1 ++ leBytes 4 (crc32c head) ++ head) :: c.sections m false)
      let s := s.putPieces p (base + slotOffset) ((0, List.replicate 0x10000 0) :: (0, slotHead) :: c.landingPieces)
      let s := s.modPart c.peer (fun p => { p with picks := p.picks.map (fun k =>
        if some k.id = c.pick then { k with parked := k.parked ++ [loom] } else k) })
      some (s.setCtxAt loom false { c.keep base with act := .parked, req := none, outs := [], inFlight := [] })
  | _, _ => none

/-- PREEMPT_SAVE. -/
def execPreemptSave (loom : Nat) (s : State) := s.event (s.preemptSave loom)

/-- A parked context reloads its area and slot (R312, R313, R352): the landing list reinstalled, FKIND and KIND 0, control
registers and TCAUSE at their values of pick start (R304). It answers the context fault's check if one fails. -/
def State.unpark (s : State) (loom : Nat) : Except Nat State :=
  let c := s.ctxAt loom false
  match s.part? c.peer with
  | none => .error 9
  | some p =>
    let base := s.ctxBase loom false
    let area := s.reader p base
    let slot := s.reader p (base + slotOffset)
    if area.num 0 4 ≠ 1 ∧ area.num 0 4 ≠ 2 then .error 9
    else if area.num 4 4 ≠ crc32c (area 8 248) then .error 10
    else
      match checkFrame area slot 2 with
      | .error n => .error n
      | .ok rs =>
        let c := (c.loadArea area (c.keptFor base)).reinstall rs
        let toLine (g : Engine) (off pm : Nat) : Engine :=
          { g.at' (BitVec.ofNat 64 (area.num off 8)) 1 with
            lines := 0, lineCount := 0, mode := slot.num pm 1 % 2 == 1, ran := true }
        let c := { c with act := .running, ea := toLine c.ea 8 0x1E, ex := toLine c.ex 16 0x1F, ftbase := 3, outs := [], tcause := 0 }
        let s := s.setCtxAt loom false c
        let s := s.writeVa p base [0, 0, 0, 0]
        .ok (s.writeVa p (base + slotOffset) [0, 0, 0, 0])

end Sys2Proof.Machine
end

