-- ==== Sys2Proof/Machine/Command.lean ====
section
/-!
DEFINITION. What the engine commands share: sequence numbers and predecessors (R196), the limit and the overlap checker of
determinate mode (R253), barriers that a command counts into (R107), and the end of a copy command (R169, R332, R343).
-/

namespace Sys2Proof.Machine

/-! ## Numbered commands (R196, R253) -/

/-- Whether an operation has completed. -/
def Ctx.opDone (c : Ctx) (id : Nat) : Bool := !c.outs.any (fun o => o.id == id && !o.completed)

/-- The numbered commands that are outstanding. -/
def Ctx.liveCmds (c : Ctx) : List NumCmd := c.cmds.filter (fun n => c.outs.any (·.id == n.id))

/-- Whether the command of a sequence number has completed; one that completed earlier delays nothing. -/
def Ctx.seqDone (c : Ctx) (q : BitVec 16) : Bool := !c.liveCmds.any (fun n => n.seq == q && !c.opDone n.id)

/-- The sequence numbers that the back-distances name; 0 names none. -/
def Ctx.predSeqs (c : Ctx) (p1 p2 : BitVec 8) : List (BitVec 16) :=
  ([p1, p2].filter (· != 0)).map (fun d => c.seq - d.setWidth 16)

/-- The outstanding commands that are ordered before a command by a chain of predecessors. -/
def orderedBefore (live : List NumCmd) : (fuel : Nat) → List (BitVec 16) → List (BitVec 16)
  | 0, qs => qs
  | fuel + 1, qs =>
    orderedBefore live fuel ((qs ++ (live.filter (fun n => qs.contains n.seq)).flatMap (·.preds)).eraseDups)

/-- Whether two lists of ranges share a byte. -/
def rangesMeet (xs ys : List (Nat × Nat)) : Bool := xs.any (fun x => ys.any (fun y => overlapLen x.1 x.2 y.1 y.2 != 0))

/-- Whether two commands conflict: a write of one meets any range of the other (R253). -/
def NumCmd.conflicts (a b : NumCmd) : Bool := rangesMeet a.writes (b.reads ++ b.writes) || rangesMeet a.reads b.writes

/-- The checks of determinate mode at issue: at most 64 commands outstanding, then the overlap checker (R253). -/
def Ctx.checkNumber (c : Ctx) (det : Bool) (n : NumCmd) : Act Unit := do
  let live := c.liveCmds
  check (!det || Nat.blt live.length 64) (.wait .counter)
  let before := orderedBefore live 64 n.preds
  match live.find? (fun x => !before.contains x.seq && x.conflicts n) with
  | some x => check (!det) (faultOf 9 8 0 x.seq.toNat)
  | none => pure ()

/-- The command takes its number and its place in its counter. -/
def Ctx.takeNumber (c : Ctx) (ctr : Counter) (due : Option Nat) (n : NumCmd) : Ctx :=
  { c with seq := c.seq + 1, nextId := c.nextId + 1, cmds := c.liveCmds ++ [n],
           outs := c.outs ++ [{ id := n.id, ctr := ctr, due := due }] }

/-! ## Barriers of commands (R107) -/

/-- Counts bytes, with flags, into the barrier that a command of a partition names: here, at the partition's own peer ID, or at
a peer, to which the count goes as a message (DEDUCED, log 16). `runs` are the bytes; the phase that counts them at a peer is not known
here, so that a wait on any phase there acquires them (log 17). The fault is the one that the barrier's line raises. -/
def State.countFor (s : State) (peer : Nat) (bar : Option Span) (n : Nat) (fl : Flags) (runs : List (Nat × Nat) := []) :
    State × Option FaultInfo :=
  match bar with
  | none => (s, none)
  | some sp =>
    match sp.peer, s.part? peer with
    | none, _ => s.countBarrier sp n fl runs
    | some q, some p =>
      if q = peer then
        match s.peerSpans p .object 0 2 sp.va 32 with
        | .ok (x :: _) => s.countBarrier x n fl runs
        | .ok [] => (s, none)
        | .error e => (s, some (statusFault e sp.va))
      else
        ({ s with out := s.out ++ [Output.object q 0 (.count n fl) sp.va],
                  tally := s.tally ++ (runs.filter (fun r => offChip r.1)).map (fun r =>
                    { bar := sp.raw, phase := some 0, pos := 0, pa := r.1, len := r.2 }) }, none)
    | some _, none => (s, none)

/-- The run of a completion barrier; the register a0 names none (R179, R197). -/
def barrierRun (maj : Nat) (ab : BitVec 6) (a : W64) : List Run := if ab = 0 then [] else [⟨.object, maj, 0, a, 32⟩]

/-- The run of a barrier address of which zero names none (R248, R249). -/
def barrierRunAt (maj : Nat) (a : W64) : List Run := if a = 0 then [] else [⟨.object, maj, 0, a, 32⟩]

/-- The pending releases that the counts of a command carry (R101, R176): those on its barrier, and those on a bobbin whose region it
writes, in a stream that they cover. -/
def State.carriedBy (s : State) (c : Ctx) (st : BitVec 4) (bar : Option W64) (dst : List Span) : List PendRel :=
  c.rels.filter (fun r => r.mask.getLsbD st.toNat && (if isHandle (BitVec.ofNat 64 r.obj) then
      s.updatesObject c.peer { id := 0, kind := .store [] false, stream := st, spans := dst, dest := .none } r.obj
    else bar.any (fun b => ownAddr c.peer b.toNat == ownAddr c.peer r.obj)))

/-- What the releases that a command carries cover. -/
def coveredBy (rs : List PendRel) : List Nat := rs.flatMap (·.covers)

/-- A context without releases that a command carries. -/
def Ctx.release (c : Ctx) (rs : List PendRel) : Ctx := { c with rels := c.rels.filter (fun r => !rs.contains r) }

/-- A completion barrier is named by an address (R172), which is aligned (R179; DEDUCED, log 48). -/
def barrierAligned (a : W64) : Act Unit := do
  wantAddress a
  check (a.toNat % 32 == 0) (faultOf 4 1 a.toNat)

/-- The scratchpad ranges of spans, which the checker compares. -/
def padRanges (sps : List Span) : List (Nat × Nat) :=
  (sps.filter (fun sp => sp.peer.isNone && Nat.ble (2 ^ 43) sp.pa)).map (fun sp => (sp.pa, sp.len))

/-! ## Copy commands in their queues -/

/-- The copy commands of a context. -/
def Ctx.copies (c : Ctx) : List CopyCmd := c.copyLoad ++ c.copyStore

/-- A copy command by its number. -/
def Ctx.copy? (c : Ctx) (id : Nat) : Option CopyCmd := c.copies.find? (·.id == id)

/-- Changes a copy command in its queue. -/
def Ctx.modCopy (c : Ctx) (id : Nat) (f : CopyCmd → CopyCmd) : Ctx :=
  let go (ks : List CopyCmd) : List CopyCmd := ks.map (fun k => if k.id = id then f k else k)
  { c with copyLoad := go c.copyLoad, copyStore := go c.copyStore }

/-- Changes a copy command of a context. -/
def State.modCopy (s : State) (loom : Nat) (ev : Bool) (id : Nat) (f : CopyCmd → CopyCmd) : State :=
  s.setCtxAt loom ev ((s.ctxAt loom ev).modCopy id f)

/-- A copy command leaves its queue and its counter; what followed its reads may go on. -/
def State.finishCopy (s : State) (loom : Nat) (ev : Bool) (id : Nat) : State :=
  let c := s.ctxAt loom ev
  let drop (ks : List CopyCmd) : List CopyCmd := ks.filter (·.id != id)
  let s := s.setCtxAt loom ev (({ c with copyLoad := drop c.copyLoad, copyStore := drop c.copyStore } : Ctx).completeOp id)
  let s := { s with waiters := s.waiters.filter (fun w => !(w.loom == loom && w.ev == ev && w.who == Loader.copy id)),
                    requests := s.requests.filter (fun r => !(r.loom == loom && r.ev == ev && (match r.owner with
                      | .copyRead k _ _ | .copyWrite k _ _ => k == id
                      | _ => false))) }
  s.pump loom ev

/-- A completion barrier of a command, if its register names one. -/
def namedBarrier (ab : BitVec 6) (a : W64) : Option W64 := if ab = 0 then none else some a

/-- A copy command faults: it completes with the fault recorded, and writes nothing more (R169, R332, R343). -/
def State.failCopy (s : State) (loom : Nat) (ev : Bool) (k : CopyCmd) (f : FaultInfo) : State :=
  let s := s.raiseAsync loom ev { f with src := 2, line := k.line, lane := k.lane, stream := k.stream.toNat }
  s.finishCopy loom ev k.id

/-- The parts of spans that hold the bytes from an offset of the command's data. -/
def slice (sps : List Span) (off len : Nat) : List Span :=
  sps.filterMap (fun sp =>
    let lo := Nat.max off sp.off
    let hi := Nat.min (off + len) (sp.off + sp.len)
    if lo < hi then some { sp with pa := sp.pa + (lo - sp.off), va := sp.va + (lo - sp.off), off := lo, len := hi - lo } else none)

/-! ## Operations of a slice -/

/-- Changes an ACC.INIT or ACC.DRAIN of a context. -/
def State.modAccOp (s : State) (loom : Nat) (ev : Bool) (id : Nat) (f : AccOp → AccOp) : State :=
  let c := s.ctxAt loom ev
  s.setCtxAt loom ev { c with accOps := c.accOps.map (fun a => if a.id = id then f a else a) }

/-- An ACC.INIT or ACC.DRAIN has been performed, or given up. -/
def State.finishAccOp (s : State) (loom : Nat) (ev : Bool) (id : Nat) : State :=
  let c := s.ctxAt loom ev
  (s.setCtxAt loom ev { c with accOps := c.accOps.filter (·.id != id) }).pump loom ev

end Sys2Proof.Machine
end

