-- ==== Sys2Proof/Machine/Bob.lean ====
section
/-!
DEFINITION. BOB.ARM, BOB.DISARM and BOB.READ (R182 to R187).
-/

namespace Sys2Proof.Machine

/-- The page runs of a region, each translated or not. -/
def State.regionRuns (s : State) (w : Who) (peer : Nat) : (fuel va len : Nat) → List (Nat × Act Span)
  | 0, _, _ => []
  | fuel + 1, va, len =>
    if len = 0 then []
    else
      match s.translate w peer va with
      | .ok t =>
        let n := Nat.min len (t.va + t.size - va)
        (va, .ok { pa := t.pa + (va - t.va), va := va, len := n, off := 0, attrs := t.attrs })
          :: s.regionRuns w peer fuel (va + n) (len - n)
      | .error e =>
        let n := Nat.min len (65536 - va % 65536)
        (va, .error e) :: s.regionRuns w peer fuel (va + n) (len - n)

/-- The pages of a bobbin's region: the walks that it waits for, then pages that are not memory-side, then pages that do not
translate (R184). -/
def State.regionPages (s : State) (w : Who) (peer va len : Nat) : Act (List Span) :=
  let runs := s.regionRuns w peer (len / 65536 + 2) va len
  let wait := runs.findSome? (fun r => match r.2 with | .error (.wait x) => some x | _ => none)
  let plain := runs.findSome? (fun r => match r.2 with | .ok sp => if sp.attrs.getLsbD attrMS then none else some r.1 | _ => none)
  match wait, plain with
  | some x, _ => .error (.wait x)
  | none, some va => .error (faultOf 2 3 va 0x2E)
  | none, none => runs.mapM (·.2)

/-- The bytes that an instruction reads at an address before it can issue: there, or still to be fetched. -/
def State.operandAt (s : State) (c : Ctx) (maj : Nat) (st : BitVec 4) (a : W64) (len : Nat) : Act (Ctx × List Byte) :=
  match c.operands.find? (·.1 == a.toNat) with
  | some x => .ok ({ c with operands := c.operands.filter (·.1 != a.toNat) }, x.2)
  | none => do
    let _ ← s.run c .load maj 0 a len
    .error (.wait (.operand st.toNat a.toNat len))

/-- Arms a bobbin on bytes of the partition's own memory, and returns its handle. -/
def State.bobArm (s : State) (t : Tok) (c : Ctx) (ra : BitVec 6) (st : BitVec 4) (p : Partition) (d : ArmDesc) (sps : List Span)
    (lat : Nat) : Act State :=
  match s.armAt c.peer p d (boltOf s.cur.loom) sps with
  | .error f => .error (.fault f)
  | .ok (s, h) => s.issueAccess t c { id := 0, kind := .value h, stream := st, spans := [], dest := .reg ra, len := 8 } none lat

/-- BOB.ARM (R184): the descriptor is read after the earlier writes of the stream to it, checked, and armed here or at the peer of
its region. -/
def execBobArm (t : Tok) (ra rb : BitVec 6) (st : BitVec 4) (s : State) :=
  s.command t (fun c => do
    let a ← c.rdA rb
    wantAddress a
    check (a.toNat % 8 == 0) (faultOf 4 1 a.toNat)
    let (c, bs) ← s.operandAt c 0x2E st a 32
    let d := ArmDesc.ofNat (leNat bs)
    d.early
    match s.part? c.peer, d.space with
    | none, _ => .error (.fault (armFault d))
    | some p, some 1 =>
      let off := d.region.toNat % 2 ^ 23
      s.bobArm t c ra st p d [{ pa := boltPad (boltOf s.cur.loom) off, va := d.region.toNat, len := d.length, off := 0 }] 384
    | some p, some 2 => do
      let q := (d.region.extractLsb' 48 12).toNat
      let va := d.region.toNat % 2 ^ 48
      s.checkPeer c.peer q
      if q = c.peer then
        if d.length = 0 ∨ 2 ^ 48 < va + d.length then .error (.fault (armFault d)) else
        match s.peerSpans p .armed 0 (d.length / 65536 + 2) va d.length with
        | .error e => .error (.fault { statusFault e va with precise := true })
        | .ok sps => s.bobArm t c ra st p d sps 1536
      else do
        let sp : Span := { pa := 0, va := va, len := 8, off := 0, peer := some q }
        s.issueAccess t c { id := 0, kind := .bobArm (leNat bs), stream := st, spans := [sp], dest := .reg ra, len := 8 } none
          (s.latency c.peer sp d.region)
    | some p, _ => do
      let sps ← s.regionPages s.cur.who c.peer (d.region.toNat % 2 ^ 48) d.length
      s.bobArm t c ra st p d sps 1536)

/-- Issues an operation on the bobbin of a handle: here, or as a request to its peer (R172, R173). -/
def State.bobOp (s : State) (t : Tok) (c : Ctx) (ra : BitVec 6) (h : W64) (st : BitVec 4) (k : AccKind) : Act State := do
  wantHandle h
  let q := handlePeer h
  if q = c.peer then
    s.issueAccess t c { id := 0, kind := k, stream := st, spans := [], dest := .reg ra, len := 8, obj := some h.toNat } none
      (if h.getLsbD 16 then 384 else 1536)
  else do
    s.checkPeer c.peer q
    let sp : Span := { pa := 0, va := 0, len := 8, off := 0, peer := some q }
    s.issueAccess t c { id := 0, kind := k, stream := st, spans := [sp], dest := .reg ra, len := 8, obj := some h.toNat } none
      (((s.members c.peer).find? (·.peer == q)).elim 0 (·.lat))

/-- BOB.DISARM. -/
def execBobDisarm (t : Tok) (ra rb : BitVec 6) (st : BitVec 4) (s : State) :=
  s.command t (fun c => do
    let h ← c.rdA rb
    s.bobOp t c ra h st (.bobDisarm h))

/-- BOB.READ. -/
def execBobRead (t : Tok) (ra rb : BitVec 6) (st : BitVec 4) (s : State) :=
  s.command t (fun c => do
    let h ← c.rdA rb
    s.bobOp t c ra h st (.bobRead h))

end Sys2Proof.Machine
end

