-- ==== Sys2Proof/Machine/Vector.lean ====
section
/-!
DEFINITION. The X-engine's vector instructions: element-wise arithmetic, conversion, block quantisation, reductions,
cross-lane moves and special functions (R206 to R209, R216 to R226).
-/

namespace Sys2Proof.Machine

/-- The bytes of an element of a TYPE code (R125). -/
def tyBytes (ty : BitVec 4) : Nat := ((Fmt.ofCode ty.toNat).map Fmt.bytes).getD 1
/-- The format of a TYPE code. -/
def tyFmt (ty : BitVec 4) : Fmt := (Fmt.ofCode ty.toNat).getD .int8

/-- Element i of a register of elements of w bytes (R123). -/
def elemAt (v : VReg) (w i : Nat) : Nat := (v.toNat >>> (8 * w * i)) % 2 ^ (8 * w)

/-- Elements of w bytes joined, the first lowest (R123). -/
def packElems (w : Nat) : List Nat → Nat
  | [] => 0
  | x :: r => x % 2 ^ (8 * w) + 2 ^ (8 * w) * packElems w r

/-- A register whose n low bytes are replaced. -/
def replaceLow (old : VReg) (n x : Nat) : VReg :=
  BitVec.ofNat 16384 (x % 2 ^ (8 * n) + (old.toNat >>> (8 * n)) * 2 ^ (8 * n))

/-- The shape fault of R123. -/
def shapeFault (c : Ctx) : Stop := faultOf 6 5 0 c.vshape.toNat

/-- R × C must not exceed the element count of w-byte elements (R123). -/
def Ctx.fits (c : Ctx) (w : Nat) : Act Unit := check (decide (c.elems * w ≤ 2048)) (shapeFault c)

/-- In early service .F16 is withheld (R236); no entry is read, so that DETAIL1 is 0 (DESIGN CHOICE, log 156). -/
def typeOk (full : Bool) (ty : BitVec 4) : Act Unit := check (full || ty != 2) (fmtFault 3 0)

/-- A vector source: a register, or a load queue's head, which is popped (R120, R121). -/
def Ctx.vSrc (c : Ctx) (r : BitVec 6) : Act (Ctx × VReg) :=
  if r.toNat < 32 then do
    let v := r.setWidth 5
    c.ready .X (.v v)
    return (c, c.v[v.toNat])
  else do
    let (c, e) ← c.popLq (lqOf r)
    return (c, e.data)

/-- Vector sources in order. -/
def Ctx.vSrcs (c : Ctx) : List (BitVec 6) → Act (Ctx × List VReg)
  | [] => .ok (c, [])
  | r :: rs => do
    let (c, v) ← c.vSrc r
    let (c, vs) ← c.vSrcs rs
    return (c, v :: vs)

/-- What stands in a vector destination at issue: a register's contents, or zeros for a store queue (R125, R206). -/
def Ctx.vOld (c : Ctx) (vd : BitVec 6) : Act VReg :=
  if vd.toNat < 32 then do
    let v := vd.setWidth 5
    c.ready .X (.v v)
    return c.v[v.toNat]
  else .ok 0

/-- Writes a vector destination after its latency: a register whole, or a store-queue entry of n bytes (R206, R207). -/
def Ctx.putV (c : Ctx) (vd : BitVec 6) (old : VReg) (n x : Nat) (lat : Nat) (t : Tok) (fl : Flags := 0) : Act Ctx :=
  if vd.toNat < 32 then c.emit .X (.v (vd.setWidth 5)) (replaceLow old n x).toNat lat t fl
  else do
    let d ← c.reserveSq (sqOf vd)
    d.emit .X (.sq (sqOf vd) n (some c.nextId)) (x % 2 ^ (8 * n)) lat t fl

/-- The results of an element-wise instruction (R207): an element that is not active becomes zero or keeps its value. -/
def mapActive (m : KReg) (zero : Bool) (old : VReg) (w E : Nat) (f : Nat → Nat × Flags) : List Nat × Flags :=
  (List.range E).foldr (fun i (a : List Nat × Flags) =>
    if m.getLsbD i then let (x, fl) := f i; (x :: a.1, fl ||| a.2)
    else ((if zero then 0 else elemAt old w i) :: a.1, a.2)) ([], 0)

/-- An element-wise instruction (R206, R207): wi is the width of its sources, wo of its result. -/
def Ctx.elementwise (c : Ctx) (t : Tok) (h : VHdr) (vd : BitVec 6) (srcs : List (BitVec 6)) (wi wo lat : Nat)
    (f : Nat → List Nat → Nat × Flags) : Act Ctx := do
  c.fits (max wi wo)
  let m ← c.rdK h.mask
  let old ← c.vOld vd
  let (c, vs) ← c.vSrcs srcs
  let E := c.elems
  let (xs, fl) := mapActive m (h.mz = 1 || 32 ≤ vd.toNat) old wo E (fun i => f i (vs.map (fun v => elemAt v wi i)))
  c.putV vd old (E * wo) (packElems wo xs) lat t fl

/-- An element-wise instruction of one TYPE. -/
def State.vmap (s : State) (t : Tok) (h : VHdr) (vd : BitVec 6) (srcs : List (BitVec 6)) (lat : Nat)
    (f : List Nat → Nat × Flags) : Host.Outcome State Fault Refusal :=
  s.local .X t (fun c => do
    typeOk (s.fullService s.cur.loom) h.ty
    c.elementwise t h vd srcs (tyBytes h.ty) (tyBytes h.ty) lat (fun _ xs => f xs))

/-- The same with a scalar applied to every element (R216). -/
def State.vmapS (s : State) (t : Tok) (h : VHdr) (vd : BitVec 6) (srcs : List (BitVec 6)) (sb : BitVec 6)
    (f : List Nat → Nat → Nat × Flags) : Host.Outcome State Fault Refusal :=
  s.local .X t (fun c => do
    typeOk (s.fullService s.cur.loom) h.ty
    let x ← c.rdS sb
    let k := x.toNat % 2 ^ (8 * tyBytes h.ty)
    c.elementwise t h vd srcs (tyBytes h.ty) (tyBytes h.ty) 4 (fun _ xs => f xs k))

/-! ## Element arithmetic (R216) -/

/-- An integer element's value, signed but for .UI8. -/
def intVal (f : Fmt) (x : Nat) : Int :=
  match f.decode x with
  | .fin true m _ => -(m : Int)
  | .fin false m _ => m
  | _ => 0

/-- An exact integer result wrapped, or saturated with SAT. -/
def intRes (f : Fmt) (sat : BitVec 1) (x : Int) : Nat × Flags :=
  let w := 8 * f.bytes
  let (lo, hi) := f.intRange
  if sat = 1 ∧ x < lo then ((lo % 2 ^ w).toNat, fSAT)
  else if sat = 1 ∧ hi < x then ((hi % 2 ^ w).toNat, fSAT)
  else ((x % 2 ^ w).toNat, 0)

/-- A binary operation: on exact values for floating types, on integers for the others. -/
def arith2 (ty : BitVec 4) (sat : BitVec 1) (g : Num → Num → Nat × Flags) (f : Int → Int → Int) (a b : Nat) : Nat × Flags :=
  let T := tyFmt ty
  if T.float then g (T.decode a) (T.decode b) else intRes T sat (f (intVal T a) (intVal T b))

/-- VADD's element. -/
def elAdd (ty : BitVec 4) (sat : BitVec 1) (a b : Nat) : Nat × Flags := arith2 ty sat (fAdd (tyFmt ty)) (· + ·) a b
/-- VSUB's element. -/
def elSub (ty : BitVec 4) (sat : BitVec 1) (a b : Nat) : Nat × Flags :=
  arith2 ty sat (fun x y => fAdd (tyFmt ty) x y.neg) (· - ·) a b
/-- VMUL's element. -/
def elMul (ty : BitVec 4) (sat : BitVec 1) (a b : Nat) : Nat × Flags := arith2 ty sat (fMul (tyFmt ty)) (· * ·) a b
/-- VMIN's and VMAX's element. -/
def elMinMax (max : Bool) (ty : BitVec 4) (a b : Nat) : Nat × Flags :=
  let T := tyFmt ty
  if T.float then (fMinMax T max a b, 0)
  else (if (if max then intVal T a < intVal T b else intVal T b < intVal T a) then b else a, 0)
/-- VABS's element: a floating NaN gives the canonical NaN. -/
def elAbs (ty : BitVec 4) (sat : BitVec 1) (a : Nat) : Nat × Flags :=
  let T := tyFmt ty
  if T.float then (if (T.decode a).isNan then T.nan else a % 2 ^ T.signAt, 0)
  else intRes T sat ((intVal T a).natAbs : Int)
/-- VNEG's element. -/
def elNeg (ty : BitVec 4) (sat : BitVec 1) (a : Nat) : Nat × Flags :=
  let T := tyFmt ty
  if T.float then (if (T.decode a).isNan then T.nan else (a + 2 ^ T.signAt) % 2 ^ (T.signAt + 1), 0)
  else intRes T sat (-(intVal T a))
/-- VSHL's element. -/
def elShl (ty : BitVec 4) (a b : Nat) : Nat × Flags :=
  let w := 8 * tyBytes ty
  (if b < w then (a <<< b) % 2 ^ w else 0, 0)
/-- VSHR's element. -/
def elShr (ty : BitVec 4) (a b : Nat) : Nat × Flags := (if b < 8 * tyBytes ty then a >>> b else 0, 0)
/-- VSAR's element: the value read as an element of the type, with the sign fill for a shift of the
width or more. An element of .UI8 has no sign, and its fill is zero (DEDUCED, log 44). -/
def elSar (ty : BitVec 4) (a b : Nat) : Nat × Flags :=
  let w := 8 * tyBytes ty
  (((intVal (tyFmt ty) a / 2 ^ (min b w)) % 2 ^ w).toNat, 0)

/-- A two-source result function. -/
def on2 (f : Nat → Nat → Nat × Flags) (xs : List Nat) : Nat × Flags := f (xs.getD 0 0) (xs.getD 1 0)
/-- A source and a scalar. -/
def onS (f : Nat → Nat → Nat × Flags) (xs : List Nat) (k : Nat) : Nat × Flags := f (xs.getD 0 0) k
/-- A bitwise function. -/
def plain (f : Nat → Nat → Nat) (a b : Nat) : Nat × Flags := (f a b, 0)

/-- VADD (R216). -/
def execVadd (t : Tok) (h : VHdr) (vd va vb : BitVec 6) (sat : BitVec 1) (s : State) :=
  s.vmap t h vd [va, vb] 4 (on2 (elAdd h.ty sat))
/-- VSUB (R216). -/
def execVsub (t : Tok) (h : VHdr) (vd va vb : BitVec 6) (sat : BitVec 1) (s : State) :=
  s.vmap t h vd [va, vb] 4 (on2 (elSub h.ty sat))
/-- VMUL (R216). -/
def execVmul (t : Tok) (h : VHdr) (vd va vb : BitVec 6) (sat : BitVec 1) (s : State) :=
  s.vmap t h vd [va, vb] 4 (on2 (elMul h.ty sat))
/-- VMIN (R216). -/
def execVmin (t : Tok) (h : VHdr) (vd va vb : BitVec 6) (s : State) := s.vmap t h vd [va, vb] 4 (on2 (elMinMax false h.ty))
/-- VMAX (R216). -/
def execVmax (t : Tok) (h : VHdr) (vd va vb : BitVec 6) (s : State) := s.vmap t h vd [va, vb] 4 (on2 (elMinMax true h.ty))
/-- VABS (R216). -/
def execVabs (t : Tok) (h : VHdr) (vd va : BitVec 6) (sat : BitVec 1) (s : State) :=
  s.vmap t h vd [va] 4 (fun xs => elAbs h.ty sat (xs.getD 0 0))
/-- VNEG (R216). -/
def execVneg (t : Tok) (h : VHdr) (vd va : BitVec 6) (sat : BitVec 1) (s : State) :=
  s.vmap t h vd [va] 4 (fun xs => elNeg h.ty sat (xs.getD 0 0))
/-- VAND (R216). -/
def execVand (t : Tok) (h : VHdr) (vd va vb : BitVec 6) (s : State) := s.vmap t h vd [va, vb] 4 (on2 (plain (· &&& ·)))
/-- VOR (R216). -/
def execVor (t : Tok) (h : VHdr) (vd va vb : BitVec 6) (s : State) := s.vmap t h vd [va, vb] 4 (on2 (plain (· ||| ·)))
/-- VXOR (R216). -/
def execVxor (t : Tok) (h : VHdr) (vd va vb : BitVec 6) (s : State) := s.vmap t h vd [va, vb] 4 (on2 (plain (· ^^^ ·)))
/-- VSHL (R216). -/
def execVshl (t : Tok) (h : VHdr) (vd va vb : BitVec 6) (s : State) := s.vmap t h vd [va, vb] 4 (on2 (elShl h.ty))
/-- VSHR (R216). -/
def execVshr (t : Tok) (h : VHdr) (vd va vb : BitVec 6) (s : State) := s.vmap t h vd [va, vb] 4 (on2 (elShr h.ty))
/-- VSAR (R216). -/
def execVsar (t : Tok) (h : VHdr) (vd va vb : BitVec 6) (s : State) := s.vmap t h vd [va, vb] 4 (on2 (elSar h.ty))
/-- VMOV (R216): bit for bit. -/
def execVmov (t : Tok) (h : VHdr) (vd va : BitVec 6) (s : State) := s.vmap t h vd [va] 4 (fun xs => (xs.getD 0 0, 0))
/-- VADD with a scalar (R216). -/
def execVaddVs (t : Tok) (h : VHdr) (vd va sb : BitVec 6) (sat : BitVec 1) (s : State) :=
  s.vmapS t h vd [va] sb (onS (elAdd h.ty sat))
/-- VSUB with a scalar (R216). -/
def execVsubVs (t : Tok) (h : VHdr) (vd va sb : BitVec 6) (sat : BitVec 1) (s : State) :=
  s.vmapS t h vd [va] sb (onS (elSub h.ty sat))
/-- VMUL with a scalar (R216). -/
def execVmulVs (t : Tok) (h : VHdr) (vd va sb : BitVec 6) (sat : BitVec 1) (s : State) :=
  s.vmapS t h vd [va] sb (onS (elMul h.ty sat))
/-- VMIN with a scalar (R216). -/
def execVminVs (t : Tok) (h : VHdr) (vd va sb : BitVec 6) (s : State) := s.vmapS t h vd [va] sb (onS (elMinMax false h.ty))
/-- VMAX with a scalar (R216). -/
def execVmaxVs (t : Tok) (h : VHdr) (vd va sb : BitVec 6) (s : State) := s.vmapS t h vd [va] sb (onS (elMinMax true h.ty))
/-- VAND with a scalar (R216). -/
def execVandVs (t : Tok) (h : VHdr) (vd va sb : BitVec 6) (s : State) := s.vmapS t h vd [va] sb (onS (plain (· &&& ·)))
/-- VOR with a scalar (R216). -/
def execVorVs (t : Tok) (h : VHdr) (vd va sb : BitVec 6) (s : State) := s.vmapS t h vd [va] sb (onS (plain (· ||| ·)))
/-- VXOR with a scalar (R216). -/
def execVxorVs (t : Tok) (h : VHdr) (vd va sb : BitVec 6) (s : State) := s.vmapS t h vd [va] sb (onS (plain (· ^^^ ·)))
/-- VSHL with a scalar (R216). -/
def execVshlVs (t : Tok) (h : VHdr) (vd va sb : BitVec 6) (s : State) := s.vmapS t h vd [va] sb (onS (elShl h.ty))
/-- VSHR with a scalar (R216). -/
def execVshrVs (t : Tok) (h : VHdr) (vd va sb : BitVec 6) (s : State) := s.vmapS t h vd [va] sb (onS (elShr h.ty))
/-- VSAR with a scalar (R216). -/
def execVsarVs (t : Tok) (h : VHdr) (vd va sb : BitVec 6) (s : State) := s.vmapS t h vd [va] sb (onS (elSar h.ty))
/-- VMOV of a scalar: it is broadcast over the tile (R216). -/
def execVmovVs (t : Tok) (h : VHdr) (vd sb : BitVec 6) (s : State) := s.vmapS t h vd [] sb (fun _ k => (k, 0))

/-- VFMA and VFMS (R217). -/
def State.fused (s : State) (t : Tok) (h : VHdr) (vd va vb vc : BitVec 6) (sub : Bool) : Host.Outcome State Fault Refusal :=
  s.vmap t h vd [va, vb, vc] 6 (fun xs =>
    let T := tyFmt h.ty
    let d := fun i => T.decode (xs.getD i 0)
    fFma T (d 0) (d 1) (if sub then (d 2).neg else d 2))
/-- VFMA (R217). -/
def execVfma (t : Tok) (h : VHdr) (vd va vb vc : BitVec 6) (s : State) := s.fused t h vd va vb vc false
/-- VFMS (R217). -/
def execVfms (t : Tok) (h : VHdr) (vd va vb vc : BitVec 6) (s : State) := s.fused t h vd va vb vc true

/-- The truth of a condition of VCMP (R218). -/
def vcond (ty : BitVec 4) (cond a b : Nat) : Bool :=
  let T := tyFmt ty
  let x := T.decode a
  let y := T.decode b
  let un := x.isNan || y.isNan
  match cond with
  | 0 => Num.eq x y
  | 1 => un || !Num.eq x y
  | 2 => Num.lt x y
  | 3 => !un && !Num.lt y x
  | 4 => Num.lt y x
  | 5 => !un && !Num.lt x y
  | _ => un

/-- VCMP (R218): bits of elements that are not active become zero under MZ or stay, and bits E and above stay. -/
def execVcmp (t : Tok) (h : VHdr) (kd va vb cond : BitVec 6) (s : State) :=
  s.local .X t (fun c => do
    typeOk (s.fullService s.cur.loom) h.ty
    let w := tyBytes h.ty
    c.fits w
    let m ← c.rdK h.mask
    let old := c.kVal (kOf kd)
    let (c, vs) ← c.vSrcs [va, vb]
    let E := c.elems
    let x := fun i => elemAt (vs.getD 0 0) w i
    let y := fun i => elemAt (vs.getD 1 0) w i
    c.putK (kOf kd) (maskOf (fun i =>
      if E ≤ i then old.getLsbD i
      else if m.getLsbD i then vcond h.ty cond.toNat (x i) (y i)
      else if h.mz = 1 then false else old.getLsbD i)) 4 t)

/-- VSEL (R219). -/
def execVsel (t : Tok) (h : VHdr) (vd va vb : BitVec 6) (ks : BitVec 3) (s : State) :=
  s.local .X t (fun c => do
    typeOk (s.fullService s.cur.loom) h.ty
    let k ← c.rdK ks
    let w := tyBytes h.ty
    c.elementwise t h vd [va, vb] w w 4 (fun i xs => (if k.getLsbD i then xs.getD 0 0 else xs.getD 1 0, 0)))

/-- The clamp of R220: a NaN bound is ignored. -/
def elClamp (ty : BitVec 4) (a lo hi : Nat) : Nat :=
  let T := tyFmt ty
  if T.float then
    if (T.decode a).isNan then T.nan
    else
      let x := if (T.decode lo).isNan then a else fMinMax T true a lo
      if (T.decode hi).isNan then x else fMinMax T false x hi
  else (elMinMax false ty (elMinMax true ty a lo).1 hi).1

/-- VCLAMP (R220). -/
def execVclamp (t : Tok) (h : VHdr) (vd va sb : BitVec 6) (s : State) :=
  s.local .X t (fun c => do
    typeOk (s.fullService s.cur.loom) h.ty
    let w := tyBytes h.ty
    let lo := (← c.rdS sb).toNat % 2 ^ (8 * w)
    let hi := (← c.rdS (sb + 1)).toNat % 2 ^ (8 * w)
    c.elementwise t h vd [va] w w 4 (fun _ xs => (elClamp h.ty (xs.getD 0 0) lo hi, 0)))

/-! ## Conversion and blocks (R221 to R223) -/

/-- One step of the generator (R83). -/
def stepG (g : W64) : W64 :=
  let g := if g = 0 then 0x9E3779B97F4A7C15 else g
  let g := g ^^^ (g <<< 13)
  let g := g ^^^ (g >>> 7)
  g ^^^ (g <<< 17)

/-- The outputs of n steps (R83). -/
def gSteps (g : W64) : (n : Nat) → List W64
  | 0 => []
  | n + 1 => let g' := stepG g; g' :: gSteps g' n

/-- The mode of element i, with SR's random number from the steps' outputs (R83). -/
def elMode (rnd : Nat) (outs : List W64) (i : Nat) : RMode :=
  (RMode.ofCode rnd (((outs.getD (i / 4) 0).extractLsb' (16 * (i % 4)) 16).toNat)).getD .rne

/-- The generator's outputs for an instruction over n elements, and the state it leaves; only SR steps it. -/
def Ctx.random (c : Ctx) (rnd n : Nat) : List W64 × W64 :=
  if rnd = 4 then let outs := gSteps c.g ((n + 3) / 4); (outs, outs.getLastD c.g) else ([], c.g)

/-- The entry that FTX selects (R127). -/
def State.ftxEntry (s : State) (c : Ctx) : BitVec 16 := s.fmtEntry c (selIndex (c.ftx.setWidth 8) c.ex.lc)

/-- VCVT (R221). Of several causes the fault names WITHHELD, then UNASSIGNED, then ROLE (DEDUCED, log 21). -/
def execVcvt (t : Tok) (h : VHdr) (vd va : BitVec 6) (s : State) :=
  s.local .X t (fun c => do
    let e := s.ftxEntry c
    let full := s.fullService s.cur.loom
    check ((full || h.ty != 2) && !namesWithheld full (entOFMT e)) (fmtFault 3 e)
    check (entOFMT e ≤ 9 && entRND e ≤ 5) (fmtFault 1 e)
    check (entOFMT e != 5) (fmtFault 2 e)
    let T := tyFmt h.ty
    let D := (Fmt.ofCode (entOFMT e)).getD .fp32
    c.fits (max T.bytes D.bytes)
    let (outs, g) := c.random (entRND e) c.elems
    let c ← c.elementwise t h vd [va] T.bytes D.bytes 4 (fun i xs => D.encode (elMode (entRND e) outs i) (T.decode (xs.getD 0 0)))
    return { c with g := g })

/-- C must be a multiple of 32 (R222, R223). -/
def Ctx.blocks (c : Ctx) (w : Nat) : Act Unit := do
  c.fits w
  check (c.cols % 32 == 0) (shapeFault c)

/-- Cuts a list into blocks of 32. -/
def blocks32 {α : Type} : (n : Nat) → List α → List (List α)
  | 0, _ => []
  | n + 1, xs => xs.take 32 :: blocks32 n (xs.drop 32)

/-- VQUANT (R222): the element plane goes to vd, then the scale plane to vs. -/
def execVquant (t : Tok) (h : VHdr) (vd va vs : BitVec 6) (s : State) :=
  s.local .X t (fun c => do
    let e := s.ftxEntry c
    let full := s.fullService s.cur.loom
    check ((full || h.ty != 2) && !namesWithheld full (entOFMT e)) (fmtFault 3 e)
    check (entOFMT e ≤ 9 && entRND e ≤ 5) (fmtFault 1 e)
    check (entOFMT e == 5 && entSCL e) (fmtFault 2 e)
    let T := tyFmt h.ty
    c.blocks T.bytes
    let E := c.elems
    let oldD ← c.vOld vd
    let oldS ← c.vOld vs
    let (c, v) ← c.vSrc va
    let (outs, g) := c.random (entRND e) E
    let xs := (List.range E).map (fun i => T.decode (elemAt v T.bytes i))
    let ms := (List.range E).map (elMode (entRND e) outs)
    let bs := ((blocks32 (E / 32) ms).zip (blocks32 (E / 32) xs)).map (fun p => e2m1Block p.1 p.2)
    let codes := bs.foldr (fun b a => b.1 ++ a) []
    let plane := codes.foldr (fun x a => x + 16 * a) 0
    let scales := bs.foldr (fun b a => b.2.1 + 256 * (b.2.2.1 + 256 * a)) 0
    let fl := bs.foldl (fun a b => a ||| b.2.2.2) 0
    let c ← c.putV vd oldD (E / 2) plane 8 ⟨false, false⟩ fl
    let c ← c.putV vs oldS (E / 16) scales 8 t
    return { c with g := g })

/-- VDEQ (R223). -/
def execVdeq (t : Tok) (h : VHdr) (vd va vb : BitVec 6) (s : State) :=
  s.local .X t (fun c => do
    let e := s.ftxEntry c
    let full := s.fullService s.cur.loom
    check ((full || h.ty != 2) && !namesWithheld full (entAFMT e)) (fmtFault 3 e)
    check (entAFMT e ≤ 9) (fmtFault 1 e)
    check (entAFMT e == 5 && entSCL e) (fmtFault 2 e)
    let T := tyFmt h.ty
    c.blocks T.bytes
    let E := c.elems
    let old ← c.vOld vd
    let (c, vs) ← c.vSrcs [va, vb]
    let el := vs.getD 0 0
    let sc := vs.getD 1 0
    let one (i : Nat) : Nat × Flags :=
      let code := (el.toNat >>> (4 * i)) % 16
      T.encode .rne (e2m1Value code (elemAt sc 1 (2 * (i / 32) + 1)) (elemAt sc 1 (2 * (i / 32))))
    let rs := (List.range E).map one
    c.putV vd old (E * T.bytes) (packElems T.bytes (rs.map (·.1))) 4 t (rs.foldl (fun a r => a ||| r.2) 0))

/-! ## Reductions (R224) -/

/-- The operations of VRED. -/
inductive RedOp where
  | sum | max | min
  deriving DecidableEq, Repr

/-- The result type of a reduction: 32-bit under WIDE. -/
def redType (T : Fmt) (wide : BitVec 1) : Fmt := if wide = 1 then (if T.float then .fp32 else .int32) else T

/-- A sum of floating elements: FP32 additions of the widened elements in order, then the finish. -/
def fSum (T D : Fmt) (xs : List Nat) : Nat × Flags :=
  match xs with
  | [] => (0, 0)
  | x :: r =>
    let widen := fun y => (Fmt.fp32.encode .rne (T.decode y)).1
    let (a, fl) := r.foldl (fun (p : Nat × Flags) y => let (b, f) := addFp32 p.1 (widen y); (b, p.2 ||| f)) (widen x, 0)
    if D == .fp32 then (a, fl) else let (b, f) := toFloat D .rnei (Fmt.fp32.decode a); (b, fl ||| f)

/-- The greatest or least floating element, in the result type. -/
def fExtreme (T D : Fmt) (max : Bool) (xs : List Nat) : Nat :=
  match xs with
  | [] => match D.infBits with
    | some i => withSign D max i
    | none => 0
  | x :: r =>
    let a := r.foldl (fun p y => fMinMax T max p y) (if (T.decode x).isNan then T.nan else x)
    (D.encode .rne (T.decode a)).1

/-- One group's result. -/
def reduce (op : RedOp) (T : Fmt) (wide sat : BitVec 1) (xs : List Nat) : Nat × Flags :=
  let D := redType T wide
  if T.float then
    match op with
    | .sum => fSum T D xs
    | .max => (fExtreme T D true xs, 0)
    | .min => (fExtreme T D false xs, 0)
  else
    let vs := xs.map (intVal T)
    let enc := fun (x : Int) => (x % 2 ^ (8 * D.bytes)).toNat
    match op, vs with
    | .sum, _ => intRes D sat (vs.foldl (· + ·) 0)
    | .max, [] => (enc D.intRange.1, 0)
    | .min, [] => (enc D.intRange.2, 0)
    | .max, v :: r => (enc (r.foldl (fun a b => if a < b then b else a) v), 0)
    | .min, v :: r => (enc (r.foldl (fun a b => if b < a then b else a) v), 0)

/-- VRED: the mask selects the inputs, and the results take the first R or C places (R224). -/
def State.vred (s : State) (t : Tok) (h : VHdr) (vd va : BitVec 6) (wide sat : BitVec 1) (op : RedOp) (row : Bool) :
    Host.Outcome State Fault Refusal :=
  s.local .X t (fun c => do
    typeOk (s.fullService s.cur.loom) h.ty
    let T := tyFmt h.ty
    c.fits T.bytes
    let D := redType T wide
    let R := c.rows
    let C := c.cols
    let n := if row then R else C
    check (decide (n * D.bytes ≤ 2048)) (shapeFault c)
    let m ← c.rdK h.mask
    let old ← c.vOld vd
    let (c, v) ← c.vSrc va
    let group (g : Nat) : List Nat :=
      let idx := if row then (List.range C).map (fun j => g * C + j) else (List.range R).map (fun j => j * C + g)
      (idx.filter (fun i => m.getLsbD i)).map (elemAt v T.bytes)
    let rs := (List.range n).map (fun g => reduce op T wide sat (group g))
    c.putV vd old (n * D.bytes) (packElems D.bytes (rs.map (·.1))) 8 t (rs.foldl (fun a r => a ||| r.2) 0))

/-- VRED.SUM.ROW (R224). -/
def execVredSumRow (t : Tok) (h : VHdr) (vd va : BitVec 6) (wide sat : BitVec 1) (s : State) := s.vred t h vd va wide sat .sum true
/-- VRED.SUM.COL (R224). -/
def execVredSumCol (t : Tok) (h : VHdr) (vd va : BitVec 6) (wide sat : BitVec 1) (s : State) := s.vred t h vd va wide sat .sum false
/-- VRED.MAX.ROW (R224). -/
def execVredMaxRow (t : Tok) (h : VHdr) (vd va : BitVec 6) (wide sat : BitVec 1) (s : State) := s.vred t h vd va wide sat .max true
/-- VRED.MAX.COL (R224). -/
def execVredMaxCol (t : Tok) (h : VHdr) (vd va : BitVec 6) (wide sat : BitVec 1) (s : State) := s.vred t h vd va wide sat .max false
/-- VRED.MIN.ROW (R224). -/
def execVredMinRow (t : Tok) (h : VHdr) (vd va : BitVec 6) (wide sat : BitVec 1) (s : State) := s.vred t h vd va wide sat .min true
/-- VRED.MIN.COL (R224). -/
def execVredMinCol (t : Tok) (h : VHdr) (vd va : BitVec 6) (wide sat : BitVec 1) (s : State) := s.vred t h vd va wide sat .min false

/-! ## Cross-lane moves (R225) -/

/-- A cross-lane move: destination element i takes the source element at src i, or zero if that is not active. -/
def State.move (s : State) (t : Tok) (h : VHdr) (vd : BitVec 6) (srcs : List (BitVec 6)) (limit : Nat)
    (src : (R C : Nat) → List VReg → Nat → Nat) : Host.Outcome State Fault Refusal :=
  s.local .X t (fun c => do
    typeOk (s.fullService s.cur.loom) h.ty
    let w := tyBytes h.ty
    c.fits w
    check (decide (c.elems ≤ limit)) (shapeFault c)
    let m ← c.rdK h.mask
    let old ← c.vOld vd
    let (c, vs) ← c.vSrcs srcs
    let E := c.elems
    let v := vs.getD 0 0
    let xs := (List.range E).map (fun i =>
      let j := src c.rows c.cols vs i
      if j < E ∧ m.getLsbD j then elemAt v w j else 0)
    c.putV vd old (E * w) (packElems w xs) 8 t)

/-- VSHUF (R225). -/
def execVshuf (t : Tok) (h : VHdr) (vd va vb : BitVec 6) (s : State) :=
  s.move t h vd [va, vb] 1024 (fun _ _ vs i => elemAt (vs.getD 1 0) 2 i)
/-- VROT.ROW (R225). -/
def execVrotRow (t : Tok) (h : VHdr) (vd va : BitVec 6) (n : BitVec 11) (s : State) :=
  s.move t h vd [va] 2048 (fun _ C _ i => i / C * C + (i % C + n.toNat) % C)
/-- VROT.COL (R225). -/
def execVrotCol (t : Tok) (h : VHdr) (vd va : BitVec 6) (n : BitVec 11) (s : State) :=
  s.move t h vd [va] 2048 (fun R C _ i => (i / C + n.toNat) % R * C + i % C)
/-- VTRAN (R225). -/
def execVtran (t : Tok) (h : VHdr) (vd va : BitVec 6) (s : State) :=
  s.move t h vd [va] 2048 (fun R C _ i => i % R * C + i / R)
/-- VBC.ROW (R225). -/
def execVbcRow (t : Tok) (h : VHdr) (vd va : BitVec 6) (s : State) :=
  s.move t h vd [va] 2048 (fun _ C _ i => i % C)
/-- VBC.COL (R225). -/
def execVbcCol (t : Tok) (h : VHdr) (vd va : BitVec 6) (s : State) :=
  s.move t h vd [va] 2048 (fun _ C _ i => i / C)

/-! ## Special functions (R226) -/

/-- A special function of each active element. -/
def State.special (s : State) (t : Tok) (h : VHdr) (vd va : BitVec 6) (lat : Nat) (g : SFun) : Host.Outcome State Fault Refusal :=
  s.vmap t h vd [va] lat (fun xs => g.apply (tyFmt h.ty) (xs.getD 0 0))

/-- VEXP2 (R226). -/
def execVexp2 (t : Tok) (h : VHdr) (vd va : BitVec 6) (s : State) := s.special t h vd va 12 .exp2
/-- VLOG2 (R226). -/
def execVlog2 (t : Tok) (h : VHdr) (vd va : BitVec 6) (s : State) := s.special t h vd va 12 .log2
/-- VRCP (R226). -/
def execVrcp (t : Tok) (h : VHdr) (vd va : BitVec 6) (s : State) := s.special t h vd va 10 .rcp
/-- VRSQ (R226). -/
def execVrsq (t : Tok) (h : VHdr) (vd va : BitVec 6) (s : State) := s.special t h vd va 10 .rsq
/-- VTANH (R226). -/
def execVtanh (t : Tok) (h : VHdr) (vd va : BitVec 6) (s : State) := s.special t h vd va 14 .tanh
/-- VSIGM (R226). -/
def execVsigm (t : Tok) (h : VHdr) (vd va : BitVec 6) (s : State) := s.special t h vd va 14 .sigm

end Sys2Proof.Machine
end

