-- ==== Sys2Proof/Machine/Slice.lean ====
section
/-!
DEFINITION. Accumulator tiles at their home slices: the states of R243, contributions, the slot table and the buffers
(R244 to R246), merging (R89, R90, R391), and who learns what of it (R249, R365, R390). ACC.INIT, ACC.DRAIN and their events
(R250, R256 to R258, R322, R386).
-/

namespace Sys2Proof.Machine

/-! ## Tiles -/

/-- A tile. -/
def State.tile (s : State) (n : Nat) : Tile := SMap.getD s.tiles n {}
/-- Replaces a tile. -/
def State.setTile (s : State) (n : Nat) (t : Tile) : State := { s with tiles := SMap.set s.tiles n t }
/-- The first byte of a tile. -/
def tilePa (n : Nat) : Nat := 65536 * n
/-- The unit of a tile's home slice (R336). -/
def sliceUnit (n : Nat) : Nat := 3 * 512 + sliceOf (tilePa n)
/-- The bytes of a tile. -/
def tileBytes (int : Bool) : Nat := if int then 131072 else 65536
/-- The bytes of an element of a tile (R242). -/
def elemBytes (int : Bool) : Nat := if int then 8 else 4
/-- The partition that owns a tile. -/
def State.tilePart (s : State) (n : Nat) : Option Partition := (s.panel (panelOfPa (tilePa n))).owner.bind s.part?
/-- Whether a tile merges in determinate mode. -/
def State.tileDet (s : State) (n : Nat) : Bool := ((s.tilePart n).map (·.determinate)).getD false

/-- ACCSTATE as a home slice detects it (R365, R367). -/
def accState (n : Nat) : FaultInfo := { cls := 9, cause := 9, d1 := tilePa n, precise := false, src := 3, unit := some (sliceUnit n) }

/-- FENCED of a home slice whose panel has failed (R409); its detail is the slice's number (DEDUCED, log 157). -/
def State.sliceGone (s : State) (n : Nat) : Option FaultInfo :=
  if (s.panel (panelOfPa (tilePa n))).faulted then some (memFault (tilePa n) 16 4 (tilePa n) (tilePa n) (sliceOf (tilePa n))) else none

/-! ## The slot table (R244) -/

/-- A key as an entry holds it. -/
def Key.toNat (k : Key) : Nat := k.peer * 2 ^ 48 + (if k.ev then 2 ^ 25 else 0) + k.loom * 2 ^ 16 + k.seq.toNat
/-- Where entry j of a tile's slot table lies here, as a run of 8 bytes. -/
def Tile.slotAt (t : Tile) (j : Nat) : Option Span := (slice t.slotSpans (8 * j) 8).head?

/-- Entry j: from memory, or from what a peer has sent. -/
def State.slotEntry (s : State) (t : Tile) (j : Nat) : Option Nat :=
  match t.slotAt j with
  | some sp => some (Memory.readLE s.mem sp.pa 8)
  | none => (t.slotData.find? (fun g => Nat.ble g.1 (8 * j) && Nat.ble (8 * j + 8) (g.1 + g.2.length))).map (fun g =>
      leNat ((g.2.drop (8 * j - g.1)).take 8))

/-- Whether entry j is the first that lists a key: a key listed twice is matched once, and an entry with a reserved bit set lists no
key (R2). -/
def State.slotMatches (s : State) (t : Tile) (k : Key) (j : Nat) : Bool :=
  s.slotEntry t j == some k.toNat && !(List.range j).any (fun i => s.slotEntry t i == some k.toNat)

/-! ## Arrival of a contribution (R243 to R245) -/

/-- How many contributions a slice's partial buffer holds (DEDUCED, log 62). -/
def State.buffered (s : State) (slice : Nat) : Nat :=
  ((s.tiles.filter (fun x => sliceOf (tilePa x.1) == slice)).map (fun x =>
    (((x.2.held.filter (·.buffered)).map (·.key)).eraseDups).length)).sum

/-- The units of a panel's overflow area that are taken. -/
def State.overflowTaken (s : State) (panel : Nat) : List Nat :=
  (s.tiles.filter (fun x => panelOfPa (tilePa x.1) == panel)).flatMap (fun x =>
    x.2.held.flatMap (fun k => match k.overflow with
      | some u => if k.int then [u, u + 1] else [u]
      | none => []))

/-- The lowest free unit, or pair of adjacent units, of a panel's overflow area. -/
def State.overflowRoom (s : State) (panel : Nat) (int : Bool) : Option Nat :=
  let units := ((((s.panel panel).owner.bind s.part?).bind (fun p => SMap.find? p.overflow panel)).map (fun a => a.2 / 65536)).getD 0
  let taken := s.overflowTaken panel
  (List.range units).find? (fun u => !taken.contains u && (!int || (Nat.blt (u + 1) units && !taken.contains (u + 1))))

/-- Where the bytes of a contribution stand in the unit of the overflow area that it has taken (DEDUCED, log 62). -/
def State.overflowSpan (s : State) (panel u : Nat) (k : Contribution) : Span :=
  let area := (((s.panel panel).owner.bind s.part?).bind (fun p => SMap.find? p.overflow panel)).getD (0, 0)
  { pa := area.1 + 65536 * u + k.first, va := 0, len := k.values.length * elemBytes k.int, off := 0 }

/-- A contribution goes to the overflow area, whose memory takes its elements (R245). -/
def State.overflowPut (s : State) (n u : Nat) (k : Contribution) : Except FaultInfo State :=
  match s.writeRuns (k.values.flatMap (leBytes (elemBytes k.int))) [s.overflowSpan (panelOfPa (tilePa n)) u k] with
  | (_, _, some f) => .error f
  | (s, _, none) =>
    let t := s.tile n
    .ok (s.setTile n { t with held := t.held ++ [{ k with overflow := some u, values := k.values.map (fun _ => 0) }] })

/-- The elements of bytes. -/
def elemsOf (int : Bool) : (n : Nat) → List Byte → List Nat
  | 0, _ => []
  | n + 1, bs => leNat (bs.take (elemBytes int)) :: elemsOf int n (bs.drop (elemBytes int))

/-- A contribution as its merge takes it: from the overflow area it is read back (R245). -/
def State.readBack (s : State) (n : Nat) (k : Contribution) : State × Contribution × Option FaultInfo :=
  match k.overflow with
  | none => (s, k, none)
  | some u =>
    match s.readSpan (s.overflowSpan (panelOfPa (tilePa n)) u k) with
    | (s, _, some f) => (s, k, some f)
    | (s, bs, none) => (s, { k with values := elemsOf k.int k.values.length bs }, none)

/-- The contributions of a tile that wait and are whole. -/
def Tile.whole (t : Tile) : Nat := (t.held.filter (·.closes)).length

/-- A contribution arrives at a tile: it waits there for its merge, or it is refused with a fault (R243, R245, R390). In
throughput mode it waits only for the contributions that came before it. -/
def State.contribute (s : State) (n : Nat) (k : Contribution) : Except FaultInfo State :=
  let t := s.tile n
  let put (k : Contribution) : State := s.setTile n { t with held := t.held ++ [k] }
  if (s.panel (panelOfPa (tilePa n))).faulted then .error (memFault (tilePa n) 16 4 (tilePa n) (tilePa n) 0)
  else if t.state ≠ .open then .error (accState n)
  else if !s.tileDet n then
    if t.merged + t.whole < t.expect then .ok (put k) else .error (accState n)
  else
    let at' (cause : Nat) : FaultInfo :=
      { cls := 0x15, cause := cause, addr := tilePa n, d0 := tilePa n, d1 := k.key.toNat, precise := false, src := 3,
        unit := some (sliceUnit n) }
    if !(List.range t.expect).any (fun j => Nat.ble t.merged j && s.slotMatches t k.key j) then .error (at' 4)
    else if !k.adds then .ok (put k)
    else if s.slotMatches t k.key t.merged ∧ !t.held.any (fun h => h.key == k.key) then .ok (put k)
    else if s.buffered (sliceOf (tilePa n)) < 16 ∨ t.held.any (fun h => h.key == k.key && h.buffered) then .ok (put { k with buffered := true })
    else
      match (t.held.findSome? (fun h => if h.key == k.key then h.overflow else none)).or (s.overflowRoom (panelOfPa (tilePa n)) k.int) with
      | some u => s.overflowPut n u k
      | none => .error (at' 5)

/-! ## What its source learns -/

/-- Changes a task record of a bolt. -/
def State.modTask (s : State) (b id : Nat) (f : Task → Task) : State :=
  let bo := s.bolt b
  s.setBolt b { bo with recs := bo.recs.map (fun r => if r.id = id then f r else r) }

/-- The key of a context's flags: a pick's completion barriers give their flags to the pick (R46). -/
def State.notePickFlags (s : State) (loom : Nat) (ev : Bool) (fl : Flags) : State :=
  let c := s.ctxAt loom ev
  s.setCtxAt loom ev { c with pickFlags := c.pickFlags ||| fl }

/-- A task leaves the scheduler and its counter. -/
def State.dropTask (s : State) (b : Nat) (t : Task) : State :=
  let bo := s.bolt b
  let s := s.setBolt b { bo with recs := bo.recs.filter (·.id != t.id) }
  match t.cmd with
  | some id => (s.setCtxAt t.loom t.ev ((s.ctxAt t.loom t.ev).completeOp id)).pump t.loom t.ev
  | none => s

/-- Raises a fault of a task: the fault is that of the context that issued it, or for a delivered record, which no context
issued, a unit record (R343, R365) (DEDUCED, log 26). -/
def State.taskFault (s : State) (b : Nat) (t : Task) (f : FaultInfo) : State :=
  if t.handle.isNone then s.raiseAsync t.loom t.ev { f with src := 3, line := t.line, lane := t.lane, stream := t.stream.toNat }
  else s.unitRecord t.peer (f.unit.getD (2 * 512 + 8 * b + t.engine.getD 0)) f

/-- A task that has started faults, and retires without counting anything (R390). -/
def State.failTask (s : State) (b : Nat) (t : Task) (f : FaultInfo) : State := (s.taskFault b t f).dropTask b t

/-- The STATUS that tells a peer why its reduction was refused (DEDUCED, log 27). -/
def refusalStatus (f : FaultInfo) : Nat := if f.cls = 0x15 ∧ f.cause = 6 then 5 else 3

/-- A contribution that the slice refuses. -/
def State.refuse (s : State) (k : Contribution) (f : FaultInfo) : State :=
  match k.task, k.cmd, k.remote with
  | some (b, id), _, _ =>
    match (s.bolt b).recs.find? (·.id == id) with
    | some t => s.failTask b t f
    | none => s
  | _, some (loom, ev, id), _ =>
    match (s.ctxAt loom ev).copy? id with
    | some c => s.failCopy loom ev c f
    | none => s
  | _, _, some (port, rtag) =>
    match s.incoming? port rtag with
    | some i => s.answer port i.flit kAck (refusalStatus f) 0 []
    | none => s
  | _, _, _ => s

/-- A contribution that has been merged, with its flags and those of the merge: a task may retire, a copy counts its bytes, a
peer is answered, with the flags of the merge in OPA (DESIGN CHOICE, log 150). `runs` are bytes of a memory-side page that it has changed. -/
def State.mergedFor (s : State) (int : Bool) (k : Contribution) (fl : Flags) (runs : List (Nat × Nat) := []) : State :=
  match k.task, k.cmd, k.remote with
  | some (b, id), _, _ => s.modTask b id (fun t => { t with merged := true, flags := fl })
  | _, some (loom, ev, id), _ =>
    match (s.ctxAt loom ev).copy? id with
    | none => s
    | some c =>
      let n := k.values.length
      let src := match c.kind with | .red 1 | .red 2 => 2 * n | _ => 4 * n
      match s.countFor (s.ctxAt loom ev).peer c.barrier (n * elemBytes int) fl runs with
      | (s, some f) => s.failCopy loom ev c f
      | (s, none) =>
        let s := if c.barrier.isSome then s.notePickFlags loom ev fl else s
        let s := s.modCopy loom ev id (fun c => { c with wroteTo := c.wroteTo + src })
        if c.wroteTo + src = c.len then s.finishCopy loom ev id else s
  | _, _, some (port, rtag) =>
    match s.incoming? port rtag with
    | some i => s.answer port i.flit kAck 0 (fl.setWidth 64) []
    | none => s
  | _, _, _ => s

/-! ## Merging (R89, R90, R243, R246, R391) -/

/-- A 48-bit accumulator in its 8-byte element (R80). -/
def accOf (x : Nat) : Int := (BitVec.ofNat 64 x).toInt

/-- The addition of one element of a contribution. -/
def mergeElem (int : Bool) (old x : Nat) : Nat × Flags :=
  if int then
    let (v, fl) := addAcc (accOf old) (accOf x)
    ((BitVec.ofInt 64 v).toNat, fl)
  else addFp32 old x

/-- Adds a contribution's elements into a tile's bytes. -/
def mergeInto (int : Bool) (pa : Nat) : Memory → Flags → List Nat → Memory × Flags
  | m, fl, [] => (m, fl)
  | m, fl, x :: r =>
    let (v, f) := mergeElem int (Memory.readLE m pa (elemBytes int)) x
    mergeInto int (pa + elemBytes int) (Memory.writeLE m pa (elemBytes int) v) (fl ||| f) r

/-- Bytes that no rule fixes, from the free values. -/
def freeBytes (i : Nat) : (n : Nat) → List Byte
  | 0 => []
  | n + 1 => Config.freeByte i :: freeBytes (i + 1) n

/-- Merges the elements of a contribution of its kind. Where its kind is not the tile's, the spec states no result: the bytes that
it touches take free values (DESIGN CHOICE, log 28). -/
def State.mergeBytes (s : State) (n : Nat) (int : Bool) (k : Contribution) : State × Flags :=
  let t := s.tile n
  if t.int = int then
    let (m, fl) := mergeInto int (tilePa n + k.first) s.mem 0 k.values
    ({ s with mem := m }, fl)
  else
    let len := k.values.length * elemBytes int
    ({ s with mem := Memory.writeN s.mem (tilePa n + k.first) (freeBytes s.freeIdx len),
              freeIdx := s.freeIdx + len }, 0)

/-- ACCDATA for a line of a tile. -/
def accData (n : Nat) (f : FaultInfo) : FaultInfo :=
  { f with cls := 0x15, cause := 6, addr := tilePa n, d0 := tilePa n, src := 3, unit := some (sliceUnit n) }

/-- Takes the contribution at a place off those that wait. -/
def Tile.take (t : Tile) (pos : Nat) : Tile := { t with held := t.held.eraseIdx pos }

/-- Whether the contribution at a place is the next to be merged: the first to have come in throughput mode, the first with the key
of entry MERGED in determinate mode. -/
def State.turn (s : State) (n pos : Nat) : Bool :=
  let t := s.tile n
  if !s.tileDet n then pos == 0
  else match t.held[pos]? with
    | some k => s.slotMatches t k.key t.merged && !(t.held.take pos).any (fun h => h.key == k.key)
    | none => false

/-- CONTRIBUTION_MERGE: the contribution whose turn it is is merged, and MERGED goes on once it is whole; a tile that is not OPEN
refuses it. -/
def State.mergeAt (s : State) (n pos : Nat) : Option State :=
  let t := s.tile n
  (t.held[pos]?).bind (fun k =>
    if (s.sliceGone n).isSome then (s.sliceGone n).map ((s.setTile n (t.take pos)).refuse k)
    else if t.state ≠ .open then some ((s.setTile n (t.take pos)).refuse k (accState n))
    else if !s.turn n pos then none
    else
      let bad := if s.tileDet n then (t.slotAt t.merged).map (fun sp => s.readSpan { sp with off := 0 }) else none
      match bad with
      | some (s, _, some f) =>
        some ((s.setTile n { t.take pos with state := .idle }).refuse k { accData n f with d1 := 0 })
      | _ =>
        let w := elemBytes k.int
        let run : Span := { pa := tilePa n + k.first, va := 0, len := k.values.length * w, off := 0 }
        match s.readSpan run with
        | (s, _, some f) => some ((s.setTile n { t.take pos with state := .idle }).refuse k (accData n f))
        | (s, _, none) =>
          match s.readBack n k with
          | (s, k, some f) => some ((s.setTile n (t.take pos)).refuse k f)
          | (s, k, none) =>
            let (s, fl) := if k.adds then s.mergeBytes n k.int k else (s, 0)
            let done := t.merged + (if k.closes then 1 else 0)
            let t' := { t.take pos with merged := done, state := if done = t.expect then .complete else .open }
            some ((s.setTile n t').mergedFor k.int k (k.flags ||| fl)))

/-- CONTRIBUTION_MERGE. -/
def execContributionMerge (tile pos : Nat) (s : State) := s.event (s.mergeAt tile pos)

/-! ## Pages of a tile (R242) -/

/-- The first page of a tile, if its pages are one tile, or two that are 2t and 2t + 1 of one slice. -/
def tileOf (int : Bool) (sps : List Span) : Option Nat :=
  match sps with
  | [a] => if int then none else some (a.pa / 65536)
  | [a, b] => if int && (a.pa / 65536) % 2 == 0 && b.pa == a.pa + 65536 then some (a.pa / 65536) else none
  | _ => none

/-- Keeps the order of a context's operations on a tile (R258). -/
def Ctx.opTurn (c : Ctx) (o : AccOp) : Bool :=
  !((c.accOps.takeWhile (·.id != o.id)).any (fun x => x.tile == o.tile)) && !c.waitsOn o.after

/-- Queues an ACC.INIT or ACC.DRAIN. -/
def State.queueAccOp (s : State) (t : Tok) (c : Ctx) (o : AccOp) : State :=
  let o := { o with id := c.nextId, line := c.ea.pc.toNat, lane := c.ea.lane, word := c.ea.word }
  s.setCtx ({ c with nextId := c.nextId + 1, accOps := c.accOps ++ [o] }.postNow .A t)

/-! ## ACC.INIT (R250, R256, R322) -/

/-- ACC.INIT (DEDUCED, log 58). -/
def execAccInit (t : Tok) (ra rb : BitVec 6) (st : BitVec 4) (sl : BitVec 6) (s : State) :=
  s.command t (fun c => do
    let caddr ← c.rdA ra
    let x ← c.rdA rb
    let table ← c.rdA sl
    let det := s.determinate c
    let int := x.getLsbD 16
    let expect := (x.extractLsb' 0 13).toNat
    check (caddr.toNat % 65536 == 0) (faultOf 4 1 caddr.toNat)
    check (!det || table.toNat % 8 == 0) (faultOf 4 1 table.toNat)
    let bad := faultOf 9 9 0 caddr.toNat
    check (Nat.ble 1 expect && Nat.ble expect 4096 && x &&& 0xFFFFFFFFFFFEE000 == 0) bad
    check (!int || caddr.toNat % 131072 == 0) bad
    let slots : List Run := if det then [⟨.load, 0x3C, 0, table, 8 * expect⟩] else []
    let spss ← s.checkCommand s.cur.who s.cur.loom c.peer (⟨.tileC, 0x3C, 0, caddr, tileBytes int⟩ :: slots)
    match tileOf int (spss.headD []) with
    | none => .error bad
    | some n => do
      c.fenceFree st
      let sps := spss.getD 1 []
      return s.queueAccOp t c { id := 0, drain := false, tile := n, value := x, caddr := caddr, slots := sps, stream := st,
                                after := c.earlier st sps, bound := s.objectsAt c.peer (spss.headD []) })

/-- Zeroes a range of memory and its line records. -/
def State.zeroRange (s : State) (pa n : Nat) : State :=
  { s with mem := s.mem.filter (fun c => Nat.blt c.1 pa || Nat.ble (pa + n) c.1),
           lineMeta := s.lineMeta.filter (fun l => Nat.blt l.1 (pa / 128) || Nat.ble ((pa + n) / 128) l.1) }

/-- Cuts a run of bytes at a peer at multiples of 2,048 bytes (R295). -/
def cutPeer (sp : Span) : (fuel : Nat) → List Span
  | 0 => []
  | fuel + 1 =>
    if sp.len = 0 then []
    else
      let n := Nat.min sp.len (2048 - sp.va % 2048)
      { sp with len := n } :: cutPeer { sp with va := sp.va + n, off := sp.off + n, len := sp.len - n } fuel

/-- A fault of an ACC.INIT or ACC.DRAIN, which is given up. -/
def State.failAccOp (s : State) (loom : Nat) (ev : Bool) (o : AccOp) (f : FaultInfo) : State :=
  (s.raiseAsync loom ev { f with src := 3, line := o.line, lane := o.lane, stream := o.stream.toNat }).finishAccOp loom ev o.id

/-- The home slice asks peers for the parts of a slot table that lie there (R256, R295). -/
def State.askSlots (s : State) (loom : Nat) (ev : Bool) (o : AccOp) : State :=
  let c := s.ctxAt loom ev
  let away := (o.slots.filter (·.remote c.peer)).flatMap (fun sp => cutPeer sp (sp.len / 2048 + 2))
  let s := away.foldl (fun s x =>
    s.request (2048 + sliceOf (tilePa o.tile)) c.peer (x.peer.getD 0) loom ev (.slots o.id x.off x.len) kRead
      { noFlit with addr := BitVec.ofNat 48 x.va, stream := o.stream, lenM1 := BitVec.ofNat 11 (x.len - 1) }) s
  s.modAccOp loom ev o.id (fun o => { o with asked := true })

/-- The spans of a slot table that lie here. -/
def State.slotsHere (s : State) (c : Ctx) : List Span → Except FaultInfo (List Span)
  | [] => .ok []
  | sp :: r =>
    if sp.remote c.peer then s.slotsHere c r
    else
      match s.localSpans c .load sp, s.slotsHere c r with
      | .ok xs, .ok ys => .ok (xs ++ ys)
      | .error f, _ | _, .error f => .error f

/-- ACC_INIT_APPLIED: the home slice zeroes and opens the tile, unless it is OPEN (R243). What a peer holds of the slot table has come
before. -/
def State.applyInit (s : State) (loom : Nat) (ev : Bool) (id : Nat) : Option State :=
  let c := s.ctxAt loom ev
  (c.accOps.find? (·.id == id)).bind (fun o =>
    if o.drain ∨ !c.opTurn o then none
    else if (s.sliceGone o.tile).isSome then (s.sliceGone o.tile).map (s.failAccOp loom ev o)
    else if (s.tile o.tile).state = .open then
      some (s.failAccOp loom ev o { accState o.tile with cause := 10 })
    else if o.slots.any (·.remote c.peer) && !o.asked then some (s.askSlots loom ev o)
    else if ((o.slots.filter (·.remote c.peer)).map (·.len)).sum != (o.slotGot.map (fun g => g.2.length)).sum then none
    else
      match s.slotsHere c o.slots with
      | .error f => some (s.failAccOp loom ev o f)
      | .ok slots =>
        let int := o.value.getLsbD 16
        let t' : Tile := { s.tile o.tile with state := .open, merged := 0, expect := (o.value.extractLsb' 0 13).toNat, int := int,
                                              slotSpans := slots, slotData := o.slotGot }
        some (((s.zeroRange (tilePa o.tile) (tileBytes int)).setTile o.tile t').finishAccOp loom ev id))

/-- ACC_INIT_APPLIED. -/
def execAccInitApplied (loom : Nat) (ev : Bool) (op : Nat) (s : State) := s.event (s.applyInit loom ev op)

/-! ## ACC.DRAIN (R257, R258) -/

/-- The checks of the entry that a drain reads (R85, R137, R257). -/
def drainEntry (full int : Bool) (e : BitVec 16) : Act Fmt := do
  let o := entOFMT e
  check (Nat.ble o 9 && Nat.ble (entRND e) 5) (fmtFault 1 e)
  check (if int then o == 9 || o == 0 || o == 1 else Nat.ble o 4) (fmtFault 2 e)
  check (!withheld full o) (fmtFault 3 e)
  check (entRND e != 4) (fmtFault 4 e)
  return (Fmt.ofCode o).getD .fp32

/-- Whether the tile that a drain will meet is an integer tile: the context's own latest ACC.INIT of it that is not applied, or the
tile as it stands. -/
def State.drainsInt (s : State) (c : Ctx) (n : Nat) : Bool :=
  match (c.accOps.filter (fun o => !o.drain && o.tile == n)).getLast? with
  | some o => o.value.getLsbD 16
  | none => (s.tile n).int

/-- The rows of a drain as runs. -/
def drainRuns (dest : W64) (pitch : Int) (w : Nat) : List Run :=
  (List.range 128).map (fun r => ⟨.copyDst, 0x3C, r * (128 * w), addOffset dest (r * pitch), 128 * w⟩)

/-- ACC.DRAIN (DEDUCED, log 59). -/
def execAccDrain (t : Tok) (ra rb : BitVec 6) (st : BitVec 4) (aP ab : BitVec 6) (s : State) :=
  s.command t (fun c => do
    let dest ← c.rdA ra
    let caddr ← c.rdA rb
    let pitch := (← c.rdA aP).extractLsb' 0 32
    let bar ← c.rdA ab
    check (dest.toNat % 4 == 0) (faultOf 4 4 dest.toNat dest.toNat)
    check (pitch.toNat % 4 == 0) (faultOf 4 4 dest.toNat pitch.toNat)
    check (caddr.toNat % 65536 == 0) (faultOf 4 4 caddr.toNat caddr.toNat)
    barrierAligned bar
    let e := s.fmtEntry c (selIndex c.ftbase c.ea.lc)
    let w := ((Fmt.ofCode (entOFMT e)).getD .fp32).bytes
    let spss ← s.checkCommand s.cur.who s.cur.loom c.peer
      (drainRuns dest pitch.toInt w ++ [⟨.tileC, 0x3C, 0, caddr, 65536⟩] ++ barrierRun 0x3C ab bar)
    let n : Nat := (((spss.getD 128 []).head?).map (fun sp => sp.pa / 65536)).getD 0
    let int := s.drainsInt c n
    let _ ← drainEntry (s.fullService s.cur.loom) int e
    check (!int || caddr.toNat % 131072 == 0) (faultOf 4 4 caddr.toNat caddr.toNat)
    check (Nat.ble (128 * w) pitch.toInt.natAbs) (faultOf 9 5)
    let tsps ← s.run c .tileC 0x3C 0 caddr (tileBytes int)
    c.fenceFree st
    match tileOf int tsps with
    | none => return (s.setCtx (c.postNow .A t)).raiseAsync s.cur.loom s.cur.ev (accState n)
    | some n =>
      let rows := (spss.take 128).flatten
      let rs := s.carriedBy c st (namedBarrier ab bar) rows
      return s.queueAccOp t (c.release rs) { id := 0, drain := true, tile := n, caddr := caddr, rows := rows, ofmt := entOFMT e,
                                             rnd := entRND e, stream := st, after := coveredBy rs,
                                             barrier := if ab = 0 then none else ((spss.getD 129 []).head?) })

/-- One row of a tile converted: its bytes and flags (R81, R90). -/
def drainRow (m : Memory) (n : Nat) (int : Bool) (f : Fmt) (mode : RMode) (r : Nat) : List Byte × Flags :=
  let one (k : Nat) : Nat × Flags :=
    let x := Memory.readLE m (tilePa n + (128 * r + k) * elemBytes int) (elemBytes int)
    if int && f == .int32 then
      let v := accOf x
      let w := if v < -(2 ^ 31) then -(2 ^ 31) else if 2 ^ 31 - 1 < v then 2 ^ 31 - 1 else v
      ((BitVec.ofInt 32 w).toNat, if w = v then 0 else fSAT)
    else if int then
      let v := accOf x
      f.encode mode (.fin (decide (v < 0)) v.natAbs 0)
    else if f = .fp32 then (x, 0)
    else f.encode mode (Fmt.fp32.decode x)
  let rs := (List.range 128).map one
  (rs.flatMap (fun x => leBytes f.bytes x.1), rs.foldl (fun a x => a ||| x.2) 0)

/-- A row has been performed: it is counted, and the last one ends the drain. `runs` are its bytes where they lie here. -/
def State.rowDone (s : State) (loom : Nat) (ev : Bool) (id row : Nat) (runs : List (Nat × Nat) := []) : State :=
  let c := s.ctxAt loom ev
  match c.accOps.find? (·.id == id) with
  | none => s
  | some o =>
    let left := o.waitRows.erase row
    let s := s.modAccOp loom ev id (fun o => { o with waitRows := left })
    if left.contains row then s
    else
      let fl := o.rowFlags.getD row 0
      match s.countFor c.peer o.barrier (128 * ((Fmt.ofCode o.ofmt).getD .fp32).bytes) fl runs with
      | (s, some f) => s.failAccOp loom ev o f
      | (s, none) =>
        let s := if o.barrier.isSome then s.notePickFlags loom ev fl else s
        if left.isEmpty then s.finishAccOp loom ev id else s

/-- The request of a WRITE of bytes to a peer by an engine. -/
def State.sendWrite (s : State) (src peer loom : Nat) (ev : Bool) (st : BitVec 4) (owner : ReqFor) (sp : Span) (bs : List Byte) :
    State :=
  s.request src peer (sp.peer.getD 0) loom ev owner kWrite
    { noFlit with addr := BitVec.ofNat 48 sp.va, stream := st, lenM1 := BitVec.ofNat 11 (sp.len - 1), opa := inline bs,
                  data := if sp.len ≤ 8 then [] else bs }

/-- Writes the rows of a drain in order: those here at once, those of peers by requests. It stops at the first fault. -/
def State.writeRows (s : State) (loom : Nat) (ev : Bool) (peer : Nat) (o : AccOp) (data : List Byte) (w : Nat) :
    List (Nat × Span) → State × Option FaultInfo
  | [] => (s, none)
  | (row, sp) :: r =>
    let c := s.ctxAt loom ev
    if sp.remote peer then
      let cuts := cutPeer sp 3
      let s := cuts.foldl (fun s x =>
        s.sendWrite (2048 + sliceOf (tilePa o.tile)) peer loom ev o.stream (.drainRow o.id row) x ((data.drop x.off).take x.len)) s
      let s := s.modAccOp loom ev o.id (fun o => { o with waitRows := o.waitRows ++ List.replicate (cuts.length - 1) row })
      s.writeRows loom ev peer o data w r
    else
      match s.localSpans c .copyDst sp with
      | .error f => (s, some f)
      | .ok sps =>
        match s.writeSpans data sps (some (loom, ev)) with
        | (s, some f) => (s, some f)
        | (s, none) => (s.rowDone loom ev o.id row (sps.map (fun x => (x.pa, x.len)))).writeRows loom ev peer o data w r

/-- TILE_DRAIN: the tile is COMPLETE, and its rows are read, converted, written and counted. -/
def State.tileDrain (s : State) (loom : Nat) (ev : Bool) (id : Nat) : Option State :=
  let c := s.ctxAt loom ev
  (c.accOps.find? (·.id == id)).bind (fun o =>
    if !o.drain ∨ !c.opTurn o ∨ o.rowFlags ≠ [] then none
    else if (s.sliceGone o.tile).isSome then (s.sliceGone o.tile).map (s.failAccOp loom ev o)
    else
      let t := s.tile o.tile
      let stop (s : State) (f : FaultInfo) : State := s.failAccOp loom ev o f
      match t.state with
      | .open => none
      | .idle => some (stop s (accState o.tile))
      | .complete =>
        match s.readSpan { pa := tilePa o.tile, va := 0, len := tileBytes t.int, off := 0 } with
        | (s, _, some f) => some (stop (s.setTile o.tile { t with state := .idle }) (accData o.tile f))
        | (s, _, none) =>
          let f := (Fmt.ofCode o.ofmt).getD .fp32
          let rows := (List.range 128).map (drainRow s.mem o.tile t.int f ((RMode.ofCode o.rnd 0).getD .rne))
          let w := f.bytes
          let rowOf (sp : Span) : Nat := sp.off / (128 * w)
          let s := s.modAccOp loom ev id (fun o => { o with rowFlags := rows.map (·.2), waitRows := o.rows.map rowOf })
          match s.writeRows loom ev c.peer o (rows.flatMap (·.1)) w (o.rows.map (fun sp => (rowOf sp, sp))) with
          | (s, none) => some s
          | (s, some f) => some (stop s f))

/-- TILE_DRAIN. -/
def execTileDrain (loom : Nat) (ev : Bool) (op : Nat) (s : State) := s.event (s.tileDrain loom ev op)

/-- DRAIN_TIMEOUT (R386): a drain that still waits for COMPLETE at the barrier limit is abandoned (DEDUCED, log 29). -/
def State.drainTimeout (s : State) (loom : Nat) (ev : Bool) (id : Nat) : Option State :=
  let c := s.ctxAt loom ev
  let limit := ((s.part? c.peer).map (·.barrierLimit)).getD 0
  (c.accOps.find? (·.id == id)).bind (fun o =>
    let t : Tile := s.tile o.tile
    if (!o.drain || limit == 0 || t.state != .open) = true then none
    else
      some (s.failAccOp loom ev o { cls := 0x13, cause := 3, addr := o.caddr.toNat, d0 := o.caddr.toNat,
                                    d1 := t.merged * 2 ^ 32 + t.expect, precise := false, unit := some (sliceUnit o.tile) }))

/-- DRAIN_TIMEOUT. -/
def execDrainTimeout (loom : Nat) (ev : Bool) (op : Nat) (s : State) := s.event (s.drainTimeout loom ev op)

end Sys2Proof.Machine
end

