-- ==== Sys2Proof/Machine/Matrix.lean ====
section
/-!
DEFINITION. Tile tasks: TASK.PUT, TASK.PUTP and TASK.CANCEL, the bolt task scheduler and the matrix engines
(R237 to R241, R247 to R255, R343, R364).
-/

namespace Sys2Proof.Machine

/-! ## Formats (R241) -/

/-- The operand pairs of a task: some true for integers, some false for floats, none for a pair that is not admitted. -/
def taskPair (a b : Nat) : Option Bool :=
  let wide (x : Nat) : Bool := x == 1 || x == 2
  let fp8 (x : Nat) : Bool := x == 3 || x == 4
  let int8 (x : Nat) : Bool := x == 6 || x == 7
  if (wide a && (wide b || fp8 b)) || (wide b && fp8 a) then some false
  else if fp8 a && fp8 b then some false
  else if int8 a && int8 b then some true
  else if a == 5 && b == 5 then some false
  else none

/-- The checks of a task's entry (R85, R137, R241), in the order of their causes; the answer is whether it is an integer task. -/
def taskEntry (full : Bool) (opc : Nat) (e : BitVec 16) : Act Bool := do
  let a := entAFMT e
  let b := entBFMT e
  let o := entOFMT e
  check (Nat.ble a 9 && Nat.ble b 9 && Nat.ble o 9 && Nat.ble (entRND e) 5) (fmtFault 1 e)
  match taskPair a b with
  | none => .error (fmtFault 2 e)
  | some int => do
    check (entSCL e == (a == 5) && o == (if int then 9 else 0) && (a != 5 || opc == 3)) (fmtFault 2 e)
    check (!withheld full a && !withheld full b) (fmtFault 3 e)
    check (entRND e != 4) (fmtFault 4 e)
    return int

/-! ## Operands (R237, R239, R240) -/

/-- An operand: its format, whether its lines are reduction-contiguous, K, and the fields of its descriptor. -/
structure Operand where
  fmt : Nat
  red : Bool
  k : Nat
  base : Nat
  rpitch : Nat
  tpitch : Nat
  sbase : Nat
  rot : Nat
  deriving DecidableEq, Repr

/-- An operand from its descriptor. -/
def Operand.of (fmt : Nat) (red : Bool) (k : Nat) (d : W64 × W64) : Operand :=
  { fmt := fmt, red := red, k := k, base := (d.1.extractLsb' 0 23).toNat, rpitch := (d.1.extractLsb' 32 32).toNat,
    tpitch := (d.2.extractLsb' 0 23).toNat, sbase := (d.2.extractLsb' 32 23).toNat, rot := (d.2.extractLsb' 61 3).toNat }

/-- The bytes of a line of 64 elements. -/
def Operand.ll (o : Operand) : Nat := if o.fmt = 5 then 32 else if o.fmt = 1 ∨ o.fmt = 2 then 128 else 64

/-- How many outer and inner indices the lines have. -/
def Operand.dims (o : Operand) : Nat × Nat := if o.red then (o.k / 64, 128) else (2, o.k)

/-- Where a line starts. -/
def Operand.lineAt (o : Operand) (out inner : Nat) : Nat := o.base + out * o.tpitch + inner * o.rpitch

/-- One past the last byte of the lines. -/
def Operand.last (o : Operand) : Nat := o.lineAt (o.dims.1 - 1) (o.dims.2 - 1) + o.ll

/-- The bytes of the scale plane. -/
def Operand.scaleLen (o : Operand) : Nat := if o.fmt = 5 then 512 * (o.k / 64) else 0

/-- The checks of R239. -/
def Operand.ok (o : Operand) (d : W64 × W64) : Bool :=
  d.1.extractLsb' 23 9 == 0 && d.2.extractLsb' 55 6 == 0 && d.2.extractLsb' 23 9 == 0
  && (o.fmt == 5 || o.sbase == 0) && Nat.blt o.rpitch (2 ^ 23)
  && o.base % o.ll == 0 && o.rpitch % o.ll == 0 && o.tpitch % o.ll == 0 && o.sbase % 4 == 0
  && Nat.ble o.last (2 ^ 23) && Nat.ble (o.sbase + o.scaleLen) (2 ^ 23)

/-- The ranges of an operand that the checker compares (R253). -/
def Operand.ranges (o : Operand) (bolt : Nat) : List (Nat × Nat) :=
  (boltPad bolt o.base, o.last - o.base) :: (if o.fmt = 5 then [(boltPad bolt o.sbase, o.scaleLen)] else [])

/-- The lines of an operand in the order in which the engine reads them: within each outer index from line 4 × ROT onward (R240);
then its scale plane. -/
def Operand.spans (o : Operand) (bolt : Nat) : List Span :=
  let (outs, inners) := o.dims
  let sp (off len : Nat) : Span := { pa := boltPad bolt off, va := off, len := len, off := 0 }
  (List.range outs).flatMap (fun out => (List.range inners).map (fun i =>
    sp (o.lineAt out ((i + 4 * o.rot) % inners)) o.ll))
  ++ (if o.fmt = 5 then [sp o.sbase o.scaleLen] else [])

/-- The bits of an element, by its free index and its k. -/
def Operand.elem (o : Operand) (m : Memory) (bolt f k : Nat) : Nat :=
  let (line, j) := if o.red then (o.lineAt (k / 64) f, k % 64) else (o.lineAt (f / 64) k, f % 64)
  let at' (i n : Nat) : Nat := Memory.readLE m (boltPad bolt (line + i)) n
  if o.fmt = 5 then (at' (j / 2) 1 / (if j % 2 = 0 then 1 else 16)) % 16
  else if o.ll = 128 then at' (2 * j) 2 else at' j 1

/-- The scale and extra byte of a block of 32 elements of an E2M1 operand, by its free index. -/
def Operand.scale (o : Operand) (m : Memory) (bolt f blk : Nat) : Nat × Nat :=
  let p := boltPad bolt (o.sbase + 4 * (128 * (blk / 2) + f) + 2 * (blk % 2))
  (Memory.readLE m p 1, Memory.readLE m (p + 1) 1)

/-- The exact value of an element without its scale. -/
def Operand.num (o : Operand) (m : Memory) (bolt f k : Nat) : Num :=
  if o.fmt = 5 then e2m1Num (o.elem m bolt f k) (o.scale m bolt f (k / 32)).2
  else ((Fmt.ofCode o.fmt).getD .bf16).decode (o.elem m bolt f k)

/-- The scale of a block; 1 where the format has none (R88). -/
def Operand.blockScale (o : Operand) (m : Memory) (bolt f blk : Nat) : Option (Nat × Int) :=
  if o.fmt = 5 then e5m3 (o.scale m bolt f blk).1 else some (1, 0)

/-! ## Partials (R88, R90, R237) -/

/-- One element of a floating partial, from +0 (R88). -/
def floatElem (a b : Operand) (m : Memory) (bolt r c : Nat) : Nat × Flags :=
  (List.range (a.k / 32)).foldl (fun acc blk =>
    let ps := (List.range 32).map (fun i => (a.num m bolt r (32 * blk + i)).mul (b.num m bolt c (32 * blk + i)))
    let (x, f1) := blockSum ps (a.blockScale m bolt r blk) (b.blockScale m bolt c blk)
    let (y, f2) := addFp32 acc.1 x
    (y, acc.2 ||| f1 ||| f2)) (0, 0)

/-- One element of an integer partial (R90). -/
def intElem (a b : Operand) (m : Memory) (bolt r c : Nat) : Nat × Flags :=
  let v (o : Operand) (f k : Nat) : Int := intVal ((Fmt.ofCode o.fmt).getD .int8) (o.elem m bolt f k)
  let (x, fl) := (List.range a.k).foldl (fun (acc : Int × Flags) k =>
    let (y, f) := addAcc acc.1 (v a r k * v b c k)
    (y, acc.2 ||| f)) (0, 0)
  ((BitVec.ofInt 64 x).toNat, fl)

/-- The partial of a task, row by row, and its flags. -/
def partialOf (int : Bool) (a b : Operand) (m : Memory) (bolt : Nat) : List Nat × Flags :=
  let es := (List.range 16384).map (fun i =>
    if int then intElem a b m bolt (i / 128) (i % 128) else floatElem a b m bolt (i / 128) (i % 128))
  (es.map (·.1), es.foldl (fun f e => f ||| e.2) 0)

/-! ## Records (R238) -/

/-- OPC of a record's word 0. -/
def taskOpc (w0 : W64) : Nat := (w0.extractLsb' 60 4).toNat
/-- K of a record's word 0. -/
def taskK (w0 : W64) : Nat := 64 * ((w0.extractLsb' 54 6).toNat + 1)

/-- Operand A of a record. -/
def operandA (w0 : W64) (fmt : BitVec 16) (d : W64 × W64) : Operand :=
  Operand.of (entAFMT fmt) (taskOpc w0 % 2 == 1) (taskK w0) d
/-- Operand B of a record. -/
def operandB (w0 : W64) (fmt : BitVec 16) (d : W64 × W64) : Operand :=
  Operand.of (entBFMT fmt) (taskOpc w0 / 2 == 1) (taskK w0) d

/-- Word 0 of a record that TASK.PUT builds. -/
def taskWord0 (opc : BitVec 4) (km1 : BitVec 6) (ev : Bool) (loom : Nat) (p1 p2 : BitVec 8) (seq : BitVec 16) : W64 :=
  opc ++ km1 ++ BitVec.ofBool ev ++ BitVec.ofNat 9 loom ++ p1 ++ p2 ++ seq ++ (0 : BitVec 11) ++ (1 : BitVec 1)

/-- The unit of a bolt's task scheduler. -/
def schedulerUnit (bolt : Nat) : Nat := 2 * 512 + 320 + bolt

/-! ## TASK.PUT and TASK.PUTP (R247, R248) -/

/-- The compute cycles of a task (R241). -/
def computeCycles (e : BitVec 16) (k : Nat) : Nat :=
  let narrow (x : Nat) : Bool := x != 1 && x != 2
  if entAFMT e = 5 then k else if narrow (entAFMT e) && narrow (entBFMT e) then 2 * k else 4 * k

/-- The declared retirement of a task in determinate mode (R170, R254): its start, once its predecessors have retired, plus its compute
cycles and 6,144 (DEDUCED, log 30). -/
def Ctx.taskDue (c : Ctx) (cycles : Nat) (preds : List (BitVec 16)) : Nat :=
  let named := c.liveCmds.filter (fun n => preds.contains n.seq)
  let dues := (c.outs.filter (fun o => named.any (·.id == o.id))).map (fun o => o.due.getD 0)
  dues.foldl Nat.max (c.detCyc + 1) + cycles + 6144

/-- The shared course of TASK.PUT and TASK.PUTP (DEDUCED, log 61). -/
def State.taskPut (s : State) (t : Tok) (ra rb : BitVec 6) (st : BitVec 4) (ac ab km1 : BitVec 6) (opc : BitVec 4)
    (p1 p2 : BitVec 8) : Host.Outcome State Fault Refusal :=
  s.command t (fun c => do
    let a0 ← c.rdA ra
    let a1 ← c.rdA (ra + 1)
    let b0 ← c.rdA rb
    let b1 ← c.rdA (rb + 1)
    let caddr ← c.rdA ac
    let bar ← c.rdA ab
    let loom := s.cur.loom
    let b := boltOf loom
    let e := s.fmtEntry c (selIndex c.ftbase c.ea.lc)
    let int ← taskEntry (s.fullService loom) opc.toNat e
    let w0 := taskWord0 opc km1 s.cur.ev loom p1 p2 c.seq
    let bad := faultOf 9 7 0 w0.toNat
    let oa := operandA w0 e (a0, a1)
    let ob := operandB w0 e (b0, b1)
    check (oa.ok (a0, a1) && ob.ok (b0, b1)) bad
    check (caddr.toNat % tileBytes int == 0) (faultOf 4 1 caddr.toNat)
    barrierAligned bar
    let spss ← s.checkCommand s.cur.who loom c.peer (⟨.tileC, 0x3B, 0, caddr, tileBytes int⟩ :: barrierRunAt 0x3B bar)
    match tileOf int (spss.headD []) with
    | none => .error bad
    | some n => do
      c.fenceFree st
      c.counterRoom .tkc
      let num : NumCmd := { seq := c.seq, id := c.nextId, reads := oa.ranges b ++ ob.ranges b, writes := [],
                            preds := c.predSeqs p1 p2, stream := st, reading := true }
      c.checkNumber (s.determinate c) num
      let bo := s.bolt b
      check (Nat.blt (bo.recs.filter (fun r => r.engine.isNone && !r.cancelled)).length 64) (.wait .copyQueue)
      let rs := s.carriedBy c st (if bar = 0 then none else some bar) []
      let due := if s.determinate c then some (c.taskDue (computeCycles e (taskK w0)) (c.predSeqs p1 p2)) else none
      let after := c.earlier st (oa.spans b ++ ob.spans b)
        ++ (c.accOps.filter (fun o => !o.drain && o.tile == n)).map (·.id)
      let rec' : Task := { id := bo.nextTask, peer := c.peer, loom := loom, ev := s.cur.ev, seq := c.seq, w0 := w0,
                           caddr := caddr, a := (a0, a1), b := (b0, b1), fmt := e, tile := n, int := int, baraddr := bar,
                           barrier := (spss.getD 1 []).head?, predSeqs := c.predSeqs p1 p2, after := after,
                           carries := coveredBy rs, cmd := some c.nextId, line := c.ea.pc.toNat, lane := c.ea.lane, stream := st }
      let s := s.setBolt b { bo with recs := bo.recs ++ [rec'], nextTask := bo.nextTask + 1 }
      return s.setCtx (((c.release rs).takeNumber .tkc due num).postNow .A t))

/-- TASK.PUT. -/
def execTaskPut (t : Tok) (ra rb : BitVec 6) (st : BitVec 4) (ac ab km1 : BitVec 6) (opc : BitVec 4) (s : State) :=
  s.taskPut t ra rb st ac ab km1 opc 0 0
/-- TASK.PUTP. -/
def execTaskPutp (t : Tok) (ra rb : BitVec 6) (st : BitVec 4) (ac ab km1 : BitVec 6) (opc : BitVec 4) (p1 p2 : BitVec 8)
    (s : State) :=
  s.taskPut t ra rb st ac ab km1 opc p1 p2

/-! ## TASK.CANCEL (R255) -/

/-- A cancelled record retires at once: it counts its bytes without flags and leaves its counter. Its place in the scheduler is kept
until a contribution that adds nothing has gone to the slice. -/
def State.cancelTask (s : State) (b : Nat) (t : Task) : State :=
  let (s, f) := s.countFor t.peer t.barrier (tileBytes t.int) 0
  let s := s.modTask b t.id (fun t => { t with cancelled := true, cmd := none })
  let s := match f with | some f => s.taskFault b t f | none => s
  match t.cmd with
  | some id => (s.setCtxAt t.loom t.ev ((s.ctxAt t.loom t.ev).completeOp id)).pump t.loom t.ev
  | none => s

/-- Sends the contribution of a cancelled record, once the ACC.INITs that its context issued before it are applied (R250, R255); a tile
that refuses it faults its context (R243). -/
def State.sendNothing (s : State) (b : Nat) (t : Task) : State :=
  if (s.ctxAt t.loom t.ev).waitsOn t.after then s
  else
    let bo := s.bolt b
    let s := s.setBolt b { bo with recs := bo.recs.filter (·.id != t.id) }
    let k : Contribution := { key := ⟨t.peer, t.ev, t.loom, t.seq⟩, first := 0, int := t.int, values := [], adds := false, flags := 0 }
    match s.contribute t.tile k with
    | .ok s => s
    | .error f => s.taskFault b t f

/-- Sends the contributions of all cancelled records that may go. -/
def State.flushCancelled (s : State) : State :=
  s.bolts.foldl (fun s x => (x.2.recs.filter (·.cancelled)).foldl (fun s t => s.sendNothing x.1 t) s) s

/-- TASK.CANCEL: what it returns is a register load (R159, R173). -/
def execTaskCancel (t : Tok) (ra rb : BitVec 6) (st : BitVec 4) (s : State) :=
  s.command t (fun c => do
    let bar ← c.rdA rb
    wantAddress bar
    let b := boltOf s.cur.loom
    let mine := (s.bolt b).recs.filter (fun r => r.cmd.isSome && r.loom == s.cur.loom && r.ev == s.cur.ev
      && r.engine.isNone && !r.cancelled && r.baraddr == bar && bar != 0)
    let s ← s.issueAccess t c { id := 0, kind := .value mine.length, stream := st, spans := [], dest := .reg ra, len := 8 } none 384
    return mine.foldl (fun s r => s.cancelTask b r) s)

/-! ## The scheduler (R251, R252, R364) -/

/-- Whether every predecessor of a record has retired or been cancelled. -/
def State.taskReady (s : State) (b : Nat) (t : Task) : Bool :=
  t.predTasks.all (fun i => !(s.bolt b).recs.any (·.id == i))
  && (t.cmd.isNone || t.predSeqs.all (s.ctxAt t.loom t.ev).seqDone)

/-- The lowest free engine of a bolt. -/
def Bolt.freeEngine (b : Bolt) : Option Nat :=
  (List.range 8).find? (fun e => !b.recs.any (fun r => r.engine == some e && !r.sent))

/-- The check of a record that a bobbin delivered, after its walks (R251): the record as it runs. -/
def State.checkDelivered (s : State) (b : Nat) (t : Task) : Act Task := do
  let bad := faultOf 9 7 0 t.w0.toNat
  let w := t.w0
  check (w.getLsbD 0 && w.extractLsb' 1 11 == 0 && Nat.ble (taskOpc w) 3) bad
  check (!t.badPred) bad
  let int ← taskEntry (s.fullService (8 * b)) (taskOpc w) t.fmt
  check ((operandA w t.fmt t.a).ok t.a && (operandB w t.fmt t.b).ok t.b) bad
  check (t.caddr.toNat % tileBytes int == 0 && t.baraddr.toNat % 32 == 0) bad
  check (match place t.baraddr with | some (.loom _) => t.loom / 8 == b || t.baraddr == 0 | _ => true) bad
  let loom := if boltOf t.loom = b then t.loom else 8 * b
  let spss ← s.checkCommand (1, b) loom t.peer (⟨.tileC, 0x3B, 0, t.caddr, tileBytes int⟩ :: barrierRunAt 0x3B t.baraddr)
  match tileOf int (spss.headD []) with
  | none => .error bad
  | some n => return { t with tile := n, int := int, barrier := (spss.getD 1 []).head?, checked := true }

/-- A delivered record that fails its check: a unit record, and nothing else (R251, R364). -/
def State.refuseRecord (s : State) (b : Nat) (t : Task) : State :=
  let bo := s.bolt b
  let s := s.setBolt b { bo with recs := bo.recs.filter (·.id != t.id), badWalks := bo.badWalks.filter (·.who != (1, b)) }
  s.unitRecord t.peer (schedulerUnit b)
    { cls := 9, cause := 7, d1 := t.w0.toNat, d2 := (t.handle.getD 0).toNat, precise := false, src := 3 }

/-- What the engine that holds a delivered record does next: the record is checked, refused, or waits for a walk. -/
def State.advanceDelivered (s : State) (b : Nat) (t : Task) : Option State :=
  match s.checkDelivered b t with
  | .ok t' => some (s.modTask b t.id (fun _ => t'))
  | .error (.wait (.walk va)) =>
    let panel := b / 5
    let asked := (s.panel panel).walks.any (fun k => k.peer == t.peer && k.page == pageOf va && k.who.contains (1, b))
    if asked then none else some (s.requestWalk panel (1, b) t.peer va)
  | .error (.wait _) => none
  | .error (.fault _) => some (s.refuseRecord b t)

/-- SCHEDULER_START: an engine goes on with a delivered record that it holds, or the oldest ready record starts on the lowest free
engine. -/
def State.schedulerStart (s : State) (b : Nat) : Option State :=
  let bo := s.bolt b
  match (bo.recs.filter (fun r => r.engine.isSome && !r.checked)).findSome? (s.advanceDelivered b) with
  | some s => some s
  | none =>
    match bo.freeEngine, bo.recs.find? (fun r => r.engine.isNone && !r.cancelled && s.taskReady b r) with
    | some e, some r =>
      let r := { r with engine := some e }
      let s := s.modTask b r.id (fun _ => r)
      some (if r.checked then s else (s.advanceDelivered b r).getD s)
    | _, _ => none

/-- SCHEDULER_START. -/
def execSchedulerStart (bolt : Nat) (s : State) := s.event (s.schedulerStart bolt)

/-! ## The matrix engines -/

/-- A task's operands have been read: the numbered command reads no more. -/
def Ctx.readDone (c : Ctx) (id : Nat) : Ctx :=
  { c with cmds := c.cmds.map (fun n => if n.id = id then { n with reading := false } else n) }

/-- PARTIAL_DONE: the engine has read its operands and formed the partial, which the home slice accepts or refuses; the engine is
free (R237, R245). An operand line with an uncorrectable error faults the task instead (R332). -/
def State.partialDone (s : State) (b e : Nat) : Option State :=
  ((s.bolt b).recs.find? (fun r => r.engine == some e && r.checked && !r.sent)).bind (fun (t : Task) =>
    if t.cmd.isSome && (s.ctxAt t.loom t.ev).waitsOn t.after then none
    else
      let oa := operandA t.w0 t.fmt t.a
      let ob := operandB t.w0 t.fmt t.b
      let s := match t.cmd with
        | some id => (s.setCtxAt t.loom t.ev ((s.ctxAt t.loom t.ev).readDone id)).pump t.loom t.ev
        | none => s
      match s.readSpans (oa.spans b ++ ob.spans b) with
      | (s, _, some f) => some (s.failTask b t { f with unit := some (2 * 512 + 8 * b + e) })
      | (s, _, none) =>
        let (vs, fl) := partialOf t.int oa ob s.mem b
        let k : Contribution := { key := ⟨t.peer, t.ev, t.loom, t.seq⟩, first := 0, int := t.int, values := vs, flags := fl,
                                  task := some (b, t.id) }
        match s.contribute t.tile k with
        | .ok s => some (s.modTask b t.id (fun t => { t with sent := true }))
        | .error f => some (s.failTask b t f))

/-- PARTIAL_DONE. -/
def execPartialDone (bolt engine : Nat) (s : State) := s.event (s.partialDone bolt engine)

/-- TASK_RETIRE (R249): the contribution has been merged; the task counts its bytes with its flags in one update and leaves its
counter. -/
def State.taskRetire (s : State) (b id : Nat) : Option State :=
  ((s.bolt b).recs.find? (fun r => r.id == id && r.merged)).bind (fun (t : Task) =>
    if t.cmd.isSome && (s.ctxAt t.loom t.ev).waitsOn t.carries then none
    else
      match s.countFor t.peer t.barrier (tileBytes t.int) t.flags with
      | (s, some f) => some (s.failTask b t f)
      | (s, none) => some ((if t.cmd.isSome && t.barrier.isSome then s.notePickFlags t.loom t.ev t.flags else s).dropTask b t))

/-- TASK_RETIRE. -/
def execTaskRetire (bolt task : Nat) (s : State) := s.event (s.taskRetire bolt task)

end Sys2Proof.Machine
end

