-- ==== Sys2Proof/Machine/Copy.lean ====
section
/-!
DEFINITION. Copy commands: their issue (R194 to R198, R416), the copy queues and the copy engine (R195, R197, R295), reductions
(R89, R198), the inline decoder (R71, R199, R200, R320, R389) and checksums (R201).
-/

namespace Sys2Proof.Machine

/-- The bytes of a destination element of CPY.RED and of a source element (R198). -/
def redWidths (ty : BitVec 2) : Nat × Nat := match ty.toNat with | 0 => (4, 4) | 3 => (8, 4) | _ => (4, 2)

/-! ## Issue -/

/-- Whether a copy's destination puts it into the copy-load queue (R195). -/
def loadQueue (dst : W64) : Bool := match place dst with | some (.loom _) => true | _ => false

/-- Whether two lists of spans share a byte (R197). -/
def spansOverlap (xs ys : List Span) : Bool :=
  xs.any (fun x => ys.any (fun y =>
    if x.peer.isSome || y.peer.isSome then x.peer == y.peer && overlapLen x.va x.len y.va y.len != 0
    else overlapLen x.pa x.len y.pa y.len != 0))

/-- Spans with those at the partition's own peer ID as its tables place them. -/
def State.resolved (s : State) (c : Ctx) (op : MemOp) (sps : List Span) : List Span :=
  sps.flatMap (fun sp => if sp.remote c.peer then [sp] else (s.localSpans c op sp).toOption.getD [sp])

/-- The check that a command's source and destination share no byte. -/
def State.apart (s : State) (c : Ctx) (op : MemOp) (ds ss : List Span) : Act Unit :=
  check (!spansOverlap (s.resolved c op ds) (s.resolved c .copySrc ss)) (faultOf 9 5)

/-- The end of a copy's transfer and its declared completion in determinate mode (R170). -/
def Ctx.copyDue (c : Ctx) (load : Bool) (bytes lat : Nat) (preds : List (BitVec 16)) : Nat × Nat :=
  let named := c.liveCmds.filter (fun n => preds.contains n.seq)
  let dues := (c.outs.filter (fun o => named.any (·.id == o.id))).map (fun o => o.due.getD 0)
  let prev := if load then c.xferEnd.1 else c.xferEnd.2
  let start := dues.foldl Nat.max (Nat.max prev (c.detCyc + 2))
  let stop := start + 2 * ((bytes + 127) / 128)
  (stop, stop + lat)

/-- Hands a checked copy command to its queue (R195, R196): queue and counter have room, the checker of determinate mode passes, and
it takes its number. A length of 0 completes at once. `bar` is its barrier and `bytes` what the transfer model of R170 moves. -/
def State.queueCopy (s : State) (t : Tok) (c : Ctx) (load : Bool) (k : CopyCmd) (bar : Option W64) (p1 p2 : BitVec 8) (bytes lat : Nat) :
    Act State := do
  c.fenceFree k.stream
  c.counterRoom .cpc
  let preds := c.predSeqs p1 p2
  let num : NumCmd := { seq := c.seq, id := c.nextId, reads := padRanges k.src, writes := padRanges k.dst, preds := preds }
  let det := s.determinate c
  c.checkNumber det num
  check (Nat.blt (if load then c.copyLoad else c.copyStore).length 16) (.wait .copyQueue)
  let (stop, due) := c.copyDue load bytes lat preds
  let c' := c.takeNumber .cpc (if det then some due else none) num
  let c' := if det then { c' with xferEnd := if load then (stop, c.xferEnd.2) else (c.xferEnd.1, stop) } else c'
  if k.len = 0 then return s.setCtx ((c'.completeOp c.nextId).postNow .A t)
  else
    let rs := s.carriedBy c k.stream bar k.dst
    let c' := c'.release rs
    let k := { k with id := c.nextId, seq := some c.seq, preds := preds, line := c.ea.pc.toNat, lane := c.ea.lane, word := c.ea.word,
                      after := c.earlier k.stream k.src, carries := coveredBy rs }
    let c' := if load then { c' with copyLoad := c'.copyLoad ++ [k] } else { c' with copyStore := c'.copyStore ++ [k] }
    return s.setCtx (c'.postNow .A t)

/-- A multiple of 4 (R197). -/
def multiple4 (addr : W64) (x : Nat) : Act Unit := check (x % 4 == 0) (faultOf 4 4 addr.toNat x)

/-- The shared course of the copies of one run of bytes: LEN, multiples, ranges in order, overlap, queue. -/
def State.copyPlain (s : State) (t : Tok) (c : Ctx) (maj : Nat) (op : MemOp) (kind : CopyKind) (ra rb : BitVec 6) (st : BitVec 4)
    (len dlen : Nat) (ab : BitVec 6) (p1 p2 : BitVec 8) : Act State := do
  let dst ← c.rdA ra
  let src ← c.rdA rb
  let bar ← c.rdA ab
  check (Nat.ble len (2 ^ 32)) (faultOf 9 0xB 0 len)
  multiple4 dst dst.toNat
  multiple4 src src.toNat
  multiple4 dst len
  barrierAligned bar
  let spss ← s.checkCommand s.cur.who s.cur.loom c.peer
    (⟨op, maj, 0, dst, if len = 0 then 0 else dlen⟩ :: ⟨.copySrc, maj, 0, src, len⟩ :: barrierRun maj ab bar)
  let ds := spss.headD []
  let ss := spss.getD 1 []
  s.apart c op ds ss
  s.queueCopy t c (loadQueue dst)
    { id := 0, seq := none, kind := kind, stream := st, src := ss, dst := ds, len := len, decoded := dlen,
      barrier := if ab = 0 then none else (spss.getD 2 []).head? }
    (namedBarrier ab bar) p1 p2 (match kind with | .dec _ => Nat.max len dlen | _ => len) (Nat.max (s.latencyOf c src ss) (s.latencyOf c dst ds))

/-- LEN of the plain forms (R197). -/
def Ctx.copyLen (c : Ctx) (aL : BitVec 6) : Act Nat := do return (← c.rdA aL).toNat % 2 ^ 48

/-- CPY. -/
def execCpy (t : Tok) (ra rb : BitVec 6) (st : BitVec 4) (aL ab : BitVec 6) (p1 p2 : BitVec 8) (s : State) :=
  s.command t (fun c => do
    let n ← c.copyLen aL
    s.copyPlain t c 0x30 .copyDst .cpy ra rb st n n ab p1 p2)

/-- CPY.RED. -/
def execCpyRed (t : Tok) (ra rb : BitVec 6) (st : BitVec 4) (aL ab : BitVec 6) (p1 p2 : BitVec 8) (ty : BitVec 2) (s : State) :=
  s.command t (fun c => do
    let n ← c.copyLen aL
    let (wd, ws) := redWidths ty
    s.copyPlain t c 0x32 .redDst (.red ty) ra rb st n (n / ws * wd) ab p1 p2)

/-- CPY.MC. -/
def execCpyMc (t : Tok) (ra rb : BitVec 6) (st : BitVec 4) (aL ab : BitVec 6) (p1 p2 : BitVec 8) (s : State) :=
  s.command t (fun c => do
    let n ← c.copyLen aL
    s.copyPlain t c 0x33 .mcDst .mc ra rb st n n ab p1 p2)

/-- CPY.DEC: the length register holds the encoded and the decoded length. -/
def execCpyDec (t : Tok) (ra rb : BitVec 6) (st : BitVec 4) (aL ab : BitVec 6) (p1 p2 : BitVec 8) (slot : BitVec 2) (s : State) :=
  s.command t (fun c => do
    let x ← c.rdA aL
    s.copyPlain t c 0x34 .decDst (.dec slot) ra rb st (x.toNat % 2 ^ 32) (x.toNat / 2 ^ 32) ab p1 p2)

/-- CPY.CSUM: the destination is a record of 16 bytes. -/
def execCpyCsum (t : Tok) (ra rb : BitVec 6) (st : BitVec 4) (aL ab : BitVec 6) (p1 p2 : BitVec 8) (s : State) :=
  s.command t (fun c => do
    let n ← c.copyLen aL
    s.copyPlain t c 0x36 .copyDst .csum ra rb st n 16 ab p1 p2)

/-- CPY.2D: rows, bytes per row and pitches; rows run from base + k × pitch. -/
def execCpy2d (t : Tok) (ra rb : BitVec 6) (st : BitVec 4) (aL ab : BitVec 6) (p1 p2 : BitVec 8) (ap : BitVec 6) (s : State) :=
  s.command t (fun c => do
    let dst ← c.rdA ra
    let src ← c.rdA rb
    let x ← c.rdA aL
    let bar ← c.rdA ab
    let p ← c.rdA ap
    let rows := x.toNat / 2 ^ 32
    let n := x.toNat % 2 ^ 32
    let len := rows * n
    check (Nat.ble rows 65536 && Nat.ble len (2 ^ 32)) (faultOf 9 0xB 0 x.toNat)
    multiple4 dst dst.toNat
    multiple4 src src.toNat
    multiple4 dst n
    let dp : BitVec 32 := p.extractLsb' 32 32
    let sp : BitVec 32 := p.extractLsb' 0 32
    multiple4 dst dp.toNat
    multiple4 src sp.toNat
    barrierAligned bar
    let runs (op : MemOp) (a : W64) (pitch : Int) : List Run :=
      (List.range rows).map (fun k => ⟨op, 0x31, k * n, addOffset a (k * pitch), n⟩)
    let spss ← s.checkCommand s.cur.who s.cur.loom c.peer
      (runs .copyDst dst dp.toInt ++ runs .copySrc src sp.toInt ++ barrierRun 0x31 ab bar)
    let ds := (spss.take rows).flatten
    let ss := ((spss.drop rows).take rows).flatten
    s.apart c .copyDst ds ss
    s.queueCopy t c (loadQueue dst)
      { id := 0, seq := none, kind := .cpy, stream := st, src := ss, dst := ds, len := len,
        barrier := if ab = 0 then none else (spss.getD (2 * rows) []).head? }
      (namedBarrier ab bar) p1 p2 len (Nat.max (s.latencyOf c src ss) (s.latencyOf c dst ds)))

/-- Hands a command that takes no number to the copy-store queue (CTBL, SUSP.FILL). -/
def State.queueUnnumbered (s : State) (t : Tok) (c : Ctx) (k : CopyCmd) (bar : Option W64 := none) : Act State := do
  c.fenceFree k.stream
  check (Nat.blt c.copyStore.length 16) (.wait .copyQueue)
  let rs := s.carriedBy c k.stream bar k.dst
  let k := { k with id := c.nextId, line := c.ea.pc.toNat, lane := c.ea.lane, word := c.ea.word,
                    after := c.earlier k.stream k.src ++ k.after, carries := coveredBy rs }
  let stop := Nat.max c.xferEnd.2 (c.detCyc + 2) + 2 * ((k.len + 127) / 128)
  let c := c.release rs
  return s.setCtx ({ c with nextId := c.nextId + 1, copyStore := c.copyStore ++ [k],
                            xferEnd := if s.determinate c then (c.xferEnd.1, stop) else c.xferEnd }.postNow .A t)

/-- CTBL (R199). -/
def execCtbl (t : Tok) (rb : BitVec 6) (st : BitVec 4) (slot : BitVec 2) (s : State) :=
  s.command t (fun c => do
    let src ← c.rdA rb
    check (src.toNat % 8 == 0) (faultOf 4 1 src.toNat)
    let spss ← s.checkCommand s.cur.who s.cur.loom c.peer [⟨.copySrc, 0x35, 0, src, 320⟩]
    s.queueUnnumbered t c { id := 0, seq := none, kind := .ctbl slot, stream := st, src := spss.headD [], dst := [], len := 320 })

/-! ## Reading the source -/

/-- What reading the next bytes of a copy's source gives: the bytes, requests that have gone to peers, a fault, or nothing yet. -/
inductive Fetch where
  | bytes (s : State) (bs : List Byte) | sent (s : State) | fault (s : State) (f : FaultInfo) | blocked

/-- The pieces of a span at a peer, as requests carry them. -/
def Span.requests (sp : Span) : List Span := cutPeer sp (sp.len / 2048 + 2)

/-- n bytes from an offset out of what has come from peers, if they are all there. -/
def takeGot (got : List (Nat × List Byte)) : (fuel off n : Nat) → Option (List Byte)
  | _, _, 0 => some []
  | 0, _, _ => none
  | fuel + 1, off, n =>
    (got.find? (fun g => Nat.ble g.1 off && Nat.blt off (g.1 + g.2.length))).bind (fun g =>
      let part := (g.2.drop (off - g.1)).take n
      (takeGot got fuel (off + part.length) (n - part.length)).map (part ++ ·))

/-- The physical spans of the parts of a source that lie here. -/
def State.sourceHere (s : State) (c : Ctx) (sps : List Span) : List Span :=
  (sps.filter (fun sp => !sp.remote c.peer)).flatMap (fun sp => match s.localSpans c .copySrc sp with | .ok r => r | .error _ => [])

/-- Reads the parts of a source in order: those here from memory, those of peers from what has come. -/
def State.gatherSource (s : State) (c : Ctx) (k : CopyCmd) : List Span → State × List Byte × Option FaultInfo
  | [] => (s, [], none)
  | sp :: r =>
    if sp.remote c.peer then
      let bs := (takeGot k.got sp.len sp.off sp.len).getD []
      let (s, more, f) := s.gatherSource c k r
      (s, bs ++ more, f)
    else
      match s.localSpans c .copySrc sp with
      | .error f => (s, [], some f)
      | .ok sps =>
        match s.readSpans sps with
        | (s, _, some f) => (s, [], some f)
        | (s, bs, none) =>
          let (s, more, f) := s.gatherSource c k r
          (s, bs ++ more, f)

/-- Asks peers for the parts of a source that have not been asked for. -/
def State.askSource (s : State) (loom : Nat) (ev : Bool) (k : CopyCmd) (upto : Nat) : State :=
  let c := s.ctxAt loom ev
  let first := Nat.max k.readTo k.sentTo
  let sps := (slice k.src first (upto - first)).filter (·.remote c.peer)
  let s := (sps.flatMap Span.requests).foldl (fun s x =>
    s.request (copySource loom) c.peer (x.peer.getD 0) loom ev (.copyRead k.id x.off x.len) kRead
      { noFlit with addr := BitVec.ofNat 48 x.va, stream := k.stream, lenM1 := BitVec.ofNat 11 (x.len - 1) }) s
  s.modCopy loom ev k.id (fun k => { k with sentTo := upto })

/-- Reads n bytes of a copy's source from where it stands. A line that is SUSPENDED or EVALUATING makes the copy a loader (R110). -/
def State.fetchUnit (s : State) (loom : Nat) (ev : Bool) (k : CopyCmd) (n : Nat) : Fetch :=
  let c := s.ctxAt loom ev
  let sps := slice k.src k.readTo n
  let away := sps.filter (·.remote c.peer)
  if s.waiters.any (fun w => w.loom == loom && w.ev == ev && w.who == Loader.copy k.id) then .blocked
  else if !(s.sourceHere c sps).all (s.portFree (boltOf loom) none) then .blocked
  else if s.meetsSuspension (s.sourceHere c sps) then .blocked
  else if away != [] && Nat.blt k.sentTo (k.readTo + n) then .sent (s.askSource loom ev k (k.readTo + n))
  else if !away.all (fun x => (takeGot k.got x.len x.off x.len).isSome) then .blocked
  else
    match s.gatherSource c k sps with
    | (s, _, some f) => .fault s f
    | (s, bs, none) =>
      .bytes (s.modCopy loom ev k.id (fun k =>
        { k with readTo := k.readTo + n, replays := 0, got := k.got.filter (fun g => Nat.blt (k.readTo + n) (g.1 + g.2.length)) })) bs

/-! ## Writing the destination -/

/-- The 128-byte chunks of n bytes from an offset. -/
def chunks (off : Nat) : (fuel n : Nat) → List (Nat × Nat)
  | 0, _ => []
  | fuel + 1, n => if n = 0 then [] else
      let m := Nat.min n (128 - off % 128)
      (off, m) :: chunks (off + m) fuel (n - m)

/-- Bytes of a copy have been performed, as source bytes for a reduction: they are counted, with flags, and the last ones end the
command. `runs` are the bytes where they lie here. -/
def State.copyWrote (s : State) (loom : Nat) (ev : Bool) (id n : Nat) (runs : List (Nat × Nat) := []) (fl : Flags := 0) : State :=
  let c := s.ctxAt loom ev
  match c.copy? id with
  | none => s
  | some k =>
    let counted := match k.kind with | .red ty => n / (redWidths ty).2 * (redWidths ty).1 | _ => n
    match s.countFor c.peer k.barrier counted fl runs with
    | (s, some f) => s.failCopy loom ev k f
    | (s, none) =>
      let s := if k.barrier.isSome then s.notePickFlags loom ev fl else s
      let s := s.modCopy loom ev id (fun k => { k with wroteTo := k.wroteTo + n, replays := 0 })
      let total := match k.kind with | .dec _ => k.decoded | .csum => 16 | _ => k.len
      if k.wroteTo + n = total ∧ k.readTo = k.len then s.finishCopy loom ev id else s

/-- Writes one chunk of a copy's data, and answers its runs; the multicast window is written in all eight scratchpads (R198). -/
def State.putChunk (s : State) (loom : Nat) (ev : Bool) (k : CopyCmd) (data : List Byte) (base : Nat) (sp : Span) :
    State × List (Nat × Nat) × Option FaultInfo :=
  let c := s.ctxAt loom ev
  let write (s : State) (sps : List Span) : State × List (Nat × Nat) × Option FaultInfo :=
    let (s, runs, f) := s.writeRuns data (sps.map (fun x => { x with off := x.off - base }))
    (s.countWrite runs (some (loom, ev)), runs, f)
  match k.kind with
  | .mc => write s (mcSpans loom sp)
  | _ =>
    match s.localSpans c .copyDst sp with
    | .error f => (s, [], some f)
    | .ok sps => write s sps

/-- Writes the chunks of a copy that lie here, in order, until one faults. -/
def State.putChunks (s : State) (loom : Nat) (ev : Bool) (k : CopyCmd) (data : List Byte) (base : Nat) :
    List Span → State × Option FaultInfo
  | [] => (s, none)
  | sp :: r =>
    match s.putChunk loom ev k data base sp with
    | (s, _, some f) => (s, some f)
    | (s, runs, none) => (s.copyWrote loom ev k.id sp.len runs).putChunks loom ev k data base r

/-- Performs or sends bytes of a copy's data: `base` is the offset of the first byte. -/
def State.copyOut (s : State) (loom : Nat) (ev : Bool) (k : CopyCmd) (base : Nat) (data : List Byte) : State :=
  let c := s.ctxAt loom ev
  let parts := slice k.dst base data.length
  let away := (parts.filter (·.remote c.peer)).flatMap Span.requests
  let s := away.foldl (fun s x =>
    s.sendWrite (copySource loom) c.peer loom ev k.stream (.copyWrite k.id x.off x.len) x ((data.drop (x.off - base)).take x.len)) s
  let here := (chunks base (data.length / 128 + 2) data.length).flatMap (fun ch =>
    (slice k.dst ch.1 ch.2).filter (fun sp => !sp.remote c.peer))
  match s.putChunks loom ev k data base here with
  | (s, none) => s
  | (s, some f) => s.failCopy loom ev k f

/-! ## Reductions (R89, R198, R243) -/

/-- The source elements of a reduction, widened (R198). -/
def redValues (ty : BitVec 2) : (n : Nat) → List Byte → List Nat
  | 0, _ => []
  | n + 1, bs =>
    let w := (redWidths ty).2
    let x := leNat (bs.take w)
    let v := match ty.toNat with
      | 1 => (Fmt.fp32.encode .rnei (Fmt.bf16.decode x)).1
      | 2 => (Fmt.fp32.encode .rnei (Fmt.fp16.decode x)).1
      | 3 => (BitVec.ofInt 64 (BitVec.ofNat 32 x).toInt).toNat
      | _ => x
    v :: redValues ty n (bs.drop w)

/-- The tile that a byte of the accumulator range lies in, for a reduction of a type, and the tile's bytes that follow it
(DEDUCED, log 60). -/
def redTile (ty : BitVec 2) (pa : Nat) : Nat × Nat :=
  let n := if ty = 3 then pa / 131072 * 2 else pa / 65536
  (n, tilePa n + tileBytes (ty == 3) - pa)

/-- Adds values into elements of a memory-side page (R198). -/
def State.reduceMemory (s : State) (ty : BitVec 2) (sp : Span) (vs : List Nat) (who : Option (Nat × Bool)) :
    State × Flags × Option FaultInfo :=
  match s.readSpan sp with
  | (s, _, some f) => (s, 0, some f)
  | (s, _, none) =>
    let w := (redWidths ty).1
    let (m, fl) := mergeInto (ty == 3) sp.pa s.mem 0 vs
    match s.writeSpan { sp with off := 0 } (Memory.readN m sp.pa (vs.length * w)) who with
    | (s, some f) => (s, 0, some f)
    | (s, none) => (s, fl, none)

/-- Adds values at a place of this partition: a tile takes a contribution, a memory-side page is updated. Without a fault the answer
says whether the values have been added at once, and the flags. -/
def State.reduceHere (s : State) (ty : BitVec 2) (sp : Span) (k : Contribution) (who : Option (Nat × Bool)) :
    State × Except FaultInfo (Option Flags) :=
  if inAcc sp.pa then
    let (n, _) := redTile ty sp.pa
    match s.contribute n { k with first := sp.pa - tilePa n, int := ty == 3 } with
    | .ok s => (s, .ok none)
    | .error f => (s, .error f)
  else
    match s.reduceMemory ty sp k.values who with
    | (s, _, some f) => (s, .error f)
    | (s, fl, none) => (s, .ok (some fl))

/-- The admission of a reduction at a peer's page: the accumulator window or memory-side (R198). -/
def State.reduceSpan (s : State) (p : Partition) (va len : Nat) : Except Nat Span :=
  match s.translateNow p va with
  | none => .error 1
  | some (pa, at') =>
    if !at'.getLsbD attrW then .error 2
    else if !(at'.getLsbD attrAW || at'.getLsbD attrMS) ∨ (p.counterAt pa len).isSome then .error 3
    else .ok { pa := pa, va := va, len := len, off := 0, attrs := at' }

/-- Where the next element of a reduction at this partition lies, and how many bytes follow it in its tile, page or span. -/
def State.redPlace (s : State) (c : Ctx) (ty : BitVec 2) (sp : Span) (len : Nat) : Except FaultInfo (Span × Nat) :=
  match sp.peer, s.part? c.peer with
  | some _, some p =>
    match s.reduceSpan p sp.va len with
    | .error e => .error (statusFault e sp.va)
    | .ok x => .ok (x, if inAcc x.pa then Nat.min sp.len (redTile ty x.pa).2 else Nat.min sp.len (65536 - sp.va % 65536))
  | _, _ => .ok (sp, (redTile ty sp.pa).2)

/-- Whether an ACC.INIT of a tile that the context issued before a command is not applied yet (R250). -/
def Ctx.initPending (c : Ctx) (id pa : Nat) : Bool :=
  c.accOps.any (fun o => !o.drain && Nat.blt o.id id && (pa / 65536 == o.tile || (o.value.getLsbD 16 && pa / 65536 == o.tile + 1)))

/-- One step of a CPY.RED: the part of its source that goes to one tile, one page of memory at its own peer ID, or one request. -/
def State.redStep (s : State) (loom : Nat) (ev : Bool) (k : CopyCmd) (ty : BitVec 2) : Option State :=
  let c := s.ctxAt loom ev
  let (wd, ws) := redWidths ty
  let at' := k.readTo / ws * wd
  let left := k.len / ws * wd - at'
  match (slice k.dst at' left).head? with
  | none => none
  | some sp =>
    if sp.remote c.peer then
      let part := Nat.max 1 (Nat.min (Nat.min (2048 - sp.va % 2048) left) sp.len / wd)
      match s.fetchUnit loom ev k (part * ws) with
      | .blocked => none
      | .sent s => some s
      | .fault s f => some (s.failCopy loom ev k f)
      | .bytes s bs =>
        some (s.request (copySource loom) c.peer (sp.peer.getD 0) loom ev (.copyWrite k.id k.readTo (part * ws)) kReduce
          { noFlit with addr := BitVec.ofNat 48 sp.va, stream := k.stream, lenM1 := BitVec.ofNat 11 (part * ws - 1),
                        aop := ty.setWidth 8, opa := inline bs, data := if part * ws ≤ 8 then [] else bs })
    else
      match s.redPlace c ty sp wd with
      | .error f => some (s.failCopy loom ev k f)
      | .ok (x, room) =>
        let part := Nat.max 1 (Nat.min room left / wd)
        if inAcc x.pa && c.initPending k.id x.pa then none
        else
          match s.fetchUnit loom ev k (part * ws) with
          | .blocked => none
          | .sent s => some s
          | .fault s f => some (s.failCopy loom ev k f)
          | .bytes s bs =>
            let con : Contribution := { key := ⟨c.peer, ev, loom, k.seq.getD 0⟩, first := 0, int := ty == 3,
                                        values := redValues ty part bs, flags := 0, cmd := some (loom, ev, k.id) }
            match s.reduceHere ty { x with len := part * wd, off := 0 } con (some (loom, ev)) with
            | (s, .error f) => some (s.failCopy loom ev k f)
            | (s, .ok none) => some s
            | (s, .ok (some fl)) => some (s.mergedFor (ty == 3) con fl [(x.pa, part * wd)])

/-! ## Checksums (R201) -/

/-- One step of a CPY.CSUM: a chunk of 512 bytes is added to the sum; after the last, the record is written. -/
def State.csumStep (s : State) (loom : Nat) (ev : Bool) (k : CopyCmd) : Option State :=
  let n := Nat.min 512 (k.len - k.readTo)
  match s.fetchUnit loom ev k n with
  | .blocked => none
  | .sent s => some s
  | .fault s f => some (s.failCopy loom ev k f)
  | .bytes s bs =>
    let sum := (k.sum + (k.readTo / 512 + 1) * crc32c bs) % 2 ^ 64
    let s := s.modCopy loom ev k.id (fun k => { k with sum := sum })
    if k.readTo + n < k.len then some s
    else some (s.copyOut loom ev { k with readTo := k.len } 0 (leBytes 8 sum ++ leBytes 4 ((k.len + 511) / 512) ++ leBytes 4 0))

/-! ## Plain copies and channels -/

/-- How many bytes the next unit of a plain copy has: a chunk of 128 bytes, or where a peer is read or written as much as one
request carries (R195, R295). -/
def CopyCmd.unit (k : CopyCmd) (peer : Nat) : Nat :=
  let left := k.len - k.readTo
  let bound (sps : List Span) : Nat :=
    match (slice sps k.readTo left).head? with
    | some sp => if sp.remote peer then Nat.min sp.len (2048 - sp.va % 2048) else 128 - k.readTo % 128
    | none => left
  let away (sps : List Span) : Bool := ((slice sps k.readTo left).head?).any (·.remote peer)
  let d := bound k.dst
  let r := bound k.src
  Nat.min left (if away k.dst then d else if away k.src then r else Nat.min d r)

/-- One step of a plain copy (DEDUCED, log 63). -/
def State.plainStep (s : State) (loom : Nat) (ev : Bool) (k : CopyCmd) : Option State :=
  let n := k.unit (s.ctxAt loom ev).peer
  match s.fetchUnit loom ev k n with
  | .blocked => none
  | .sent s => some s
  | .fault s f => some (s.failCopy loom ev k f)
  | .bytes s bs => some (s.copyOut loom ev { k with readTo := k.readTo + n } k.readTo bs)

/-- Bytes have been written into a slot of a receive channel (R204, R205): a slot is filled from its first byte on (DEDUCED, log 32). -/
def State.slotWritten (s : State) (peer rch va n : Nat) : State :=
  s.modPart peer (fun p =>
    match p.fabric.bind (fun f => f.recv[rch]?) with
    | none => p
    | some e =>
      let r : RecvCh := SMap.getD p.recvCh rch {}
      let slot := (va - e.base) / e.slotSize
      let pos := (slot + e.slots - (r.freed / e.slotSize) % e.slots) % e.slots
      let l := r.filled ++ List.replicate (pos + 1 - r.filled.length) 0
      { p with recvCh := SMap.set p.recvCh rch { r with filled := modNth l pos (· + n) } })

/-- One step of a CH.SEND that has its window: a request of the slot goes out (R205, R296); while the fabric drains it is held (R298). -/
def State.sendStep (s : State) (loom : Nat) (ev : Bool) (k : CopyCmd) (ch : Nat) : Option State :=
  let c := s.ctxAt loom ev
  let n := k.unit c.peer
  if ((s.part? c.peer).bind (·.drain)).isSome then none
  else
  match s.fetchUnit loom ev k n with
  | .blocked => none
  | .sent s => some s
  | .fault s f => some (s.failCopy loom ev k f)
  | .bytes s bs =>
    match (slice k.dst k.readTo n).head?, (s.part? c.peer).bind (·.fabric) with
    | some sp, some f =>
      let far := ((f.send[ch]?).map (·.base)).getD 0
      let rch := ((f.send[ch]?).map (·.far)).getD 0
      if sp.remote c.peer then
        if s.reachable c.peer (sp.peer.getD 0) then
          some (s.request (copySource loom) c.peer (sp.peer.getD 0) loom ev (.copyWrite k.id k.readTo n) kChWrite
            { noFlit with addr := BitVec.ofNat 48 sp.va, stream := k.stream, lenM1 := BitVec.ofNat 11 (n - 1), opa := inline bs,
                          aop := BitVec.ofNat 8 rch, data := if n ≤ 8 then [] else bs })
        else
          some ((s.modPart c.peer (fun p => { p with sendCh := SMap.set p.sendCh ch { SMap.getD p.sendCh ch {} with held := true } })).failCopy
            loom ev k { cls := 0x20, cause := 5, addr := far, d0 := sp.peer.getD 0, d1 := 1, precise := false })
      else some ((s.copyOut loom ev { k with readTo := k.readTo + n } k.readTo bs).slotWritten c.peer rch sp.va n)
    | _, _ => none

/-! ## The copy engine (R195, R196) -/

/-- The command of a queue that may start next: the first that has not, once those before it have read their source, its
predecessors have completed and the earlier writes of its stream to its source are performed. -/
def Ctx.nextCopy (c : Ctx) (q : List CopyCmd) : Option CopyCmd :=
  match q.dropWhile (·.started) with
  | k :: _ =>
    if (q.takeWhile (·.started)).all (fun x => Nat.ble x.len x.readTo) && k.preds.all c.seqDone && !c.waitsOn k.after then some k
    else none
  | [] => none

/-- The window of a send channel (R296). -/
def Partition.window (p : Partition) (f : Fabric) (ch : Nat) : Nat :=
  let t := SMap.getD p.sendCh ch {}
  let e : Channel := (f.send[ch]?).getD {}
  e.slots * e.slotSize + t.freed - t.sent

/-- A CH.SEND at the head of its queue: unreachable, or it takes its window and its slot, or it waits (R204, R205, R400). -/
def State.startSend (s : State) (loom : Nat) (ev : Bool) (k : CopyCmd) (ch : Nat) : Option State :=
  let c := s.ctxAt loom ev
  match s.part? c.peer with
  | none => none
  | some p =>
    match p.fabric, p.drain with
    | some f, none =>
      let e : Channel := (f.send[ch]?).getD {}
      let t : SendCh := SMap.getD p.sendCh ch {}
      match f.members[e.index]? with
      | none => some (s.failCopy loom ev k { cls := 0x20, cause := 5, d1 := 1, precise := false })
      | some m =>
        if !s.reachable c.peer m.peer then
          some (s.failCopy loom ev k { cls := 0x20, cause := 5, d0 := m.peer, d1 := 1, precise := false })
        else if t.held ∨ p.window f ch < e.slotSize then none
        else
          let slot : Span := { pa := 0, va := e.base + (t.count % e.slots) * e.slotSize, len := k.len, off := 0, peer := some m.peer }
          let t := { t with sent := t.sent + e.slotSize, count := t.count + 1 }
          some ((s.setPart c.peer { p with sendCh := SMap.set p.sendCh ch t }).modCopy loom ev k.id (fun k =>
            { k with started := true, window := true, dst := [slot] }))
    | _, _ => none

/-- COPY_START: the engine starts the next command of a queue; the decoder accepts a CPY.DEC or CTBL in this order (R71). -/
def State.copyStart (s : State) (loom : Nat) (ev storeQ : Bool) : Option State :=
  let c := s.ctxAt loom ev
  if (s.part? c.peer).any (·.resetting) then none
  else (c.nextCopy (if storeQ then c.copyStore else c.copyLoad)).bind (fun k =>
    let go : State := s.modCopy loom ev k.id (fun k => { k with started := true })
    match k.kind with
    | .send ch => s.startSend loom ev k ch
    | .dec _ | .ctbl _ =>
      let b := go.bolt (boltOf loom)
      some (go.setBolt (boltOf loom) { b with dec := b.dec ++ [⟨loom, ev, k.id⟩] })
    | _ => some go)

/-- COPY_START. -/
def execCopyStart (loom : Nat) (ev storeQ : Bool) (s : State) := s.event (s.copyStart loom ev storeQ)

/-! ## The inline decoder (R199, R200, R320, R389) -/

/-- Reads one symbol: the counts of the lengths from here on, the symbols, and the code read so far against the first code of the
length (R199). -/
def decodeSym (syms : List Byte) (base first code : Nat) : (counts : List Nat) → List Bool → Option (Byte × List Bool)
  | [], _ => none
  | _ :: _, [] => none
  | n :: r, b :: bs =>
    let code := 2 * code + (if b then 1 else 0)
    if code < first + n then (syms[base + (code - first)]?).map (fun x => (x, bs))
    else decodeSym syms (base + n) (2 * (first + n)) code r bs

/-- Reads n symbols; the bits that are left. -/
def decodeSyms (t : CodeTable) : (n : Nat) → List Bool → Option (List Byte × List Bool)
  | 0, bs => some ([], bs)
  | n + 1, bs =>
    (decodeSym t.symbols 0 0 0 t.counts bs).bind (fun x =>
      (decodeSyms t n x.2).map (fun y => (x.1 :: y.1, y.2)))

/-- The bits of bytes, bit 7 first (R200). -/
def bitsOf (bs : List Byte) : List Bool := bs.flatMap (fun b => [7, 6, 5, 4, 3, 2, 1, 0].map (fun i => b.getLsbD i))

/-- The decoded bytes of a block from its header's low word and payload; none for a decode fault. -/
def decodeBlock (t : CodeTable) (hdr : Nat) (payload : List Byte) : Option (List Byte) :=
  let dlen := (hdr / 2 ^ 16) % 2 ^ 12 + 1
  if hdr.testBit 28 then (if payload.length = dlen then some payload else none)
  else (decodeSyms t dlen (bitsOf payload)).bind (fun x => if x.2.any id then none else some x.1)

/-- The first check of R199 that a code table fails, or the table. -/
def checkTable (bs : List Byte) : Except Nat CodeTable :=
  let counts := (List.range 16).map (fun l => leNat ((bs.drop (2 * l)).take 2))
  let total := counts.sum
  let all := (bs.drop 32).take 256
  let syms := all.take total
  let weight := (counts.zipIdx.map (fun x => x.1 * 2 ^ (15 - x.2))).sum
  if crc32c (bs.take 288) != leNat ((bs.drop 288).take 4) then .error 1
  else if syms.eraseDups.length != syms.length then .error 2
  else if total == 0 || Nat.blt 256 total then .error 3
  else if Nat.blt 65536 weight then .error 4
  else if (all.drop total ++ (bs.drop 292).take 28).any (· != 0) then .error 5
  else .ok { counts := counts, symbols := syms }

/-- The decoder is done with the command at its head, whose input it keeps no longer. -/
def State.popDecoder (s : State) (b : Nat) : State :=
  let bo := s.bolt b
  s.setBolt b { bo with dec := bo.dec.drop 1, decIn := [], decTaken := [] }

/-- Whether the decoder holds a block of a command that is not written whole. -/
def State.blocksLeft (s : State) (b loom : Nat) (ev : Bool) (id : Nat) : Bool := (s.bolt b).decOut.any (fun o => o.job == ⟨loom, ev, id⟩)

/-- A faulted CPY.DEC ends once its source has been read and its earlier blocks are written (R389). -/
def State.endFaulted (s : State) (loom : Nat) (ev : Bool) (id : Nat) : State :=
  match (s.ctxAt loom ev).copy? id with
  | none => s
  | some k => if k.faulted && Nat.ble k.len k.readTo && !s.blocksLeft (boltOf loom) loom ev id then s.finishCopy loom ev id else s

/-- A fault of a command at the head of the decoder, which takes the next one: the command ends faulted; what is left of its source is
read and discarded, or not read where the source itself has failed (R332, R389). -/
def State.decoderFault (s : State) (b loom : Nat) (ev : Bool) (k : CopyCmd) (f : FaultInfo) (readOn : Bool) : State :=
  let s := (s.popDecoder b).modCopy loom ev k.id (fun k => { k with faulted := true, readTo := if readOn then k.readTo else k.len })
  let s := s.raiseAsync loom ev { f with src := 2, line := k.line, lane := k.lane, stream := k.stream.toNat }
  s.endFaulted loom ev k.id

/-- A fault that the decoder itself finds. -/
def decoderCause (b cause d0 d1 va : Nat) : FaultInfo :=
  { cls := 0x15, cause := cause, addr := va, d0 := d0, d1 := d1, precise := false, unit := some (10 * 512 + b) }

/-- CTBL at the decoder: the slot takes the table, or keeps its own. -/
def State.tableStep (s : State) (b loom : Nat) (ev : Bool) (k : CopyCmd) (slot : BitVec 2) : Option State :=
  let fails (s : State) (f : FaultInfo) : State := (s.popDecoder b).failCopy loom ev k f
  match s.fetchUnit loom ev k 320 with
  | .blocked => none
  | .sent s => some s
  | .fault s f => some (fails s f)
  | .bytes s bs =>
    let va := ((k.src.head?).map (·.va)).getD 0
    match checkTable bs with
    | .error n => some (fails s (decoderCause b 1 va n va))
    | .ok t =>
      let bo := s.bolt b
      some (((s.setBolt b { bo with tables := bo.tables.set slot.toNat t slot.isLt }).popDecoder b).finishCopy loom ev k.id)

/-- A chunk of a CPY.DEC's source goes into the decoder's input buffer of 8 KiB, which must have 128 bytes free; what is left of a faulted
command's is discarded (R71, R320, R389). -/
def State.feedStep (s : State) (loom : Nat) (ev : Bool) (k : CopyCmd) : Option State :=
  let b := boltOf loom
  let n := Nat.min 128 (k.len - k.readTo)
  let head : Bool := (s.bolt b).dec.head? == some ⟨loom, ev, k.id⟩
  if !k.faulted && (!head || Nat.blt 8064 (s.bolt b).decIn.length) then none
  else
    match s.fetchUnit loom ev k n with
    | .blocked => none
    | .sent s => some s
    | .fault s f => some (if k.faulted then (s.modCopy loom ev k.id (fun k => { k with readTo := k.len })).endFaulted loom ev k.id
        else s.decoderFault b loom ev k f false)
    | .bytes s bs =>
      let bo := s.bolt b
      some (if k.faulted then s.endFaulted loom ev k.id else s.setBolt b { bo with decIn := bo.decIn ++ bs })

/-- Where the block that the decoder has begun stands in its command's stream. -/
def Bolt.blockAt (bo : Bolt) (k : CopyCmd) : Nat := k.readTo - bo.decIn.length - bo.decTaken.length

/-- The decoder takes bytes of a block from its input buffer: its header of 8 bytes, then as many as its header says; none once the block is
here. -/
def Bolt.take? (bo : Bolt) : Option Bolt :=
  let elen := leNat (bo.decTaken.take 4) % 2 ^ 14
  let want := if bo.decTaken.length < 8 then 8 - bo.decTaken.length else 8 + elen - bo.decTaken.length
  if want = 0 ∨ bo.decIn = [] then none
  else some { bo with decTaken := bo.decTaken ++ bo.decIn.take want, decIn := bo.decIn.drop want }

/-- One step of decoding: bytes of the block are taken, or its header or whole block is checked, and a decoded block goes to a free output
buffer (R200, R320, R389). -/
def State.decodeStep (s : State) (b loom : Nat) (ev : Bool) (k : CopyCmd) (slot : BitVec 2) : Option State :=
  let bo := s.bolt b
  let at' := bo.blockAt k
  let bad (cause d1 : Nat) : State :=
    s.decoderFault b loom ev k (decoderCause b cause k.sum d1 (((slice k.src at' 1).head?.map (·.va)).getD 0)) true
  let hdr := leNat (bo.decTaken.take 4)
  let elen := hdr % 2 ^ 14
  let dlen := (hdr / 2 ^ 16) % 2 ^ 12 + 1
  let reserved := (hdr / 2 ^ 14) % 4 ≠ 0 ∨ hdr / 2 ^ 29 ≠ 0
  let next := at' + 8 + elen
  let lastBlock := next = k.len
  let out := 4096 * k.sum
  if 2 ≤ bo.decOut.length then none
  else if k.len - at' < 8 then some (bad 2 at')
  else if 8 ≤ bo.decTaken.length ∧ (reserved ∨ elen = 0 ∨ 8192 < elen ∨ k.len < next ∨ (¬ lastBlock ∧ dlen ≠ 4096)
      ∨ k.decoded < out + dlen ∨ (lastBlock ∧ out + dlen ≠ k.decoded)) then some (bad 2 at')
  else
    match bo.take? with
    | some bo => some (s.setBolt b bo)
    | none =>
      if bo.decTaken.length < 8 ∨ bo.decTaken.length < 8 + elen then none
      else
        match decodeBlock (bo.tables[slot.toNat]) hdr (bo.decTaken.drop 8) with
        | none => some (bad 2 at')
        | some bs =>
          if crc32c bs ≠ leNat ((bo.decTaken.drop 4).take 4) then some (bad 3 (crc32c bs))
          else
            let s := s.setBolt b { bo with decTaken := [], decOut := bo.decOut ++ [{ job := ⟨loom, ev, k.id⟩, base := out, data := bs }] }
            let s := s.modCopy loom ev k.id (fun k => { k with sum := k.sum + 1 })
            some (if lastBlock then s.popDecoder b else s)

/-- One bank write of the oldest decoded block, which counts it (R71, R107, R320); a buffer is free once its last is made. -/
def State.bankWrite (s : State) (b : Nat) : Option State :=
  ((s.bolt b).decOut.head?).bind (fun (o : DecodedBlock) =>
    let c := s.ctxAt o.job.loom o.job.ev
    let freed (s : State) : State := let bo := s.bolt b; s.setBolt b { bo with decOut := bo.decOut.drop 1 }
    match c.copy? o.job.cmd with
    | none => some (freed s)
    | some k =>
      if c.waitsOn k.carries then none
      else
        let at' := o.base + o.wrote
        match (slice k.dst at' (o.data.length - o.wrote)).head? with
        | none => some (freed s)
        | some sp =>
          let n := Nat.min sp.len (128 - sp.pa % 128)
          let wrote := o.wrote + n
          let s := if wrote = o.data.length then freed s
            else let bo := s.bolt b; s.setBolt b { bo with decOut := { o with wrote := wrote } :: bo.decOut.drop 1 }
          match s.putChunks o.job.loom o.job.ev k (o.data.drop o.wrote) at' [{ sp with len := n }] with
          | (s, none) => some (s.endFaulted o.job.loom o.job.ev k.id)
          | (s, some f) =>
            let s := if (s.bolt b).dec.head? = some o.job then s.popDecoder b else s
            some (s.failCopy o.job.loom o.job.ev k f))

/-- DECODER_BLOCK: the decoder makes a bank write, or goes on with the command that it accepted first. -/
def State.decoderBlock (s : State) (b : Nat) (write : Bool) : Option State :=
  if write then s.bankWrite b
  else
    ((s.bolt b).dec.head?).bind (fun (j : DecJob) =>
      match (s.ctxAt j.loom j.ev).copy? j.cmd with
      | none => some (s.popDecoder b)
      | some k =>
        match k.kind with
        | .ctbl slot => s.tableStep b j.loom j.ev k slot
        | .dec slot => s.decodeStep b j.loom j.ev k slot
        | _ => none)

/-- DECODER_BLOCK. -/
def execDecoderBlock (step : DecoderStep) (s : State) := s.event (s.decoderBlock step.bolt step.write)

/-! ## The copy engine's cycles (R195) -/

/-- What a started copy does with a cycle of its engine: its next bytes are read, or asked for, and written, or sent; nothing before the
releases that its count carries (R101). -/
def State.chunkStep (s : State) (loom : Nat) (ev : Bool) (k : CopyCmd) : Option State :=
  if !k.started ∨ k.len ≤ k.readTo ∨ (s.ctxAt loom ev).waitsOn k.carries then none
  else
    match k.kind with
    | .cpy | .mc => s.plainStep loom ev k
    | .red ty => s.redStep loom ev k ty
    | .csum => s.csumStep loom ev k
    | .send ch => s.sendStep loom ev k ch
    | .dec _ => s.feedStep loom ev k
    | .ctbl _ | .fill => none

/-- Whether a copy of a queue can use a cycle. -/
def State.queueReady (s : State) (loom : Nat) (ev storeQ : Bool) : Bool :=
  let c := s.ctxAt loom ev
  (if storeQ then c.copyStore else c.copyLoad).any (fun k => (s.chunkStep loom ev k).isSome)

/-- COPY_CHUNK_WRITE: a cycle of the copy engine. It serves the evaluator context before the pick context, and within one the queues by
turns, as far as they can use a cycle. -/
def State.copyChunk (s : State) (loom : Nat) (ev : Bool) (id : Nat) : Option State :=
  let c := s.ctxAt loom ev
  (c.copy? id).bind (fun k =>
    let storeQ := c.copyStore.any (·.id == id)
    if !ev && (s.queueReady loom true false || s.queueReady loom true true) then none
    else if c.lastStore == some storeQ && s.queueReady loom ev (!storeQ) then none
    else (s.chunkStep loom ev k).map (fun s => s.setCtxAt loom ev { s.ctxAt loom ev with lastStore := some storeQ }))

/-- COPY_CHUNK_WRITE. -/
def execCopyChunkWrite (loom : Nat) (ev : Bool) (cmd : Nat) (s : State) := s.event (s.copyChunk loom ev cmd)

end Sys2Proof.Machine
end

