-- ==== Sys2Proof/Machine/Serve.lean ====
section
/-!
DEFINITION. What this device does with a request that a peer has sent (R167, R290, R291, R295, R296, R378, R401).
-/

namespace Sys2Proof.Machine

/-- The atomic of an AOP code, and whether it returns a value (R131, R291). -/
def AtomicOp.ofWire (n : Nat) (new : W64) : Option (AtomicOp × Bool) :=
  let ops : List AtomicOp := [.add, .and, .or, .xor, .min, .max, .minu, .maxu, .swap]
  if n = 0x20 then some (.faaC, true)
  else if n = 0x21 then some (.cas new, true)
  else (ops[n / 2]?).map (fun o => (o, n % 2 == 0))

/-- The STATUS that tells a peer of a fault of this device's memory (R401) (DEDUCED, log 73). -/
def faultStatus (f : FaultInfo) : Nat := if f.cls = 0x12 then 4 else if f.cls = 2 then 3 else 5

/-- The kind of the reply to a request. -/
def replyKind (kind : Nat) (aop : Nat) : Nat :=
  if kind = kRead then kReadReply
  else if kind = kAtomic then (match AtomicOp.ofWire aop 0 with | some (_, true) => kAtomicReply | _ => kAck)
  else kAck

/-- The bytes of a request: inline, or those of its data flits in order (R291). -/
def Incoming.bytes (i : Incoming) : List Byte :=
  let n := i.flit.lenM1.toNat + 1
  if n ≤ 8 then leBytes n i.flit.opa.toNat
  else ((List.range 4).flatMap (fun k => ((i.data.find? (·.1 == k)).map (·.2)).getD [])).take n

/-- Whether all data of a request are here, and for a CAS its new value. -/
def Incoming.ready (i : Incoming) : Bool :=
  Nat.ble i.need ((i.data.map (fun d => d.2.length)).sum)
  && (i.kind != kAtomic || i.flit.aop != 0x21 || i.casNew.isSome)

/-- The spans of a request in a partition's memory, or the STATUS of a refusal. -/
def State.requestSpans (s : State) (p : Partition) (op : MemOp) (i : Incoming) (n : Nat) : Except Nat (List Span) :=
  if 2 ^ 48 < i.flit.addr.toNat + n then .error 3 else s.peerSpans p op 0 3 i.flit.addr.toNat n

/-- The operation of a request's kind. -/
def kindOp (kind : Nat) : MemOp :=
  if kind = kRead then .load else if kind = kAtomic then .atomic else if kind = kChWrite then .copyDst else .store

/-- The bytes that a request names. -/
def Incoming.len (i : Incoming) : Nat := if i.kind = kAtomic ∨ i.kind = kRelSt then 8 else i.flit.lenM1.toNat + 1

/-- The spans of a read or atomic of a peer that may be a loader (R110). -/
def State.loaderSpans (s : State) (i : Incoming) : List Span :=
  if i.kind = kRead ∨ i.kind = kAtomic then
    match s.part? i.flit.dpeer.toNat with
    | some p => (s.requestSpans p (kindOp i.kind) i i.len).toOption.getD []
    | none => []
  else []

/-- Performs a reduction of a peer (R198, R295): a tile takes it as a contribution, whose key no field of the flit holds, and answers when it is merged (DESIGN CHOICE, log 31). -/
def State.serveReduce (s : State) (p : Partition) (i : Incoming) : State :=
  let f := i.flit
  let ty : BitVec 2 := f.aop.setWidth 2
  let (wd, ws) := redWidths ty
  let n := i.len / ws
  match s.reduceSpan p f.addr.toNat (n * wd) with
  | .error e => s.answer i.port f kAck e 0 []
  | .ok sp =>
    let (loom, ev, seq, closes) := Config.reduceKey s.freeIdx
    let s := { s with freeIdx := s.freeIdx + 1 }
    let k : Contribution := { key := ⟨f.speer.toNat, ev, loom % 512, seq⟩, first := 0, int := ty == 3, values := redValues ty n i.bytes,
                              flags := 0, remote := some (i.port, reqKey f), closes := closes }
    match s.reduceHere ty { sp with len := n * wd } k none with
    | (s, .error x) => s.answer i.port f kAck (if x.cls = 9 ∨ x.cls = 0x15 then refusalStatus x else faultStatus x) 0 []
    | (s, .ok none) => s.modIncoming i.port (reqKey f) (fun i => { i with taken := true })
    | (s, .ok (some fl)) => s.answer i.port f kAck 0 (fl.setWidth 64) []

/-- Performs a store, flag store or channel write of a peer. -/
def State.serveWrite (s : State) (i : Incoming) (sps : List Span) : State :=
  let f := i.flit
  let bs := if i.kind = kRelSt then leBytes 8 f.opa.toNat else i.bytes
  match s.writeSpans bs sps with
  | (s, some x) => s.answer i.port f kAck (faultStatus x) 0 []
  | (s, none) =>
    let s := if i.kind = kChWrite then s.slotWritten f.dpeer.toNat f.aop.toNat f.addr.toNat i.len else s
    s.answer i.port f kAck 0 0 []

/-- A FAA.C that a port has received joins its panel's switch, on input port 6 or 7 for the panel's two ports, once; false where it does
not combine (R295, R321; DESIGN CHOICE, log 107). -/
def State.joinFar (s : State) (i : Incoming) (sp : Span) : State × Bool :=
  if i.combined ∨ i.kind ≠ kAtomic ∨ i.flit.aop ≠ 0x20 then (s, false)
  else
    match panelSwitch 0 sp.pa with
    | none => (s, false)
    | some (sw, _) =>
      let (s, ok) := s.joinSwitch sw sp.pa { port := 6 + i.port % 2, far := some (i.port, reqKey i.flit), addend := i.flit.opa }
      if ok then (s.modIncoming i.port (reqKey i.flit) (fun i => { i with taken := true, combined := true }), true) else (s, false)

/-- Performs a read or an atomic of a peer. -/
def State.serveLoad (s : State) (i : Incoming) (sps : List Span) : State :=
  let f := i.flit
  let kind := replyKind i.kind f.aop.toNat
  if i.kind = kRead then
    match s.readSpans sps with
    | (s, _, some x) => s.answer i.port f kind (faultStatus x) 0 []
    | (s, bs, none) => s.answer i.port f kind 0 (inline bs) (if bs.length ≤ 8 then [] else bs)
  else
    match AtomicOp.ofWire f.aop.toNat (i.casNew.getD 0), sps with
    | some (op, _), [sp] =>
      if f.addr.toNat % 8 ≠ 0 then s.answer i.port f kind 3 0 []
      else
      match s.joinFar i sp with
      | (s, true) => s
      | (s, false) =>
        match s.atomicAt loomNone sp op f.opa with
        | (s, _, some x) => s.answer i.port f kind (faultStatus x) 0 []
        | (s, v, none) => s.answer i.port f kind 0 (if kind = kAtomicReply then BitVec.ofNat 64 v else 0) []
    | _, _ => s.answer i.port f kind 3 0 []
where
  /-- A loom number that no loom has: the request comes through no loom's L1. -/
  loomNone : Nat := 512

/-- Performs a request of a peer whose data are all here: at its partition's own pages; a partition in reset refuses it for good
(R317, R401). A read that meets a suspension stays, to be a loader (R295). -/
def State.serve (s : State) (port key : Nat) : State :=
  match s.incoming? port key with
  | none => s
  | some i =>
    let f := i.flit
    let kind := replyKind i.kind f.aop.toNat
    if !i.ready ∨ i.taken then s
    else
      match s.part? f.dpeer.toNat with
      | none => s
      | some p =>
        if p.resetting then s.answer port f kind (256 + 6) 0 []
        else if i.kind = kReduce then s.serveReduce p i
        else
          match s.requestSpans p (kindOp i.kind) i i.len with
          | .error e => s.answer port f kind e 0 []
          | .ok sps =>
            if i.kind = kRead ∨ i.kind = kAtomic then
              if s.meetsSuspension sps then s else s.serveLoad i sps
            else s.serveWrite i sps

end Sys2Proof.Machine
end

