-- ==== Sys2Proof/Machine/Suspend.lean ====
section
/-!
DEFINITION. Suspensions and evaluations: SUSP.MK, SUSP.FILL, SUSP.PEEK, loaders, placement, the fill, and failing
(R41, R110, R188 to R193, R380 to R384, R417).
-/

namespace Sys2Proof.Machine

/-! ## SUSP.MK and SUSP.PEEK (R189, R193, R414) -/

/-- The MAKE fault of a failed check. -/
def makeFault (head : W64) (n : Nat) : FaultInfo :=
  { cls := 0x12, cause := 2, addr := head.toNat, d0 := head.toNat, d1 := n, precise := false, src := 4 }

/-- SUSP.MK issues, and its check fails: its result fails with the fault (R189, R346). -/
def State.refuseMake (s : State) (t : Tok) (c : Ctx) (ra : BitVec 6) (st : BitVec 4) (head : W64) (n : Nat) : Act State := do
  let id := c.nextId
  let s ← s.issueAccess t c { id := 0, kind := .value 0, stream := st, spans := [], dest := .reg ra, len := 8 } none 1536
  match (s.ctx.accs.find? (·.id == id)) with
  | some a => return s.failAccess s.cur.loom s.cur.ev a (makeFault head n)
  | none => return s

/-- The number of the first check of SUSP.MK that fails (R189, R367): 1 the pages, 2 PLACE, 3 alignment, 4 the template
(DEDUCED, log 75). -/
def suspCheck (template head : W64) (d : SuspDesc) (x : Nat) (sps : Option (List Span)) : Option Nat :=
  let tagged := match sps with
    | some sps => sps.all (fun sp => sp.attrs.getLsbD attrT && inHbm sp.pa)
        && (sps.map (fun sp => panelOfPa sp.pa)).eraseDups.length == 1
    | none => false
  if !tagged then some 1
  else if 3 ≤ d.place then some 2
  else if template.toNat % 8 ≠ 0 ∨ head.toNat % 128 ≠ 0 ∨ d.extent % 128 ≠ 0 ∨ d.extent = 0 ∨ 2 ^ 30 < d.extent then some 3
  else if d.sid ≠ 0 ∨ !templateReserved x then some 4
  else none

/-- SUSP.MK: the template is read, every page of the region is translated, and the region is marked after the earlier accesses
of the stream to it. -/
def execSuspMk (t : Tok) (ra rb : BitVec 6) (st : BitVec 4) (ah : BitVec 6) (s : State) :=
  s.command t (fun c => do
    let a ← c.rdA rb
    let head ← c.rdA ah
    wantAddress a
    wantAddress head
    match s.operandAt c 0x2F st a 32 with
    | .error (.wait w) => .error (.wait w)
    | .error (.fault _) => s.refuseMake t c ra st head 4
    | .ok (c, bs) => do
      let x := leNat bs
      let d := SuspDesc.ofNat x
      let va := head.toNat
      let len := Nat.min d.extent (2 ^ 30)
      let runs := if va + d.extent ≤ 2 ^ 48 then s.regionRuns s.cur.who c.peer (len / 65536 + 2) va len else []
      match runs.findSome? (fun r => match r.2 with | .error (.wait w) => some w | _ => none) with
      | some w => .error (.wait w)
      | none =>
        let sps : Option (List Span) := (runs.mapM (fun r => r.2.toOption))
        match suspCheck a head d x (if runs = [] then none else sps) with
        | some n => (s.dropWalks s.cur.loom s.cur.ev).refuseMake t c ra st head n
        | none =>
          let desc := x + c.picktag.toNat * 2 ^ 256 + c.wver.toNat * 2 ^ 320 + c.gangid.toNat * 2 ^ 384
          s.issueAccess t c { id := 0, kind := .suspMk desc va, stream := st, spans := sps.getD [], dest := .reg ra, len := 8 }
            none 1536)

/-- SUSP.PEEK. -/
def execSuspPeek (t : Tok) (ra rb : BitVec 6) (st : BitVec 4) (s : State) :=
  s.command t (fun c => do
    let a ← c.rdA rb
    wantAddress a
    let sps ← s.run c .load 0x2F 0 a 1
    s.issueAccess t c { id := 0, kind := .peek, stream := st, spans := sps, dest := .reg ra, len := 8 } none (s.latencyOf c a sps))

/-! ## Evaluations and their loaders (R190, R191) -/

/-- The SID and chain of the evaluation that a context runs: in the evaluator, or as a pick of pass E. -/
def State.evalOf (s : State) (loom : Nat) (ev : Bool) : Option (W32 × List W32) :=
  let c := s.ctxAt loom ev
  if ev then c.eval.map (fun e => (e.sid, e.chain))
  else
    match s.part? c.peer, c.pick with
    | some p, some k => (p.picks.find? (fun x => x.id == k && x.evalHead.isSome)).map (fun x => (x.evalSid, x.evalChain))
    | _, _ => none

/-- The stack of a line. -/
def lineStack (pa : Nat) : Nat := stackOf pa

/-- Entries taken in the waiter table of a stack (R383). -/
def State.waiterEntries (s : State) (stack : Nat) : Nat :=
  (s.waiters.filter (fun w => lineStack w.head == stack)).length + (s.evals.filter (fun r => lineStack r.head == stack)).length

/-- How much of a copy's source it reads next. -/
def CopyCmd.readUnit (k : CopyCmd) (peer : Nat) : Nat :=
  let left := k.len - k.readTo
  match k.kind with
  | .cpy | .mc | .send _ => k.unit peer
  | .csum => Nat.min 512 left
  | .fill => Nat.min 128 left
  | _ => Nat.min 2048 left

/-- The first suspended line of spans, by its physical and virtual address. -/
def State.firstSuspended (s : State) (sps : List Span) : Option (Nat × Nat) :=
  ((linesOf sps).find? (fun x => s.meetsCell x.1 x.2)).map (fun x => (x.1.pa, x.1.va))

/-- The partition and the first suspended line that a loader meets now. -/
def State.meets (s : State) (loom : Nat) (ev : Bool) (who : Loader) : Option (Nat × Nat × Nat) :=
  let c := s.ctxAt loom ev
  let at' (peer : Nat) (sps : List Span) : Option (Nat × Nat × Nat) := (s.firstSuspended sps).map (fun x => (peer, x.1, x.2))
  match who with
  | .acc id => (c.accs.find? (·.id == id)).bind (fun a =>
      let reads := match a.kind with | .load | .atomic .. => true | _ => false
      if reads && s.performable loom ev c a then at' c.peer (s.spansHere loom c a) else none)
  | .copy id => (c.copy? id).bind (fun k =>
      if k.started && Nat.blt k.readTo k.len then at' c.peer (s.sourceHere c (slice k.src k.readTo (k.readUnit c.peer))) else none)
  | .remote port key => (s.incoming? port key).bind (fun i =>
      if i.ready && !i.taken then at' i.flit.dpeer.toNat (s.loaderSpans i) else none)
  | .stash op => (s.stashOps.find? (·.id == op)).bind (fun o => at' o.peer o.spans)

/-- The Treadle does not start a pick: every loom of it that has not retired retires with FAULTED (R394). -/
def State.dropPick (s : State) (peer : Nat) (x : Pick) : State :=
  (x.looms.filter (fun l => !x.retired.contains l)).foldl (fun s _ => s.retireChild peer 6 x.counter true false 0) s

/-- A stash command ends with a fault of the context that issued it, which it does not change anything for (R392, R393); for a prefetch
the Treadle takes it (R394). -/
def State.failStash (s : State) (o : StashOp) (f : FaultInfo) : State :=
  let s := { s with stashOps := s.stashOps.filter (fun (x : StashOp) => x.id != o.id),
                    waiters := s.waiters.filter (fun (w : Waiter) => w.who != Loader.stash o.id) }
  match o.pick with
  | none => s.raiseAsync o.loom o.ev { f with line := o.line, lane := o.lane, stream := o.stream.toNat }
  | some k =>
    if o.next then
      let lose (e : StashEntry) : StashEntry :=
        if e.panel = o.panel ∧ e.stage = o.stage ∧ e.tag = o.tag ∧ e.tensor = o.tensor then { e with bad := true } else e
      ({ s with stash := s.stash.map lose } : State).unitRecord o.peer (7 * 512 + o.panel) f
    else
      let s := s.stageRecord o.peer o.panel o.stage (7 * 512 + o.panel) f
      match (s.part? o.peer).bind (fun p => p.picks.find? (·.id == k)) with
      | some x => if x.started then s else s.dropPick o.peer x
      | none => s

/-- A loader ends with a fault (R382), whose ADDR is the line that it met (R341, R367); a peer gets a STATUS, which for a failed evaluation asks for a retry. -/
def State.failLoader (s : State) (loom : Nat) (ev : Bool) (who : Loader) (f : FaultInfo) : State :=
  let c := s.ctxAt loom ev
  let s := { s with waiters := s.waiters.filter (fun w => !(w.loom == loom && w.ev == ev && w.who == who)) }
  let f := if f.cls = 0x12 then { f with addr := ((s.meets loom ev who).map (fun x => x.2.2)).getD f.addr } else f
  match who with
  | .acc id => match c.accs.find? (·.id == id) with | some a => s.failAccess loom ev a f | none => s
  | .copy id => match c.copy? id with | some k => s.failCopy loom ev k f | none => s
  | .remote port key => match s.incoming? port key with
    | some i => s.answer port i.flit (replyKind i.kind i.flit.aop.toNat) (if f.cls = 0x12 then 6 else 5) 0 []
    | none => s
  | .stash op => match s.stashOps.find? (·.id == op) with | some o => s.failStash o f | none => s

/-- A fault of the suspension controller (R367). -/
def suspFault (cause head d1 pa : Nat) : FaultInfo :=
  { cls := 0x12, cause := cause, addr := head, d0 := head, d1 := d1, precise := false, src := 4, unit := some (unitOf pa) }

/-! ## Placement (R190) -/

/-- Replaces an evaluation record. -/
def State.modEval (s : State) (head : Nat) (f : EvalRec → EvalRec) : State :=
  { s with evals := s.evals.map (fun r => if r.head = head then f r else r) }

/-- Queues an evaluation at a loom, if its queue of 8 has room. -/
def State.queueEval (s : State) (loom : Nat) (e : Evaluation) : Option State :=
  let l := s.loom loom
  if l.evalQ.length < 8 then
    some ((s.setLoom loom { l with evalQ := l.evalQ ++ [e] }).modEval e.head (fun r => { r with loom := some loom, held := none }))
  else none

/-- The loom of the home bolt that takes an evaluation: the fewest queued, then the lowest number, not the loader's own. -/
def State.homeLoom (s : State) (head : Nat) (avoid : Option Nat) : Option Nat :=
  let st := lineStack head
  let bolt := 5 * (st / 4) + st % 4
  let cands := ((List.range 8).map (fun i => 8 * bolt + i)).filter (fun l => some l != avoid && Nat.blt (s.loom l).evalQ.length 8)
  cands.foldl (fun best l => match best with
    | none => some l
    | some b => if (s.loom l).evalQ.length < (s.loom b).evalQ.length then some l else best) none

/-- Places an evaluation as HOME, or leaves it held at the head-line controller. -/
def State.placeHome (s : State) (e : Evaluation) (avoid : Option Nat) : State :=
  match (s.homeLoom e.head avoid).bind (fun l => s.queueEval l e) with
  | some s => s
  | none => s.modEval e.head (fun r => { r with held := some e, avoid := avoid })

/-- The entry line of a stage for a pass kind in a plane (R269). -/
def entryOf (plane : List Byte) (panel stage pass : Nat) : Option W64 :=
  let x : W64 := BitVec.ofNat 64 (planeLE plane (stageBlock panel stage + 0x180 + 8 * pass) 8)
  if x.getLsbD 0 then some (x &&& 0xFFFFFFFFFFFFFFE0) else none

/-- Posts a NAMED evaluation to the E queue of its stage, which fails at once without an E entry (R190, R269). -/
def State.placeNamed (s : State) (p : Partition) (e : Evaluation) (d : SuspDesc) : State :=
  if p.hasStage d.panel d.stage ∧ (entryOf p.plane d.panel d.stage 3).isSome then
    let a : Arrival := { tag := d.otag.setWidth 32, queue := 3, source := 2, payload := e.headVa, fired := some [] }
    match s.postArrival e.peer d.panel d.stage a (.eval e.head) with
    | (s, done) => s.modEval e.head (fun r => { r with posting := !done })
  else s.modEval e.head (fun r => { r with failing := 3 })

/-- The partition's evaluations that are held are placed where a queue has room. -/
def State.placeHeld (s : State) : State :=
  s.evals.foldl (fun s r => match r.held with
    | some e => match (s.homeLoom e.head r.avoid).bind (fun l => s.queueEval l e) with | some s => s | none => s
    | none => s) s

/-! ## Triggering (R110, R191, R383, R417) -/

/-- The lines of a region in HBM of one panel, from its pages; none if a page does not translate. -/
def State.regionLines (s : State) (p : Partition) (headVa extent : Nat) : Option (List (Piece × BitVec 8)) :=
  match s.peerSpans p .load 0 (extent / 65536 + 2) headVa extent with
  | .ok sps => if sps.all (fun sp => inHbm sp.pa) then some (linesOf sps) else none
  | .error _ => none

/-- A loader meets a region that is not consistent (R417). -/
def State.orphan (s : State) (loom : Nat) (ev : Bool) (who : Loader) (pa va : Nat) : State :=
  let m := s.line pa
  let f := memFault pa 17 5 va (pa / 128 * 128) (m.cell.toNat + 4 * m.code.toNat)
  (s.setCell pa 3).failLoader loom ev who f

/-- The descriptor of a consistent region of a SUSPENDED line, with its head and lines. -/
def State.regionOf (s : State) (p : Partition) (pa va : Nat) : Option (Nat × Nat × SuspDesc × List (Piece × BitVec 8)) :=
  let (head, headVa) := s.headOf p pa va
  let x := Memory.readLE s.mem head 128
  let d := SuspDesc.ofNat x
  if (s.line head).cell ≠ 1 ∨ !descReserved x ∨ 3 ≤ d.place ∨ d.sid = 0 ∨ d.extent % 128 ≠ 0 ∨ d.extent = 0 ∨ 2 ^ 30 < d.extent then none
  else
    (s.regionLines p headVa d.extent).bind (fun ls =>
      if ls.any (fun l => l.1.pa / 128 == pa / 128) then some (head, headVa, d, ls) else none)

/-- The first loader of a SUSPENDED region: every line becomes EVALUATING, the chain is written into the head, and one evaluation
is launched (R110, R190, R191). -/
def State.trigger (s : State) (loom : Nat) (ev : Bool) (who : Loader) (p : Partition) (peer head headVa : Nat) (d : SuspDesc)
    (ls : List (Piece × BitVec 8)) : State :=
  let local' : Bool := match who with | .acc _ | .copy _ => true | _ => false
  let mine := if local' then s.evalOf loom ev else none
  let chain := match mine with | some (sid, c) => sid :: c | none => []
  let desc := Memory.readN s.mem head 128
  let s := ls.foldl (fun s l => s.setCell l.1.pa 2) s
  let anc := leNat ((chain ++ List.replicate 4 0).take 4 |>.flatMap (fun c => leBytes 4 c.toNat))
  let s := { s with mem := Memory.writeLE s.mem (head + 56) 16 anc }
  let e : Evaluation := { sid := d.sid, chain := chain, head := head, headVa := BitVec.ofNat 64 headVa, extent := d.extent, arg := d.arg,
                          entry := d.entry, picktag := d.otag, wver := d.owver, gangid := d.ogang, peer := peer }
  let r : EvalRec := { head := head, headVa := headVa, peer := peer, extent := d.extent, lines := ls.map (fun l => l.1.pa / 128),
                       sid := d.sid, chain := chain, loom := none, place := d.place, desc := desc }
  let s := { s with evals := s.evals ++ [r], waiters := s.waiters ++ [(⟨head, loom, ev, who⟩ : Waiter)] }
  let avoid := if local' then some loom else none
  if d.place = 2 then s.placeNamed p e d
  else if d.place = 0 ∧ local' ∧ mine.isNone then
    match s.queueEval loom e with
    | some s => s
    | none => s.placeHome e avoid
  else s.placeHome e avoid

/-- LOADER_ARRIVAL (R110, R191, R383, R384, R417): a loader triggers the evaluation of a SUSPENDED region, waits behind the one of an
EVALUATING region, meets its own dependence, or is refused by a full table, which leaves everything as it was. -/
def State.loaderArrival (s : State) (loom : Nat) (ev : Bool) (who : Loader) : Option State :=
  if s.waiters.any (fun w => w.who == who && (w.loom == loom && w.ev == ev)) then none
  else
    (s.meets loom ev who).bind (fun (peer, pa, va) =>
      (s.part? peer).bind (fun p =>
        let local' : Bool := match who with | .acc _ | .copy _ => true | _ => false
        let mine := if local' then s.evalOf loom ev else none
        let room (head n : Nat) : Bool := Nat.ble (s.waiterEntries (lineStack head) + n) 1024
        if (s.line pa).cell = 2 then
          match s.recordOf pa with
          | none => some (s.orphan loom ev who pa va)
          | some r =>
            if mine.any (fun x => x.1 == r.sid || x.2.contains r.sid) then
              some (s.failLoader loom ev who (suspFault 3 r.headVa r.sid.toNat r.head))
            else if room r.head 1 then some { s with waiters := s.waiters ++ [(⟨r.head, loom, ev, who⟩ : Waiter)] }
            else none
        else
          match s.regionOf p pa va with
          | none => some (s.orphan loom ev who pa va)
          | some (head, headVa, d, ls) =>
            if mine.any (fun x => Nat.ble 4 x.2.length) then
              some (s.failLoader loom ev who (suspFault 5 headVa ((mine.map (fun x => x.1.toNat)).getD 0) head))
            else if room head 2 then some (s.trigger loom ev who p peer head headVa d ls)
            else none))

/-- LOADER_ARRIVAL. -/
def execLoaderArrival (loom : Nat) (ev : Bool) (who : Loader) (s : State) := s.event (s.loaderArrival loom ev who)

/-! ## Answers and failure (R110, R380 to R382) -/

/-- Answers a waiter with the data that its lines hold now. -/
def State.answerWaiter (s : State) (w : Waiter) : State :=
  let s := { s with waiters := s.waiters.filter (· != w) }
  match w.who with
  | .acc id => ((s.loadReturn w.loom w.ev id false 0).or (s.writeAck w.loom w.ev id 0)).getD s
  | .copy id => (s.copyChunk w.loom w.ev id).getD s
  | .remote port key => s.serve port key
  | .stash _ => s

/-- Every line of an evaluated region holds VALUE: its record is freed and its waiters are answered in arrival order. -/
def State.regionFilled (s : State) (r : EvalRec) : State :=
  let s := { s with evals := s.evals.filter (·.head != r.head) }
  (s.waiters.filter (·.head == r.head)).foldl State.answerWaiter s

/-- Restores the region of a failed evaluation as one update: the descriptor as it stood, without the chain, and every line
SUSPENDED (R380). -/
def State.restoreRegion (s : State) (r : EvalRec) : State :=
  let head := leBytes 128 (leNat (r.desc.take 56) + leNat (r.desc.drop 72) * 2 ^ 576)
  r.lines.foldl (fun s l =>
    let pa := 128 * l
    let bs := if pa = r.head then head else leBytes 8 r.headVa ++ List.replicate 120 0
    { s with mem := Memory.writeN s.mem pa bs }.setCell pa 1) s

/-- An evaluation fails (R380): the unit record of its cause, the region restored, and every waiter answered with FAILED in arrival
order; a FETCH that waits for the fill fails too (R203). -/
def State.evaluationFails (s : State) (r : EvalRec) : State :=
  let unit := 4 * 512 + lineStack r.head
  let s := match r.failing with
    | 2 => s.unitRecord r.peer unit { cls := 0x12, cause := 8, d0 := r.headVa, d1 := r.sid.toNat, precise := false }
    | 3 => s.unitRecord r.peer unit { cls := 0x12, cause := 7, d0 := r.headVa, d1 := (SuspDesc.ofNat (leNat r.desc)).stage, precise := false }
    | _ => s
  let s := s.restoreRegion r
  let s := { s with evals := s.evals.filter (·.head != r.head) }
  let f := suspFault 4 r.headVa r.sid.toNat r.head
  let s := (s.waiters.filter (·.head == r.head)).foldl (fun s w => s.failLoader w.loom w.ev w.who f) s
  (s.stashOps.filter (fun o => o.kind == 2 && o.head == some r.head)).foldl (fun s o => s.failStash o f) s

/-- Ends the evaluations that have failed. -/
def State.failEvaluations (s : State) : State :=
  (s.evals.filter (fun r => r.failing != 0)).foldl State.evaluationFails s

/-! ## Starting an evaluation (R25, R41) -/

/-- A context as R25 and R41 start it, at the line that ENTRY lies in (DEDUCED, log 137): what survives is the handler's
address and what the loom keeps beside the areas. -/
def Ctx.fresh (c : Ctx) (peer : Nat) (entry : W64) : Ctx :=
  let line := entry &&& 0xFFFFFFFFFFFFFFE0
  { ({} : Ctx) with act := .running, peer := peer, tvec := c.tvec, kept := c.kept, nextId := c.nextId, ea := { pc := line }, ex := { pc := line } }

/-- EVALUATION_START: the evaluator context is idle and takes the next evaluation of its queue. -/
def State.evaluationStart (s : State) (loom : Nat) : Option State :=
  let l := s.loom loom
  match l.evalQ with
  | [] => none
  | e :: rest =>
    if l.ev.act ≠ .idle ∨ l.pick.req.any (·.preempt) ∨ s.moveDue loom then none
    else
      match s.part? e.peer with
      | none => none
      | some p =>
        let panel := (e.gangid.extractLsb' 40 3).toNat
        let stage := (e.gangid.extractLsb' 32 8).toNat
        let c := l.ev.fresh e.peer e.entry
        let c := { c with a := ((c.a.set 1 e.arg).set 2 e.headVa).set 3 (BitVec.ofNat 64 e.extent), pass := 3, picktag := e.picktag,
                          wver := e.wver, gangid := e.gangid, slipw := BitVec.ofNat 8 (p.param panel stage 0x35 1), eval := some e,
                          plane := p.planeNo }
        some (s.setLoom loom { l with ev := c, evalQ := rest })

/-- EVALUATION_START. -/
def execEvaluationStart (loom : Nat) (s : State) := s.event (s.evaluationStart loom)

/-! ## The fill (R110, R192) -/

/-- The evaluation record that a context may fill. -/
def State.fillRecord (s : State) (loom : Nat) (ev : Bool) : Option EvalRec :=
  (s.evalOf loom ev).bind (fun x => s.evals.find? (fun r => r.sid == x.1 && !r.filled && r.peer == (s.ctxAt loom ev).peer))

/-- The lines of a record's region from a virtual address, as spans of a copy's destination; `pages` are the pages there. -/
def fillSpans (r : EvalRec) (pages : List Span) (va len : Nat) : List Span :=
  (List.range (len / 128)).map (fun i =>
    let line := va + 128 * i
    { pa := 128 * r.lines.getD ((line - r.headVa) / 128) 0, va := line, len := 128, off := 128 * i,
      attrs := ((pages.find? (fun sp => Nat.ble sp.va line && Nat.blt line (sp.va + sp.len))).map (·.attrs)).getD 0 })

/-- SUSP.FILL: its lines lie in the region that the issuer's evaluation fills, or it faults and writes nothing. The walks of its
destination come first (R414). -/
def execSuspFill (t : Tok) (ra rb : BitVec 6) (st : BitVec 4) (aL ab : BitVec 6) (s : State) :=
  s.command t (fun c => do
    let dst ← c.rdA ra
    let src ← c.rdA rb
    let n ← c.rdA aL
    let bar ← c.rdA ab
    wantAddress dst
    wantAddress src
    let len := n.toNat % 2 ^ 32
    let loom := s.cur.loom
    let inside := (s.fillRecord loom s.cur.ev).filter (fun r => dst.toNat % 128 == 0 && len % 128 == 0 && Nat.ble r.headVa dst.toNat
      && Nat.ble (dst.toNat + len) (r.headVa + r.extent))
    let here := if inside.isSome then Nat.max 1 len else 1
    let runs := s.regionRuns s.cur.who c.peer (here / 65536 + 2) dst.toNat here
    match runs.findSome? (fun r => match r.2 with | .error (.wait w) => some w | _ => none), inside with
    | some w, _ => .error (.wait w)
    | none, some r => do
      multiple4 src src.toNat
      barrierAligned bar
      let spss ← s.checkCommand s.cur.who loom c.peer (⟨.copySrc, 0x2F, 0, src, len⟩ :: barrierRun 0x2F ab bar)
      if len = 0 then return s.setCtx (c.postNow .A t)
      else
        s.queueUnnumbered t c
          { id := 0, seq := none, kind := .fill, stream := st, src := spss.headD [],
            dst := fillSpans r (runs.filterMap (fun x => x.2.toOption)) dst.toNat len, len := len,
            barrier := (spss.getD 1 []).head?, after := c.covers 0 st 2 } (namedBarrier ab bar)
    | none, none =>
      let cell := ((runs.filterMap (fun x => x.2.toOption)).head?.map (fun sp => (s.line sp.pa).cell.toNat)).getD 0
      return ((s.dropWalks loom s.cur.ev).setCtx (c.postNow .A t)).raiseAsync loom s.cur.ev
        { cls := 0x12, cause := 1, addr := dst.toNat, d0 := dst.toNat / 128 * 128, d1 := cell, src := 2, unit := some (512 + loom), line := c.ea.pc.toNat,
          lane := c.ea.lane, stream := st.toNat })

/-- FILL_LINE: the next line of a fill is written whole and turns VALUE in one action; the last line of the region answers the
waiters (DEDUCED, log 81). -/
def State.fillLine (s : State) (loom : Nat) (ev : Bool) (id : Nat) : Option State :=
  ((s.ctxAt loom ev).copy? id).bind (fun k =>
    if k.kind ≠ .fill ∨ !k.started ∨ k.len ≤ k.readTo ∨ (s.ctxAt loom ev).waitsOn k.carries then none
    else
      match s.fetchUnit loom ev k 128 with
      | .blocked => none
      | .sent s => some s
      | .fault s f => some (s.failCopy loom ev k f)
      | .bytes s bs =>
        match (slice k.dst k.readTo 128).head? with
        | none => none
        | some sp =>
          match s.fillRecord loom ev with
          | none => some (s.failCopy loom ev k (storeFault s sp.pa sp.va))
          | some r =>
            if !r.lines.contains (sp.pa / 128) ∨ (s.line sp.pa).cell ≠ 2 then some (s.failCopy loom ev k (storeFault s sp.pa sp.va))
            else
              match s.meetLine sp.pa sp.va sp.attrs true 0 with
              | (s, some f) => some (s.failCopy loom ev k f)
              | (s, none) =>
                let s := ((s.putPiece sp.attrs { pa := sp.pa, va := sp.va, off := 0, len := 128 } bs).setCell sp.pa 0).countWrite
                  [(sp.pa, 128)] (some (loom, ev))
                let s := s.copyWrote loom ev id 128 [(sp.pa, 128)]
                let done := r.lines.all (fun l => (s.line (128 * l)).cell == 0)
                some (if done then s.regionFilled r else s))

/-- FILL_LINE. -/
def execFillLine (loom : Nat) (ev : Bool) (cmd : Nat) (s : State) := s.event (s.fillLine loom ev cmd)

/-! ## The suspension limit (R383) -/

/-- SUSPENSION_LIMIT: a loader that is still unanswered raises LIMIT and leaves the table; an evaluation that is held all that time
fails. A request that a peer refuses for so long raises it too (R401) (DEDUCED, log 83). -/
def State.suspensionLimit (s : State) (loom : Nat) (ev : Bool) (id : Nat) : Option State :=
  let c := s.ctxAt loom ev
  let who : Loader := if c.accs.any (·.id == id) then .acc id else .copy id
  let limit := ((s.part? c.peer).map (·.suspLimit)).getD 0
  if limit = 0 then none
  else
    match s.waiters.find? (fun w => w.loom == loom && w.ev == ev && w.who == who) with
    | some w =>
      let r := s.evals.find? (fun (r : EvalRec) => r.head == w.head)
      let s := s.failLoader loom ev who (suspFault 6 ((r.map (·.headVa)).getD 0) limit w.head)
      some (match r with
        | some x => if x.held.isSome || x.posting then s.modEval x.head (fun y => { y with failing := 4 }) else s
        | none => s)
    | none =>
      match s.meets loom ev who with
      | some (peer, pa, va) =>
        let head := match s.recordOf pa, s.part? peer with
          | some r, _ => r.headVa
          | none, some p => (s.headOf p pa va).2
          | none, none => va
        some (s.failLoader loom ev who (suspFault 6 head limit pa))
      | none =>
        let refused (r : Request) : Bool := r.loom == loom && r.ev == ev && r.refused
          && (match r.owner with | .acc i _ => i == id | .copyRead i _ _ | .copyWrite i _ _ => i == id | _ => false)
        match s.requests.find? refused with
        | none => none
        | some r =>
          let s := { s with requests := s.requests.filter (fun x => x.rtag != r.rtag) }
          some (s.failLoader loom ev who
            { cls := 0x12, cause := 6, addr := r.flit.addr.toNat, d0 := r.flit.addr.toNat, d1 := limit, precise := false, remote := true,
              status := 6, src := 4 })

/-- SUSPENSION_LIMIT. -/
def execSuspensionLimit (loom : Nat) (ev : Bool) (acc : Nat) (s : State) := s.event (s.suspensionLimit loom ev acc)

end Sys2Proof.Machine
end

