-- ==== Sys2Proof/Machine/Stash.lean ====
section
/-!
DEFINITION. The stash engines: accepting STASH commands and prefetches, and carrying them out in the order of their keys
(R202, R203, R270, R368, R392 to R394).
-/

namespace Sys2Proof.Machine

/-! ## Keys and the directory (R202) -/

/-- Whether a command names an entry. -/
def StashOp.names (o : StashOp) (e : StashEntry) : Bool :=
  e.panel == o.panel && e.stage == o.stage && e.tag == o.tag && e.tensor == o.tensor

/-- The entry of a command's key. -/
def State.stashEntry (s : State) (o : StashOp) : Option StashEntry := s.stash.find? o.names

/-- Replaces the entry of a command's key, or removes it. -/
def State.putEntry (s : State) (o : StashOp) (e : Option StashEntry) : State :=
  { s with stash := s.stash.filter (fun x => !o.names x) ++ e.toList }

/-- Changes a command that has been accepted. -/
def State.modStash (s : State) (id : Nat) (f : StashOp → StashOp) : State :=
  { s with stashOps := s.stashOps.map (fun o => if o.id = id then f o else o) }

/-- The stash fault of a command (R368) (DEDUCED, log 90). -/
def StashOp.fault (o : StashOp) (cause : Nat) : FaultInfo :=
  { cls := 0x21, cause := cause, d0 := o.tag.toNat + o.tensor.toNat * 2 ^ 32 + o.stage * 2 ^ 44, d1 := o.word.toNat,
    precise := false, src := 4, unit := some (7 * 512 + o.panel) }

/-- A command ends, and its barrier counts (R203). `runs` are the bytes that it
has written. -/
def State.endStash (s : State) (o : StashOp) (n : Nat) (runs : List (Nat × Nat) := []) : State :=
  match s.countFor o.peer o.barrier n 0 runs with
  | (s, some f) => s.failStash o f
  | (s, none) => { s with stashOps := s.stashOps.filter (fun (x : StashOp) => x.id != o.id),
                          waiters := s.waiters.filter (fun (w : Waiter) => w.who != Loader.stash o.id) }

/-! ## Regions -/

/-- The pages of a run of virtual addresses by walks of the stash engine, each with its permission and admission. -/
def State.walkPages (s : State) (p : Partition) (op : MemOp) (off : Nat) : (fuel va len : Nat) → Except FaultInfo (List Span)
  | 0, _, _ => .ok []
  | fuel + 1, va, len =>
    if len = 0 then .ok []
    else
      match s.walkAll p va 4 0 p.level0 with
      | .bad cause entry => .error { cls := 3, cause := cause, addr := va, d0 := entry, precise := false, src := 4 }
      | .next _ => .error { cls := 3, cause := 3, addr := va, precise := false, src := 4 }
      | .leaf size pa at' =>
        let pa := pa + va % size
        let n := Nat.min len (65536 - va % 65536)
        if op.writes ∧ !at'.getLsbD attrW then .error { cls := 3, cause := 7, addr := va, d1 := 3, precise := false, src := 4 }
        else if !op.inPage at' ∨ (op.writes ∧ (p.counterAt pa n).isSome) then
          .error { cls := 2, cause := 3, addr := va, d1 := 0x37, precise := false, src := 4 }
        else
          match s.walkPages p op (off + n) fuel (va + n) (len - n) with
          | .error f => .error f
          | .ok r => .ok ({ pa := pa, va := va, len := n, off := off, attrs := at' } :: r)

/-- The bytes of a tensor's region or destination: partition-virtual memory, or a scratchpad of the loom that gave the command
(DEDUCED, log 85). -/
def State.stashSpans (s : State) (p : Partition) (op : MemOp) (loom : Nat) (a : W64) (len : Nat) : Except FaultInfo (List Span) :=
  let bad (cause d1 : Nat) : FaultInfo := { cls := 2, cause := cause, addr := a.toNat, d1 := d1, precise := false, src := 4 }
  match place a with
  | none => .error (bad 1 0)
  | some pl =>
    if pl.offset.2 < pl.offset.1 + len then .error (bad 2 len)
    else match pl with
      | .virt va => s.walkPages p op 0 (len / 65536 + 2) va len
      | .loom o => .ok [{ pa := loomPad loom o, va := a.toNat, len := len, off := 0 }]
      | .bolt o => .ok [{ pa := boltPad (boltOf loom) o, va := a.toNat, len := len, off := 0 }]
      | _ => .error (bad 3 0x37)

/-! ## Stash areas -/

/-- The area of a panel that a policy and tier use (R203): COMPRESS uses HBM. -/
def Partition.stashArea (p : Partition) (panel : Nat) (lp : Bool) : Nat × Nat :=
  (((if lp then p.stashLp else p.stashHbm).find? (·.1 == panel)).map (·.2)).getD (0, 0)

/-- The lowest place of an area, aligned to a line, that no entry uses; the spec names no order (DEDUCED, log 34). -/
def State.stashRoom (s : State) (area : Nat × Nat) (size : Nat) : Option Nat :=
  let up (x : Nat) : Nat := (x + 127) / 128 * 128
  let used := (s.stash.filter (·.size != 0)).map (fun e => (e.store, e.size))
  let free (x : Nat) : Bool := Nat.ble area.1 x && Nat.ble (x + size) (area.1 + area.2)
    && !used.any (fun u => overlapLen x size u.1 u.2 != 0)
  let first := ((area.1 :: used.map (fun u => u.1 + u.2)).map up).filter free
  first.foldl (fun best x => some (match best with | none => x | some b => Nat.min b x)) none

/-- A line or part of a line of a tensor, as its area holds it: where it stands in the tensor and in the area, and its code. -/
structure StashPiece where
  off : Nat
  n : Nat
  store : Nat
  size : Nat
  code : BitVec 3
  deriving DecidableEq, Repr

/-- The pieces of a tensor from its region's address: whole lines of a compressed one take their k sectors, one after the other. -/
def stashLayout (packed : Bool) : List Piece → (codes : List (BitVec 3)) → (store : Nat) → List StashPiece
  | [], _, _ => []
  | p :: r, cs, store =>
    let code := if packed && p.len == 128 then cs.headD 0 else 0
    let size := if packed && p.len == 128 then 32 * codeSectors code else p.len
    ⟨p.off, p.len, store, size, code⟩ :: stashLayout packed r cs.tail (store + size)

/-- The pieces of a tensor in its region. -/
def regionPieces (region len : Nat) : List Piece := pieces region region 0 (len / 128 + 2) len

/-- The layout of an entry. -/
def StashEntry.layout (e : StashEntry) : List StashPiece :=
  stashLayout (e.policy == 1) (regionPieces e.region e.len) e.codes e.store

/-- The area's bytes of a piece. -/
def StashPiece.span (x : StashPiece) : Span := { pa := x.store, va := 0, len := x.size, off := 0 }

/-- Copies a region into its area until a line faults. -/
def State.packPieces (s : State) (spans : List Span) : List StashPiece → State × Option FaultInfo
  | [] => (s, none)
  | x :: r =>
    match s.readSpans (slice spans x.off x.n) with
    | (s, _, some f) => (s, some f)
    | (s, bs, none) =>
      let bs := if x.size = x.n then bs else (storedBytes x.code (wordsOf bs 32) ++ List.replicate 128 0).take x.size
      match s.writeSpan x.span bs with
      | (s, some f) => (s, some f)
      | (s, none) => s.packPieces spans r

/-- The context whose command it is, if no Treadle has given it. -/
def StashOp.by' (o : StashOp) : Option (Nat × Bool) := if o.pick.isSome then none else some (o.loom, o.ev)

/-- Copies pieces to a destination until one faults: the bytes written, and the fault with whether reading the source met it
(R332). -/
def State.movePieces (s : State) (who : Option (Nat × Bool)) (source : StashPiece → List Span) (dst : List Span) :
    List StashPiece → State × Nat × Option (FaultInfo × Bool)
  | [] => (s, 0, none)
  | x :: r =>
    match s.readSpans (source x) with
    | (s, _, some f) => (s, 0, some (f, true))
    | (s, bs, none) =>
      let bs := if x.size = x.n then bs else (decodeStored x.code bs).flatMap bytes32
      match s.writeSpans bs ((slice dst x.off x.n).map (fun sp => { sp with off := sp.off - x.off })) who with
      | (s, some f) => (s, 0, some (f, false))
      | (s, none) =>
        let (s, n, f) := s.movePieces who source dst r
        (s, x.n + n, f)

/-! ## PUT and DROP -/

/-- Writes a suspension over a region for the DROP policy (R189, R203): the state after it, or the fault (DEDUCED, log 86). -/
def State.suspendRegion (s : State) (p : Partition) (o : StashOp) (region : Nat) (len : Nat) (place' : BitVec 2) (arg : W64)
    (spans : List Span) : State × Option FaultInfo :=
  if !spans.all (fun sp => sp.attrs.getLsbD attrT && inHbm sp.pa) then (s, some (o.fault 0x42))
  else if (spans.map (fun sp => panelOfPa sp.pa)).eraseDups.length ≠ 1 then
    (s, some { makeFault (BitVec.ofNat 64 region) 1 with unit := some (7 * 512 + o.panel) })
  else if place' = 3 then (s, some { makeFault (BitVec.ofNat 64 region) 2 with unit := some (7 * 512 + o.panel) })
  else if region % 128 ≠ 0 ∨ len % 128 ≠ 0 ∨ len = 0 ∨ 2 ^ 30 < len then
    (s, some { makeFault (BitVec.ofNat 64 region) 3 with unit := some (7 * 512 + o.panel) })
  else
    let entry := planeLE p.plane (stageBlock o.panel o.stage + 0x198) 8 / 32 * 32
    let desc := entry + arg.toNat * 2 ^ 64 + len * 2 ^ 128 + place'.toNat * 2 ^ 176 + o.stage * 2 ^ 224 + o.panel * 2 ^ 232
      + o.owner.1.toNat * 2 ^ 256 + o.owner.2.1.toNat * 2 ^ 320 + o.owner.2.2.toNat * 2 ^ 384
    match s.makeSuspension o.peer desc region spans with
    | (s, _, f) => (s, f)

/-- The entry that a PUT registers. -/
def StashOp.entry (o : StashOp) : StashEntry :=
  { panel := o.panel, stage := o.stage, tag := o.tag, tensor := o.tensor, peer := o.peer, policy := o.policy, tier := o.tier,
    place := o.place, arg := o.arg, region := o.region, loom := o.loom, len := o.len, dropped := o.policy == 3 }

/-- Whether a command has to wait for a suspension: it stands as a loader of the lines until they hold VALUE. -/
def State.stashHeld (s : State) (o : StashOp) (spans : List Span) : Option State :=
  if o.spans = spans then none else some (s.modStash o.id (fun o => { o with spans := spans }))

/-- Carries out a PUT (R203, R392) (DEDUCED, log 88). -/
def State.stashPut (s : State) (p : Partition) (o : StashOp) : Option State :=
  if (s.stashEntry o).isSome then some (s.failStash o (o.fault 0x40))
  else if 4096 ≤ (s.stash.filter (·.panel == o.panel)).length then some (s.failStash o (o.fault 0x44))
  else if o.policy = 0 then some ((s.putEntry o (some o.entry)).endStash o o.len)
  else
    match s.stashSpans p (if o.policy = 3 then .copyDst else .copySrc) o.loom (BitVec.ofNat 64 o.region) o.len with
    | .error f => some (s.failStash o f)
    | .ok spans =>
      if o.policy = 3 then
        match s.suspendRegion p o o.region o.len o.place o.arg spans with
        | (s, some f) => some (s.failStash o f)
        | (s, none) => some ((s.putEntry o (some o.entry)).endStash o o.len)
      else if s.meetsSuspension spans then s.stashHeld o spans
      else
        let codes := (regionPieces o.region o.len).map (fun x =>
          lineCode (wordsOf ((slice spans x.off x.len).flatMap (fun sp => Memory.readN s.mem sp.pa sp.len)) 32))
        let e := { o.entry with codes := if o.policy = 1 then codes else [] }
        let size := (e.layout.map (·.size)).sum
        match s.stashRoom (p.stashArea o.panel (o.policy == 2 && o.tier == 1)) size with
        | none => some (s.failStash o (o.fault 0x43))
        | some store =>
          let e := { e with store := store, size := size }
          match s.packPieces spans e.layout with
          | (s, some f) => some (s.failStash o f)
          | (s, none) => some ((s.putEntry o (some e)).endStash o o.len)

/-- Carries out a DROP. -/
def State.stashDrop (s : State) (p : Partition) (o : StashOp) : Option State :=
  match s.stashEntry o with
  | none => some (s.failStash o (o.fault 0x41))
  | some e =>
    if e.policy ≠ 0 then some (s.failStash o (o.fault 0x46))
    else
      match s.stashSpans p .copyDst e.loom (BitVec.ofNat 64 e.region) e.len with
      | .error f => some (s.failStash o f)
      | .ok spans =>
        match s.suspendRegion p o e.region e.len e.place e.arg spans with
        | (s, some f) => some (s.failStash o f)
        | (s, none) => some ((s.putEntry o (some { e with policy := 3, dropped := true })).endStash o 0)

/-! ## FETCH and FREE -/

/-- A FETCH of a DROP entry into its region (R203): LEN counts once the region holds VALUE; until then the evaluation is triggered and
awaited, without the place of a waiter. A prefetch does not wait for it (R270) (DEDUCED, log 87) (DEDUCED, log 89). -/
def State.fetchDropped (s : State) (p : Partition) (o : StashOp) (e : StashEntry) (spans : List Span) : Option State :=
  match s.firstSuspended spans with
  | none => some (s.endStash o e.len)
  | some (pa, va) =>
    let wait (s : State) (head : Nat) : State :=
      if o.pick.isSome then s.endStash o 0 else s.modStash o.id (fun o => { o with head := some head })
    if (s.line pa).cell = 2 then
      match s.recordOf pa with
      | none => some (s.orphan o.loom o.ev (.stash o.id) pa va)
      | some r => if o.head = some r.head then none else some (wait s r.head)
    else
      match s.regionOf p pa va with
      | none => some (s.orphan o.loom o.ev (.stash o.id) pa va)
      | some (head, headVa, d, ls) =>
        if 1024 ≤ s.waiterEntries (lineStack head) then none
        else
          let s := s.trigger o.loom o.ev (.stash o.id) p o.peer head headVa d ls
          some (wait { s with waiters := s.waiters.filter (fun (w : Waiter) => w.who != Loader.stash o.id) } head)

/-- A FETCH that moves bytes (R203, R393), to an address as the scratchpads of a loom give it. -/
def State.fetchBytes (s : State) (p : Partition) (o : StashOp) (e : StashEntry) (loom : Nat) (dest : W64) : Option State :=
  let area := e.policy == 1 || e.policy == 2
  let region := if area then .ok [] else s.stashSpans p .copySrc e.loom (BitVec.ofNat 64 e.region) e.len
  match region, s.stashSpans p .copyDst loom dest e.len with
  | .error f, _ => some (s.failStash o f)
  | _, .error f => some (s.failStash o f)
  | .ok src, .ok dst =>
    if s.meetsSuspension src then s.stashHeld o src
    else
      let ps := if area then e.layout else stashLayout false (regionPieces e.region e.len) [] 0
      let source (x : StashPiece) : List Span := if area then [x.span] else slice src x.off x.n
      match s.movePieces o.by' source dst ps with
      | (s, n, none) => some (s.endStash o n (dst.map (fun sp => (sp.pa, sp.len))))
      | (s, n, some (f, reading)) =>
        let s := (s.countFor o.peer o.barrier n 0 (dst.map (fun sp => (sp.pa, sp.len)))).1
        let s := if area && reading then s.putEntry o (some { e with bad := true }) else s
        some (s.failStash o f)

/-- Carries out a FETCH or a prefetch. -/
def State.stashFetch (s : State) (p : Partition) (o : StashOp) : Option State :=
  match s.stashEntry o with
  | none => some (if o.pick.isSome then s.endStash o 0 else s.failStash o (o.fault 0x41))
  | some e =>
    if e.bad then some (s.failStash o (o.fault 0x45))
    else if o.other then s.fetchBytes p o e o.loom (BitVec.ofNat 64 o.region)
    else if e.policy = 0 then some (s.endStash o e.len)
    else if e.policy = 3 then
      match s.stashSpans p .copySrc e.loom (BitVec.ofNat 64 e.region) e.len with
      | .error f => some (s.failStash o f)
      | .ok spans => s.fetchDropped p o e spans
    else s.fetchBytes p o e e.loom (BitVec.ofNat 64 e.region)

/-- Resets a SUSPENDED line to VALUE with zero data. -/
def State.zeroLine (s : State) (x : Piece × BitVec 8) : State :=
  if (s.line x.1.pa).cell = 1 then
    let line := x.1.pa / 128 * 128
    let s := { s with mem := Memory.writeN s.mem line (List.replicate 128 0) }
    (s.setLine line { s.metaAfter line x.2 true with cell := 0 }).countWrite [(line, 128)]
  else s

/-- Carries out a FREE (R203): an EVALUATING region is awaited. -/
def State.stashFree (s : State) (p : Partition) (o : StashOp) : Option State :=
  match s.stashEntry o with
  | none => some (s.failStash o (o.fault 0x41))
  | some e =>
    if e.policy ≠ 3 then some ((s.putEntry o none).endStash o 0)
    else
      match s.stashSpans p .copySrc e.loom (BitVec.ofNat 64 e.region) e.len with
      | .error f => some (s.failStash o f)
      | .ok spans =>
        let lines := linesOf spans
        if lines.any (fun x => (s.line x.1.pa).cell == 2) then none
        else some (((lines.foldl State.zeroLine s).putEntry o none).endStash o 0)

/-! ## The engine -/

/-- Whether the context's earlier accesses of the stream to the tensor's region hold a command: writes, and for one that writes a suspension
over the region every access (R95, R189). -/
def State.stashFollows (s : State) (o : StashOp) : Bool :=
  let c := s.ctxAt o.loom o.ev
  let region : Nat × Nat := if o.kind = 0 then (o.region, o.len) else ((s.stashEntry o).map (fun e => (e.region, e.len))).getD (0, 0)
  let marks := o.kind == 1 || (o.kind == 0 && o.policy == 3)
  o.pick.isNone && c.accs.any (fun a => Nat.blt a.id o.since && a.stream == o.stream && (marks || a.kind.writes)
    && a.undone.any (·.holds c.peer region.1 region.2))

/-- STASH_ACTION_COMPLETE: the first command of a key on a panel, whose region's earlier writes of its stream are performed, is
carried out; commands of other keys do not hold it (R202). -/
def State.stashAction (s : State) (panel id : Nat) : Option State :=
  (s.stashOps.find? (fun o => o.id == id && o.panel == panel)).bind (fun o =>
    let same (x : StashOp) : Bool := x.panel == o.panel && x.stage == o.stage && x.tag == o.tag && x.tensor == o.tensor
    let first := (s.stashOps.find? same).any (·.id == id)
    let waits := s.waiters.any (fun w => w.who == Loader.stash o.id)
    if !first ∨ waits ∨ s.stashFollows o ∨ (o.pick.isNone ∧ (s.ctxAt o.loom o.ev).waitsOn o.after) then none
    else
      (s.part? o.peer).bind (fun p =>
        if p.resetting then none
        else match o.kind with
        | 0 => s.stashPut p o
        | 1 => s.stashDrop p o
        | 2 => s.stashFetch p o
        | _ => s.stashFree p o))

/-- STASH_ACTION_COMPLETE. -/
def execStashActionComplete (panel op : Nat) (s : State) := s.event (s.stashAction panel op)

/-- Hands a command to a stash engine. -/
def State.acceptStash (s : State) (o : StashOp) : State :=
  { s with stashOps := s.stashOps ++ [{ o with id := s.nextStash }], nextStash := s.nextStash + 1 }

/-- The completion barrier of an instruction that raises no cause of its own but OPERAND (R346) (DEDUCED, log 84). -/
def State.objectBarrier (s : State) (c : Ctx) (maj : Nat) (ab : BitVec 6) (bar : W64) : Act (Option Span) :=
  if ab = 0 then .ok none
  else if isHandle bar ∨ bar.toNat % 32 ≠ 0 then .error (operandFault bar)
  else
    match s.checkCommand s.cur.who s.cur.loom c.peer (barrierRun maj ab bar) with
    | .ok spss => .ok (spss.headD []).head?
    | .error (.wait w) => .error (.wait w)
    | .error (.fault _) => .error (operandFault bar)

/-- The shared course of the STASH group: the key, fences, the barrier, and what the engine of GANGID.LPANEL needs. -/
def State.stashCommand (s : State) (t : Tok) (c : Ctx) (kind : Nat) (rb : BitVec 6) (st : BitVec 4) (ab : BitVec 6)
    (f : StashOp → StashOp) : Act State := do
  let key ← c.rdA rb
  let bar ← c.rdA ab
  check (key.extractLsb' 44 20 == 0) (operandFault key)
  let barrier ← s.objectBarrier c 0x37 ab bar
  c.fenceFree st
  let rs := s.carriedBy c st (namedBarrier ab bar) []
  let o : StashOp :=
    { id := 0, kind := kind, panel := c.stagePanel, stage := c.stageIdx, tag := key.extractLsb' 0 32, tensor := key.extractLsb' 32 12,
      peer := c.peer, loom := s.cur.loom, ev := s.cur.ev, line := c.ea.pc.toNat, lane := c.ea.lane, word := c.ea.word, stream := st,
      barrier := barrier, after := coveredBy rs, since := c.nextId, owner := (c.picktag, c.wver, c.gangid) }
  return (s.setCtx ((c.release rs).postNow .A t)).acceptStash (f o)

/-- STASH.PUT. -/
def execStashPut (t : Tok) (ra rb : BitVec 6) (st : BitVec 4) (aL ab : BitVec 6) (policy : BitVec 2) (tier : BitVec 1)
    (place' : BitVec 2) (aa : BitVec 6) (s : State) :=
  s.command t (fun c => do
    let a ← c.rdA ra
    let n ← c.rdA aL
    let arg ← c.rdA aa
    wantAddress a
    let len := n.toNat % 2 ^ 32
    s.stashCommand t c 0 rb st ab (fun o =>
      { o with region := a.toNat, len := len, policy := policy, tier := tier, place := place', arg := arg }))

/-- STASH.DROP. -/
def execStashDrop (t : Tok) (rb : BitVec 6) (st : BitVec 4) (s : State) :=
  s.command t (fun c => s.stashCommand t c 1 rb st 0 id)

/-- STASH.FETCH: with ra naming a0 the tensor goes to its registered region. -/
def execStashFetch (t : Tok) (ra rb : BitVec 6) (st : BitVec 4) (ab : BitVec 6) (s : State) :=
  s.command t (fun c => do
    let a ← c.rdA ra
    wantAddress a
    s.stashCommand t c 2 rb st ab (fun o => { o with region := a.toNat, other := ra != 0 }))

/-- STASH.FREE. -/
def execStashFree (t : Tok) (rb : BitVec 6) (st : BitVec 4) (s : State) :=
  s.command t (fun c => s.stashCommand t c 3 rb st 0 id)

end Sys2Proof.Machine
end

