-- ==== Sys2Proof/Machine/Treadle.lean ====
section
/-!
DEFINITION. The Treadles: liftplans and decisions (R263 to R270, R405), the replay sequence (R286, R287), the TRD instructions
(R274 to R280), and configuration planes (R281 to R285, R407, R408).
-/

namespace Sys2Proof.Machine

/-! ## Liftplan rows (R264) -/

/-- A row of a liftplan. -/
structure Row where
  valid : Bool
  qne : Nat
  qemp : Nat
  inlo : Nat
  inhi : Nat
  vneed : Bool
  pass : Nat
  queue : Fin 4
  select : Nat
  pfon : Bool
  pfnext : Bool
  pfbase : Nat
  pfcount : Nat
  prio : Nat
  age : Nat
  reserved : Nat
  deriving DecidableEq, Repr

/-- A row from its 8 bytes. -/
def Row.ofNat (x : Nat) : Row :=
  let f (lo n : Nat) : Nat := (x / 2 ^ lo) % 2 ^ n
  { valid := x.testBit 63, qne := f 59 4, qemp := f 55 4, inlo := f 49 6, inhi := f 43 6, vneed := x.testBit 42, pass := f 40 2,
    queue := Fin.ofNat 4 (f 38 2), select := f 36 2, pfon := x.testBit 35, pfnext := x.testBit 34, pfbase := f 22 12,
    pfcount := f 18 4, prio := f 14 4, age := f 10 4, reserved := f 0 10 }

/-- Row i of a stage in a plane. -/
def planeRow (plane : List Byte) (panel stage i : Nat) : Row := Row.ofNat (planeLE plane (stageBlock panel stage + 8 * i) 8)

/-- Whether a row with VALID set keeps the rules of R264; a row with VALID clear is not checked. -/
def Row.ok (r : Row) (plane : List Byte) (panel stage : Nat) : Bool :=
  !r.valid || (r.reserved == 0 && Nat.ble r.inlo r.inhi && (r.pass != 3 || r.queue == 3)
    && (entryOf plane panel stage r.pass).isSome)

/-! ## Selecting an entry (R263) -/

/-- Whether an entry is selectable for a pass kind. -/
def Stage.selectable (st : Stage) (pass : Nat) (a : Arrival) : Bool :=
  match pass with
  | 0 => (st.pinOf a.tag).isNone && Nat.blt st.pins.length 64
  | 1 | 2 => (st.pinOf a.tag).isSome
  | _ => true

/-- The place in its queue of the entry that SELECT chooses among the 64 on chip. -/
def Stage.choose (st : Stage) (q : Fin 4) (pass select : Nat) : Option Nat :=
  let xs := ((st.queues[q].take 64).zipIdx.filter (fun x => st.selectable pass x.1))
  let better (a b : Arrival × Nat) : Bool :=
    match select with
    | 2 => Nat.blt a.1.tag.toNat b.1.tag.toNat
    | 3 => Nat.blt b.1.tag.toNat a.1.tag.toNat
    | _ => false
  match xs.find? (fun x => Nat.ble 64 x.1.passed) with
  | some x => some x.2
  | none =>
    if select = 1 then xs.getLast?.map (·.2)
    else (xs.foldl (fun best x => match best with
      | none => some x
      | some b => if better x b then some x else best) none).map (·.2)

/-- Takes the entry at a place from its queue; each entry before it has been passed once more. -/
def Stage.take (st : Stage) (q : Fin 4) (i : Nat) : Stage :=
  let l := st.queues[q]
  { st with queues := st.queues.set q ((l.take i).map (fun a => { a with passed := a.passed + 1 }) ++ l.drop (i + 1)) }

/-! ## Matching and decisions (R265, R266) -/

/-- Whether a row matches. -/
def Stage.rowMatches (st : Stage) (r : Row) : Bool :=
  let infl := st.pins.length
  let holds (q : Fin 4) : Bool := (st.choose q r.pass r.select).isSome
  r.valid
  && (List.finRange 4).all (fun q => !r.qne.testBit q.val || holds q)
  && (List.finRange 4).all (fun q => !r.qemp.testBit q.val || st.depth q == 0)
  && Nat.ble r.inlo infl && (r.inhi == 63 || Nat.ble infl r.inhi)
  && (!r.vneed || st.current.isSome)
  && holds r.queue

/-- The effective priority of a row. -/
def Stage.priority (st : Stage) (rows : List Row) (i : Nat) : Nat :=
  Nat.min (((rows[i]?).map (·.prio)).getD 0 + (st.acc.toList.getD i 0).toNat) 255

/-- The rows of a list that match a stage, by number. -/
def Stage.matching (st : Stage) (rows : List Row) : List Nat :=
  (rows.zipIdx.filter (fun x => st.rowMatches x.1)).map (·.2)

/-- The row that wins: the greatest effective priority, the topmost of equals. -/
def Stage.bestRow (st : Stage) (rows : List Row) : Option Nat :=
  (st.matching rows).foldl (fun best i => match best with
    | none => some i
    | some b => if st.priority rows b < st.priority rows i then some i else best) none

/-- Ageing after a decision for a row. -/
def Stage.aged (st : Stage) (rows : List Row) (best : Nat) : Stage :=
  let ms := st.matching rows
  { st with acc := Vector.ofFn (fun i : Fin 32 =>
      if i.val = best then 0
      else if ms.contains i.val then
        BitVec.ofNat 8 (Nat.min (st.acc[i].toNat + ((rows[i.val]?).map (·.age)).getD 0 + 1) 255)
      else st.acc[i]) }

/-! ## Gangs (R21, R260) -/

/-- The number of a gang: that of its lowest bolt. -/
def gangNumber (bolts : List Nat) : Nat := bolts.foldl Nat.min 40

/-- Puts a gang into a list that rises by gang number. -/
def insertGang (x : List Nat × Launch) : List (List Nat × Launch) → List (List Nat × Launch)
  | [] => [x]
  | y :: r => if gangNumber x.1 < gangNumber y.1 then x :: y :: r else y :: insertGang x r

/-- The gangs of a stage's armed launches, in ascending gang number; a parked launch stays armed (R313). -/
def Partition.stageGangs (p : Partition) (panel stage : Nat) : List (List Nat × Launch) :=
  let ls := p.launches.filter (fun l => l.panel == panel && l.stage == stage)
  (ls.flatMap (fun l => l.gangs.map (fun g => (g, l)))).foldl (fun acc x => insertGang x acc) []

/-- Whether a gang is free: its launch, which is neither parked nor asked to park, is open, and its previous pick has retired (R260;
DEDUCED, log 35). -/
def State.gangFree (s : State) (p : Partition) (x : List Nat × Launch) : Bool :=
  (s.counter p x.2.counter).state == 0 && !x.2.parked && !x.2.preempting
  && !p.picks.any (fun k => gangNumber k.gang == gangNumber x.1) && !p.held && !p.resetting

/-- The free gangs of a stage. -/
def State.freeGangs (s : State) (p : Partition) (panel stage : Nat) : List (List Nat × Launch) :=
  (p.stageGangs panel stage).filter (s.gangFree p)

/-! ## Starting a pick (R268, R270) -/

/-- Bytes that no rule gives. -/
def State.freeBytes (s : State) (n : Nat) : State × List Byte :=
  ({ s with freeIdx := s.freeIdx + n }, (List.range n).map (fun i => Config.freeByte (s.freeIdx + i)))

/-- The 128 bytes of a descriptor at a head line; a line that cannot be read gives bytes that no rule fixes (DESIGN CHOICE, log 28). -/
def State.descriptorAt (s : State) (p : Partition) (va : Nat) : State × Nat :=
  match s.readVa p va 128 with
  | some bs => (s, leNat bs)
  | none => let (s, bs) := s.freeBytes 128; (s, leNat bs)

/-- The prefetches of a row for a tag. -/
def prefetches (peer panel stage : Nat) (r : Row) (tag : W32) (pick : Nat) (next : Bool) : List StashOp :=
  (List.range r.pfcount).map (fun i =>
    { id := 0, kind := 2, panel := panel, stage := stage, tag := tag, tensor := BitVec.ofNat 12 (r.pfbase + i), peer := peer,
      pick := some pick, next := next })

/-- The looms of a gang, ascending. -/
def gangLooms (bolts : List Nat) : List Nat :=
  (List.range 320).filter (fun l => bolts.contains (l / 8))

/-- The WVER of a pick and the stage after it: F pins the current version, B and W use the pin, E has its descriptor's. -/
def Stage.versionFor (st : Stage) (pass : Nat) (tag : W32) (owver : W64) : Option (Stage × W64) :=
  match pass with
  | 0 => st.pin tag
  | 1 | 2 => (st.pinOf tag).map (fun i => (st, st.wver (Fin.ofNat 4 i)))
  | _ => some (st, owver)

/-- Starts a pick on a free gang: the entry at a place of a queue is taken, and the gang starts once its prefetches have counted
(R268, R270). None if its version or a counter is lacking (DEDUCED, log 98). -/
def State.startPick (s : State) (peer : Nat) (p : Partition) (panel stage : Nat) (r : Row) (i : Nat) (g : List Nat × Launch) :
    Option State :=
  let st := s.stage panel stage
  match st.queues[r.queue][i]?, s.freeCounter p with
  | some a, some idx =>
    let head := a.payload.toNat % 2 ^ 48
    let (s, d) := if r.pass = 3 then s.descriptorAt p head else (s, 0)
    let d := SuspDesc.ofNat d
    match (st.take r.queue i).versionFor r.pass a.tag d.owver with
    | none => none
    | some (st, wver) =>
      let rec' := if r.pass = 3 then s.evals.find? (fun (e : EvalRec) => e.headVa == head && e.peer == peer && !e.posting
        && e.place == 2 && !e.filled && !p.picks.any (fun k => k.evalHead == some e.head)) else none
      let looms := gangLooms g.1
      let id := p.nextPick
      let ahead := if r.pfon && r.pfnext then (st.choose r.queue r.pass r.select).bind (fun j => (st.queues[r.queue])[j]?) else none
      let ops := if r.pfon then prefetches peer panel stage r a.tag id false else []
      let more := match ahead with | some x => prefetches peer panel stage r x.tag id true | none => []
      let k : Pick :=
        { id := id, launch := g.2.counter, panel := panel, stage := stage, gang := g.1, looms := looms, tag := a.tag,
          pass := BitVec.ofNat 2 r.pass, wver := wver, counter := idx, entry := (entryOf p.plane panel stage r.pass).getD 0,
          a123 := if r.pass = 3 then (d.arg.toNat, a.payload.toNat, d.extent) else (0, 0, 0), fired := a.fired,
          plane := p.planeNo, evalHead := rec'.map (·.head), evalSid := (rec'.map (·.sid)).getD 0,
          evalChain := (rec'.map (·.chain)).getD [] }
      let s := s.setStage panel stage { st with stallNoted := false, due := false }
      let s := s.newCounter peer idx 0 looms.length g.2.counter
      let s := s.modPart peer (fun p => { p with picks := p.picks ++ [k], nextPick := id + 1 })
      some ((ops ++ more).foldl State.acceptStash s)
  | _, _ => none

/-- The rows that a decision regards: in determinate mode those of E picks alone (R287). -/
def Partition.decisionRows (p : Partition) (panel stage : Nat) : List Row :=
  (List.range 32).map (fun i =>
    let r := planeRow p.plane panel stage i
    if p.determinate && r.pass != 3 then { r with valid := false } else r)

/-- TREADLE_DECISION (R266): with a free gang, after one of the events of R266 or while a row matches, the winning row's pick starts;
without a matching row nothing changes until the next event (DEDUCED, log 67). -/
def State.treadleDecision (s : State) (panel stage : Nat) : Option State :=
  (s.ownerOf panel).bind (fun peer => (s.part? peer).bind (fun p =>
    let st := s.stage panel stage
    let rows := p.decisionRows panel stage
    if !p.hasStage panel stage then none
    else
      match s.freeGangs p panel stage, st.bestRow rows with
      | [], _ => none
      | _, none =>
        if st.due then some (s.setStage panel stage { st with due := false, decisions := st.decisions + 1 }) else none
      | g :: _, some b =>
        (rows[b]?).bind (fun r =>
          let s := s.setStage panel stage { st.aged rows b with decisions := st.decisions + 1 }
          (st.choose r.queue r.pass r.select).bind (fun i => s.startPick peer p panel stage r i g))))

/-- TREADLE_DECISION. -/
def execTreadleDecision (panel stage : Nat) (s : State) := s.event (s.treadleDecision panel stage)

/-- The context of a loom at the start of a pick (R25 to R29, R41). -/
def Pick.context (k : Pick) (peer : Nat) (slip : Nat) (c : Ctx) (rank : Nat) : Ctx :=
  let gangid := k.panel * 2 ^ 40 + k.stage * 2 ^ 32 + gangNumber k.gang * 2 ^ 16 + rank
  let f := c.fresh peer k.entry
  { f with a := ((f.a.set 1 (BitVec.ofNat 64 k.a123.1)).set 2 (BitVec.ofNat 64 k.a123.2.1)).set 3 (BitVec.ofNat 64 k.a123.2.2),
           picktag := k.tag.setWidth 64, pass := k.pass.setWidth 64, wver := k.wver, gangid := BitVec.ofNat 64 gangid,
           slipw := BitVec.ofNat 8 slip, pick := some k.id, plane := k.plane }

/-- Whether a prefetch holds back the start of the pick that it serves (R270): its entry is kept, compressed or spilled, or an earlier
command on its key has yet to say. -/
def State.prefetchHolds (s : State) (o : StashOp) : Bool :=
  !o.next && (match s.stashEntry o with
    | some e => e.policy != 3
    | none => s.stashOps.any (fun (x : StashOp) => Nat.blt x.id o.id && x.panel == o.panel && x.stage == o.stage && x.tag == o.tag
        && x.tensor == o.tensor))

/-- What a loom of a gang observes as it begins a pick (R268): the bytes that the firing behind the pick's arrival counted, and every
line where the arrival or the publication of the version, if the loom sees it for the first time, stands behind a release
(R108, R273, R275; DEDUCED, log 96). -/
def State.observePick (s : State) (k : Pick) (loom : Nat) : State :=
  let st := s.stage k.panel k.stage
  let i := Fin.ofNat 4 (k.wver.extractLsb' 0 2).toNat
  let seen := if k.pass = 3 then none else st.slots[i].seenBy
  let s := match seen with
    | some ls => s.setStage k.panel k.stage { st with slots := st.slots.set i { st.slots[i] with seenBy := some (loom :: ls) } }
    | none => s
  if seen.any (fun ls => !ls.contains loom) then s.l1Clear loom
  else k.fired.elim (s.l1Clear loom) (s.l1DropRuns loom)

/-- GANG_START (R25): every loom of the gang begins the pick, after those that are to move to full service have moved (R325). -/
def State.gangStart (s : State) (peer pick : Nat) : Option State :=
  (s.part? peer).bind (fun p => (p.picks.find? (·.id == pick)).bind (fun k =>
    let waits := s.stashOps.any (fun (o : StashOp) => o.peer == peer && o.pick == some pick && s.prefetchHolds o)
    if k.started ∨ waits ∨ p.held ∨ !k.looms.all (fun l => (s.ctxAt l false).act == .idle) ∨ k.looms.any s.moveDue then none
    else
      let slip := p.stageWord k.plane k.panel k.stage 0x1D5 1
      let s := k.looms.zipIdx.foldl (fun s x =>
        (s.setCtxAt x.1 false (k.context peer slip (s.ctxAt x.1 false) x.2)).observePick k x.1) s
      some (s.modPart peer (fun p => { p with picks := p.picks.map (fun x =>
        if x.id = pick then { x with started := true } else x) }))))

/-- GANG_START. -/
def execGangStart (peer pick : Nat) (s : State) := s.event (s.gangStart peer pick)

/-! ## The replay sequence (R286, R287) -/

/-- What a slot of the model does before its decision: arrivals and unpins of the pick taken in the slot before. -/
def Stage.replayEffects (st : Stage) (unpinAt : Nat) (last : Option (W32 × Nat)) : Stage :=
  let post (q : Fin 4) (tag : W32) (st : Stage) : Stage :=
    { st with queues := st.queues.set q (st.queues[q] ++ [{ tag := tag, queue := q.val, source := 0 }]) }
  match last with
  | none => st
  | some (tag, pass) =>
    match pass with
    | 0 => post 1 tag st
    | 1 => post 2 tag (if unpinAt = 1 then st.unpin tag else st)
    | 2 => st.unpin tag
    | _ => st

/-- The replay sequence: tags with the row that takes each, until NPICK entries or a slot in which no row matches. -/
def replayFrom (rows : List Row) (unpinAt : Nat) : (fuel : Nat) → Stage → Option (W32 × Nat) → List (W32 × Nat)
  | 0, _, _ => []
  | fuel + 1, st, last =>
    let st := st.replayEffects unpinAt last
    match st.bestRow rows with
    | none => []
    | some b =>
      match rows[b]? with
      | none => []
      | some r =>
        match (st.choose r.queue r.pass r.select).bind (fun i => (st.queues[r.queue])[i]?.map (fun a => (i, a.tag))) with
        | none => []
        | some (i, tag) =>
          let st := (st.aged rows b).take r.queue i
          let st := if r.pass = 0 then ((st.pin tag).map (·.1)).getD st else st
          (tag, b) :: replayFrom rows unpinAt fuel st (some (tag, r.pass))

/-- The replay sequence of a stage, derived at an arming. -/
def Partition.replay (p : Partition) (panel stage : Nat) : List (W32 × Nat) :=
  let tag0 := p.param panel stage 0x40 4
  let fs := (List.range (p.param panel stage 0x44 4)).map (fun i =>
    ({ tag := BitVec.ofNat 32 (tag0 + i), queue := 0, source := 0 } : Arrival))
  let st : Stage := { queues := (Vector.replicate 4 []).set 0 fs, slots := (Vector.replicate 4 {}).set 0 { state := 1 } }
  replayFrom ((List.range 32).map (planeRow p.plane panel stage)) (p.param panel stage 0x34 1) (p.param panel stage 0x30 4) st none

/-- What the arming of a launch does to its stage (R262, R266, R271, R286). -/
def State.armStage (s : State) (p : Partition) (panel stage : Nat) : State :=
  let st := s.stage panel stage
  let st := if st.armedBefore then st else
    { st with armedBefore := true, acc := Vector.replicate 32 0,
              rings := st.rings.map (fun r => { r with head := 0, tail := 0 }),
              slots := if st.slots.toList.all (·.state == 0) then
                  st.slots.set 0 { state := 1, version := BitVec.ofNat 32 (p.param panel stage 0x3C 4), pins := 0 }
                else st.slots }
  let st := if p.determinate then { st with replay := p.replay panel stage, replayPos := 0 } else st
  s.setStage panel stage { st with due := true }

/-- REPLAY_ENTRY_START (R287): the next entry of the sequence starts on its gang once that is free and an arrival of its tag is
present (DEDUCED, log 91). -/
def State.replayStart (s : State) (panel stage : Nat) : Option State :=
  (s.ownerOf panel).bind (fun peer => (s.part? peer).bind (fun p =>
    let st := s.stage panel stage
    let gangs := p.stageGangs panel stage
    match st.replay[st.replayPos]?, gangs[st.replayPos % gangs.length]? with
    | some (tag, row), some g =>
      let r := planeRow p.plane panel stage row
      if !p.determinate ∨ !s.gangFree p g then none
      else
        let i := ((st.queues[r.queue].take 64).zipIdx.find? (fun x => x.1.tag == tag)).map (·.2)
        i.bind (fun i =>
          let s := s.setStage panel stage { st with replayPos := st.replayPos + 1, decisions := st.decisions + 1 }
          s.startPick peer p panel stage r i g)
    | _, _ => none))

/-- REPLAY_ENTRY_START. -/
def execReplayEntryStart (panel stage : Nat) (s : State) := s.event (s.replayStart panel stage)

/-! ## Information and stalls (R278, R405) -/

/-- The word of TRD.INFO for a selector (DEDUCED, log 92). -/
def State.infoWord (s : State) (p : Partition) (panel stage sel : Nat) : Nat :=
  let st := s.stage panel stage
  match sel with
  | 0 => ((List.finRange 4).map (fun q => st.depth q % 65536 * 2 ^ (16 * q.val))).sum
  | 1 =>
    let run := (p.picks.filter (fun k => k.panel == panel && k.stage == stage && k.started)).length
    st.pins.length % 65536 + run % 256 * 65536 + st.decisions.toNat * 2 ^ 32
  | 2 => ((st.current.map st.wver).getD 0xFFFFFFFFFFFFFFFF).toNat
  | _ => planeLE p.plane 0 8

/-- Whether no decision of a stage can start a pick: no row matches, and in determinate mode no arrival has the tag of the sequence
entry that is next (R266, R287, R405). -/
def State.nothingMatches (s : State) (p : Partition) (panel stage : Nat) : Bool :=
  let st := s.stage panel stage
  (st.bestRow (p.decisionRows panel stage)).isNone
  && (!p.determinate || !(st.replay[st.replayPos]?).any (fun x =>
    ((st.queues[(planeRow p.plane panel stage x.2).queue]).take 64).any (fun a => a.tag == x.1)))

/-- LIFTSTALL (R266, R405): a stage with a free gang and arrivals, of which no row takes one, writes one record for its stall
(DEDUCED, log 93). -/
def State.liftStall (s : State) (panel stage : Nat) : Option State :=
  (s.ownerOf panel).bind (fun peer => (s.part? peer).bind (fun p =>
    let st := s.stage panel stage
    let waits := (List.finRange 4).any (fun q => st.depth q != 0)
    if p.param panel stage 0x38 4 = 0 ∨ (s.freeGangs p panel stage).isEmpty ∨ !waits ∨ st.stallNoted ∨ !s.nothingMatches p panel stage
    then none
    else
      some ((s.setStage panel stage { st with stallNoted := true }).treadleRecord peer panel 4
        (s.infoWord p panel stage 0) (s.infoWord p panel stage 1))))

/-- LIFTSTALL. -/
def execLiftstall (panel stage : Nat) (s : State) := s.event (s.liftStall panel stage)

/-! ## The TRD instructions (R274 to R280) -/

/-- A .D release at issue: the writes of the context that it covers are performed first. -/
def Ctx.released (c : Ctx) : Act Unit := check (!c.waitsOn (c.covers 0 0 2)) (.wait .release)

/-- The partition of a context, which must have a stage. -/
def State.stageOf (s : State) (c : Ctx) (panel stage : Nat) (o : W64) : Act Partition :=
  match s.part? c.peer with
  | some p => if p.hasStage panel stage then .ok p else .error (operandFault o)
  | none => .error (operandFault o)

/-- A value returned to a register with the latency of the Treadle. -/
def State.trdReturn (s : State) (t : Tok) (c : Ctx) (ra : BitVec 6) (st : BitVec 4) (v : W64) : Act State :=
  s.issueAccess t c { id := 0, kind := .value v, stream := st, spans := [], dest := .reg ra, len := 8 } none 384

/-- TRD.ARRIVE: it waits at issue while its queue cannot take the arrival (R403) (DEDUCED, log 70). -/
def execTrdArrive (t : Tok) (ra : BitVec 6) (_st : BitVec 4) (s : State) :=
  s.command t (fun c => do
    let o ← c.rdA ra
    let (panel, stage, a) := arrivalOf o 1
    let p ← s.stageOf c panel stage o
    check (p.arrivalOk o) (operandFault o)
    check (o.extractLsb' 53 8 == 0) (operandFault o)
    c.released
    let q : Fin 4 := Fin.ofNat 4 a.queue
    check ((s.stage panel stage).heldArr[q] == []) (.wait (.room o))
    match (s.setCtx (c.postNow .A t)).enqueue c.peer panel stage a with
    | (s, true) => return s
    | (_, false) => .error (.wait (.room o)))

/-- TRD.VPIN: publishes, which a .D release precedes, or pins. -/
def execTrdVpin (t : Tok) (ra rb : BitVec 6) (st : BitVec 4) (publish named : BitVec 1) (panel : BitVec 3) (stage : BitVec 8)
    (s : State) :=
  s.command t (fun c => do
    let x ← c.rdA rb
    let (pn, sg) := if named = 1 then (panel.toNat, stage.toNat) else (c.stagePanel, c.stageIdx)
    let _ ← s.stageOf c pn sg x
    let stg := s.stage pn sg
    let v := x.setWidth 32
    if publish = 1 then do
      c.released
      match stg.publish v with
      | some (stg, w) => (s.setStage pn sg stg).trdReturn t c ra st w
      | none => (s.treadleRecord c.peer pn 5 (stageWord pn sg 0) v.toNat).trdReturn t c ra st 0xFFFFFFFFFFFFFFFF
    else
      match stg.pin v with
      | some (stg, w) => (s.setStage pn sg stg).trdReturn t c ra st w
      | none => s.trdReturn t c ra st 0xFFFFFFFFFFFFFFFF)

/-- TRD.VUNPIN. -/
def execTrdVunpin (t : Tok) (rb : BitVec 6) (_st : BitVec 4) (s : State) :=
  s.command t (fun c => do
    let x ← c.rdA rb
    let _ ← s.stageOf c c.stagePanel c.stageIdx x
    return (s.setCtx (c.postNow .A t)).setStage c.stagePanel c.stageIdx ((s.stage c.stagePanel c.stageIdx).unpin (x.setWidth 32)))

/-- TRD.INFO. -/
def execTrdInfo (t : Tok) (ra rb : BitVec 6) (st : BitVec 4) (s : State) :=
  s.command t (fun c => do
    let x ← c.rdA rb
    check (Nat.blt x.toNat 4) (operandFault x)
    let p ← s.stageOf c c.stagePanel c.stageIdx x
    s.trdReturn t c ra st (BitVec.ofNat 64 (s.infoWord p c.stagePanel c.stageIdx x.toNat)))

/-- TRD.DIFF: the image waits at the Treadles in arrival order. -/
def execTrdDiff (t : Tok) (rb : BitVec 6) (_st : BitVec 4) (ab : BitVec 6) (s : State) :=
  s.command t (fun c => do
    let a ← c.rdA rb
    let bar ← c.rdA ab
    check (match place a with | some (.virt va) => va % 8 == 0 | _ => false) (operandFault a)
    let barrier ← s.objectBarrier c 0x3D ab bar
    c.released
    return (s.setCtx (c.postNow .A t)).modPart c.peer (fun p =>
      { p with diffs := p.diffs ++ [{ image := a.toNat, barrier := barrier }] }))

/-- TRD.CANCEL. -/
def execTrdCancel (t : Tok) (ra rb : BitVec 6) (_st : BitVec 4) (s : State) :=
  s.command t (fun c => do
    let a ← c.rdA ra
    let lv ← c.rdA rb
    check (lv.extractLsb' 3 61 == 0) (operandFault lv)
    match place a, s.part? c.peer with
    | some (.virt va), some p =>
      match s.translate s.cur.who c.peer va with
      | .error (.wait w) => .error (.wait w)
      | .error (.fault _) => .error (operandFault a)
      | .ok e => do
        let pa := e.pa + (va - e.va)
        match p.counterAt pa 1 with
        | none => .error (operandFault a)
        | some i => do
          check (pa % 16 == 0 && p.counters.contains i) (operandFault a)
          check ((s.counter p i).level == lv.toNat) (operandFault lv)
          return (s.setCtx (c.postNow .A t)).cancelCounter c.peer 6 i
    | _, _ => .error (operandFault a))

/-! ## Configuration planes (R281 to R285, R407) -/

/-- Whether every byte of a range is zero. -/
def zeroBytes (bs : List Byte) (off n : Nat) : Bool := ((bs.drop off).take n).all (· == 0)

/-- Whether the block of a stage keeps R264 and its reserved fields are zero (R2, R269, R282). -/
def blockOk (plane : List Byte) (panel stage : Nat) : Bool :=
  let base := stageBlock panel stage
  (List.range 32).all (fun i => (planeRow plane panel stage i).ok plane panel stage)
  && (List.range 4).all (fun i => planeLE plane (base + 0x180 + 8 * i) 1 / 2 % 16 == 0)
  && zeroBytes plane (base + 0x1A0 + 0x36) 2 && zeroBytes plane (base + 0x1A0 + 0x48) 0x18

/-- Whether a plane is well formed: SIZE, reserved fields and rows. -/
def planeOk (plane : List Byte) : Bool :=
  plane.length == 0x7100 && planeLE plane 8 4 == 0x7100 && zeroBytes plane 0xC 0xF4
  && (List.range 256).all (fun i => planeLE plane (0x100 + 32 * i + 24) 1 / 8 == 0 && zeroBytes plane (0x100 + 32 * i + 25) 7)
  && (List.range 40).all (fun i => blockOk plane (i / 5) (i % 5))

/-- Writes the runs of a difference image over a plane; none if they break R284 (DEDUCED, log 94). -/
def applyRuns (s : State) (p : Partition) : (n va from' : Nat) → List Byte → Option (List Byte)
  | 0, _, _, bs => some bs
  | n + 1, va, from', bs =>
    match s.readVa p va 8 with
    | none => none
    | some h =>
      let off := leNat (h.take 4)
      let len := leNat (h.drop 4)
      if off = 0 ∨ off % 8 ≠ 0 ∨ len = 0 ∨ len % 8 ≠ 0 ∨ off < from' ∨ off < 0x100 ∨ 0x7100 < off + len then none
      else
        match s.readVa p (va + 8) len with
        | none => none
        | some data => applyRuns s p n (va + 8 + len) (off + len) (putBytes bs off data)

/-- The outcome of building a shadow: STATUS 3 or 4 where it fails, as it then does at every Treadle, and the shadow. -/
def State.buildShadow (s : State) (p : Partition) (image : Nat) : Option Nat × List Byte :=
  match s.readVa p image 32 with
  | none => (some 4, [])
  | some h =>
    let f (off n : Nat) : Nat := leNat ((h.drop off).take n)
    if f 14 2 ≠ 0 ∨ f 24 8 ≠ 0 ∨ f 16 8 ≠ 0 then (some 4, [])
    else
      match applyRuns s p (f 12 2) (image + 32) 0x100 p.plane with
      | none => (some 4, [])
      | some bs =>
        let bs := putBytes bs 0 (leBytes 4 (f 8 4))
        let crc := planeCrc bs
        let bs := putBytes bs 4 (leBytes 4 crc)
        (if crc ≠ f 4 4 then some 3 else if !planeOk bs then some 4 else none, bs)

/-- The end of a difference: STATUS, a record unless it was applied, with the panel of the Treadle that failed, and 8 bytes counted
(R279, R407). -/
def State.endDiff (s : State) (peer : Nat) (d : Diff) (status crc panel : Nat) : State :=
  match s.part? peer with
  | none => s
  | some p =>
    let s := s.setPart peer { p with diffs := p.diffs.drop 1, diffing := false, shadow := [], rollBack := none }
    let s := s.writeVa p (d.image + 16) (leBytes 8 status)
    let s := if status = 1 then s else s.treadleRecord peer panel 6 status (crc + panel * 2 ^ 32)
    match s.countFor peer d.barrier 8 0 with
    | (s, some f) => s.unitRecord peer (treadleUnit p.lowPanel) f
    | (s, none) => s

/-- The stages of a partition. -/
def Partition.stages (p : Partition) : List (Nat × Nat) :=
  ((List.range 8).filter (fun i => p.panels.getLsbD i)).flatMap (fun i => (List.range 5).map (fun j => (i, j)))

/-- Makes a plane resident: rows whose content changes lose their age, every stage may decide again, and the binding table follows,
which the L1s of the partition observe (R100, R266, R285). -/
def State.switchPlane (s : State) (peer : Nat) (p : Partition) (bs : List Byte) : State :=
  let s := s.setPart peer { p with plane := bs, planeNo := p.planeNo + 1, oldPlanes := [(p.planeNo, p.plane)] }
  let s := p.stages.foldl (fun s x =>
    let st := s.stage x.1 x.2
    let row (pl : List Byte) (i : Nat) : Nat := planeLE pl (stageBlock x.1 x.2 + 8 * i) 8
    s.setStage x.1 x.2 { st with due := true, acc := Vector.ofFn (fun i : Fin 32 =>
      if row bs i.val = row p.plane i.val then st.acc[i] else 0) }) s
  (List.range 320).foldl (fun s l => if p.panels.getLsbD (panelOf l) then s.l1Clear l else s) s

/-- PLANE_SWITCH (R285): the first difference is checked and its shadow built; then all Treadles switch in one update once no pick
uses the plane before, or every shadow is discarded. -/
def State.planeSwitch (s : State) (peer : Nat) : Option State :=
  (s.part? peer).bind (fun p =>
    match p.diffs with
    | [] => none
    | d :: _ =>
      if !p.diffing then
        let crc := planeLE p.plane 4 4
        match (s.readVa p d.image 4).map leNat with
        | some b =>
          if b ≠ crc then some (s.endDiff peer d 2 crc p.lowPanel)
          else
            let (bad, bs) := s.buildShadow p d.image
            some (s.setPart peer { p with diffing := true, shadow := bs, rollBack := bad.map (fun n => (n, p.lowPanel)) })
        | none => some (s.setPart peer { p with diffing := true, shadow := [], rollBack := some (4, p.lowPanel) })
      else
        match p.rollBack with
        | some (n, panel) => some (s.endDiff peer d n (planeLE p.shadow 4 4) panel)
        | none =>
          if p.picks.any (fun k => k.plane != p.planeNo) then none
          else some ((s.switchPlane peer p p.shadow).endDiff peer d 1 0 p.lowPanel))

/-- PLANE_SWITCH. -/
def execPlaneSwitch (peer : Nat) (s : State) := s.event (s.planeSwitch peer)

/-- A word of a resident plane is found uncorrectable (R408): another Treadle's copy repairs it, or the job is cancelled. -/
def State.planeError (s : State) (panel off : Nat) : State :=
  match s.ownerOf panel with
  | none => s
  | some peer =>
    let f : FaultInfo := { cls := 0x21, cause := 7, d0 := panel, d1 := off, precise := false }
    match s.part? peer with
    | none => s
    | some p =>
      if (List.range 8).any (fun i => i != panel && p.panels.getLsbD i) then s.unitRecord peer (treadleUnit panel) f
      else s.jobRecord peer (treadleUnit panel) f

end Sys2Proof.Machine
end

