-- ==== Sys2Proof/Machine/Retire.lean ====
section
/-!
DEFINITION. The end of a loom's part of a pick, and of an evaluation (R46, R47, R356, R358, R360, R380), and the limit of a
pre-emption (R312).
-/

namespace Sys2Proof.Machine

/-- Whether a context's engines have come to the end of its pick or evaluation: both have executed PICK.END, or both stand at the
SAFEPT at which a cancel takes effect, with the context drained (R45, R46). -/
def Ctx.reachedEnd (c : Ctx) : Bool :=
  c.act == .running && ((c.ea.ended && c.ex.ended)
    || (c.req.any (fun r => !r.preempt) && c.ea.stoppedSafept && c.ex.stoppedSafept && !c.ea.inLine && !c.ex.inLine && c.drained))

/-- Whether the work that a context has queued is executed (R46, conditions 2 to 5): copies, tile tasks, writes, and the bobbin
actions of firings that its writes caused (DEDUCED, log 36). -/
def State.workDone (s : State) (loom : Nat) (ev : Bool) : Bool :=
  let c := s.ctxAt loom ev
  c.copies.isEmpty && c.accOps.isEmpty
  && !(s.bolt (boltOf loom)).recs.any (fun t => t.loom == loom && t.ev == ev && t.peer == c.peer && t.handle.isNone)
  && !c.accs.any (·.kind.writes)
  && !s.bobbins.any (fun b => b.2.held != 0 && b.2.heldBy.contains (loom, ev))

/-- The entry counts of RESIDUE (R360). -/
def Ctx.residue (c : Ctx) : Nat :=
  let n (l : List QEntry) : Nat := l.length
  ((c.lq.toList.zipIdx.map (fun x => n x.1 * 16 ^ x.2)).sum) + ((c.sq.toList.zipIdx.map (fun x => n x.1 * 2 ^ (16 + 4 * x.2))).sum)
    + c.bq.length * 2 ^ 24 + c.tokAX * 2 ^ 32 + c.tokXA * 2 ^ 48

/-- A context goes idle: what it had outstanding and wrote nothing is given up. -/
def State.idleCtx (s : State) (loom : Nat) (ev : Bool) : State :=
  let c := s.ctxAt loom ev
  let s := { s with waiters := s.waiters.filter (fun w => !(w.loom == loom && w.ev == ev && (match w.who with
                      | .acc _ | .copy _ => true | _ => false))),
                    requests := s.requests.filter (fun r => !(r.loom == loom && r.ev == ev && (match r.owner with
                      | .acc .. => true | _ => false))) }
  s.setCtxAt loom ev { c with act := .idle, pick := none, eval := none, req := none, stop := none, more := [], accs := [], outs := [],
                              inFlight := [], fences := [], rels := [], seen := [], operands := [], barWait := none, yielding := none,
                              faulted := false, cancelled := false, cmds := [], pickFlags := 0 }

/-- A loom's part of a pick retires as a child of the pick counter (R23, R46). -/
def State.retireLoom (s : State) (loom : Nat) : State :=
  let c := s.ctxAt loom false
  let s := s.idleCtx loom false
  match s.part? c.peer, c.pick with
  | some p, some id =>
    match p.picks.find? (·.id == id) with
    | some k =>
      let p := { p with picks := p.picks.map (fun x => if x.id = id then { x with retired := x.retired ++ [loom] } else x) }
      (s.setPart c.peer p).retireChild c.peer 6 k.counter c.faulted c.cancelled c.pickFlags
    | none => s
  | _, _ => s

/-- The next evaluation of a loom's queue starts as soon as one has ended, and the pick context first keeps priority for 256 lines in
each engine (R42). -/
def State.nextEvaluation (s : State) (loom : Nat) : State :=
  match s.evaluationStart loom with
  | some t => t.setLoom loom { t.loom loom with shareA := 256, shareX := 256 }
  | none => s

/-- An evaluation ends; a region with a line that it has not filled fails (R41, R380) (DEDUCED, log 77). -/
def State.retireEval (s : State) (loom : Nat) : State :=
  let c := s.ctxAt loom true
  let s := s.idleCtx loom true
  ({ s with evals := s.evals.map (fun (r : EvalRec) =>
      if c.eval.any (fun (e : Evaluation) => e.head == r.head && e.sid == r.sid) ∧ !r.filled ∧ r.failing = 0 then { r with failing := 2 } else r)
   }).nextEvaluation loom

/-- RESIDUE, the asynchronous fault of PICK.END (R47, R341, R346, R360; DEDUCED, log 138). -/
def State.raiseResidue (s : State) (loom : Nat) (ev : Bool) : State :=
  let c := s.ctxAt loom ev
  s.raiseAsync loom ev { cls := 5, cause := 2, addr := c.ea.pc.toNat, d0 := c.ea.lane + c.ea.word.toNat * 2 ^ 32, d1 := c.residue,
                         line := c.ea.pc.toNat, lane := c.ea.lane }

/-- LOOM_PICK_RETIRE (R46, R47): once the queued work is executed, a context with entries left in a queue raises RESIDUE; another one
retires. A context that an unhandled fault has stopped retires with FAULTED (R356). -/
def State.loomRetire (s : State) (loom : Nat) (ev : Bool) : Option State :=
  let c := s.ctxAt loom ev
  if !(c.reachedEnd || c.act == .draining) ∨ !s.workDone loom ev then none
  else if c.act = .running ∧ c.ea.ended ∧ c.ex.ended ∧ c.queuesHold then
    some (s.raiseResidue loom ev)
  else some (if ev then s.retireEval loom else s.retireLoom loom)

/-- LOOM_PICK_RETIRE. -/
def execLoomPickRetire (loom : Nat) (ev : Bool) (s : State) := s.event (s.loomRetire loom ev)

/-! ## Pre-emption of a launch (R45, R312) -/

/-- A pre-emption request reaches a loom; it ends a YIELD at once (R45, R307). -/
def Ctx.requestPreempt (c : Ctx) : Ctx :=
  { c with req := some (c.req.getD { preempt := true, k := Nat.max c.ea.safepts c.ex.safepts + 1 }),
           yielding := c.yielding.map (fun _ => true) }

/-- Replaces a launch. -/
def Partition.modLaunch (p : Partition) (counter : Nat) (f : Launch → Launch) : Partition :=
  { p with launches := p.launches.map (fun l => if l.counter = counter then f l else l) }

/-- The picks of a launch that run. -/
def Partition.running (p : Partition) (launch : Nat) : List Pick := p.picks.filter (fun k => k.launch == launch && k.started)

/-- A pre-emption ends as soon as every loom of the launch's running picks has parked: the launch is parked and the host learns it;
with an unhandled fault the command reports 5. A launch that is no more, or that a cancel has taken, reports 1, or 0 where all of its
picks ended (DEDUCED, log 97). -/
def State.settlePreempt (s : State) (peer : Nat) (x : Nat × HostReq × Bool) : State :=
  match s.part? peer with
  | none => s
  | some p =>
    let drop (p : Partition) : Partition := { p with preempts := p.preempts.filter (fun (y : Nat × HostReq × Bool) => y != x) }
    let open' := (s.counter p x.1).state == 0
    let rest := (p.running x.1).any (fun k => k.looms.any (fun l => !k.parked.contains l && !k.retired.contains l))
    if open' && rest then s
    else
      let status := if x.2.2 then 5 else if open' || (s.counter p x.1).state == 1 then 0 else 1
      let s := s.setPart peer (drop (p.modLaunch x.1 (fun l => { l with parked := open', preempting := false })))
      s.reply peer 4 9 x.2.1 status

/-- Ends every pre-emption that has come to its end (DEDUCED, log 95). -/
def State.settlePreempts (s : State) : State :=
  s.parts.foldl (fun s x => x.2.preempts.foldl (fun s y => s.settlePreempt x.1 y) s) s

/-- A parked loom reloads its area and goes on, or raises the context fault of the check that fails (R312, R352). -/
def State.reload (s : State) (loom : Nat) : State :=
  match s.unpark loom with
  | .ok s => s
  | .error n =>
    let f : FaultInfo := { cls := 7, cause := 2, d1 := n, bare := true }
    let c := s.ctxAt loom false
    (s.setCtxAt loom false { c with act := .running }).raiseSequencer loom false f

/-- PREEMPT_LIMIT (R312): the limit expires while a loom has not parked; looms that have parked reload and the picks go on; the
command reports 4. -/
def State.preemptLimit (s : State) (peer launch : Nat) : Option State :=
  (s.part? peer).bind (fun p =>
    (p.preempts.find? (fun (x : Nat × HostReq × Bool) => x.1 == launch)).map (fun x =>
      let looms := (p.running launch).flatMap (·.looms)
      let s := looms.foldl (fun s l =>
        let c := s.ctxAt l false
        if c.act = .parked then s.reload l
        else if c.req.any (·.preempt) then
          s.setCtxAt l false { c with req := none, ea := { c.ea with stoppedSafept := false }, ex := { c.ex with stoppedSafept := false } }
        else s) s
      let s := s.modPart peer (fun p =>
        { p.modLaunch launch (fun l => { l with preempting := false }) with
          preempts := p.preempts.filter (fun (y : Nat × HostReq × Bool) => y != x),
          picks := p.picks.map (fun k => if k.launch = launch then { k with parked := [] } else k) })
      s.reply peer 4 9 x.2.1 4))

/-- PREEMPT_LIMIT. -/
def execPreemptLimit (peer launch : Nat) (s : State) := s.event (s.preemptLimit peer launch)

end Sys2Proof.Machine
end

