-- ==== Sys2Proof/Machine/Channel.lean ====
section
/-!
DEFINITION. Tensor channels (R204, R205, R296, R402, R403): the three instructions, and the window that goes back to a sender.
-/

namespace Sys2Proof.Machine

/-- The unit of a port (R336). -/
def portUnit (q : Nat) : Nat := 8 * 512 + q

/-! ## Windows (R296, R402, R403) -/

/-- A send channel takes a cumulative count F. One that is not higher than those before changes nothing; one that would raise the
window above the ring is a violation, recorded by the port that received it (DEDUCED, log 110). -/
def State.raiseWindow (s : State) (peer ch f : Nat) (port : Option Nat) : State :=
  match s.part? peer with
  | none => s
  | some p =>
    let t : SendCh := SMap.getD p.sendCh ch {}
    let d := (f + 2 ^ 64 - t.freed % 2 ^ 64) % 2 ^ 64
    if 2 ^ 63 ≤ d then s
    else if t.sent < t.freed + d then
      match port with
      | some q => s.unitRecord peer (portUnit q) { cls := 0x20, cause := 7, d0 := ch, d1 := f, precise := false }
      | none => s
    else s.setPart peer { p with sendCh := SMap.set p.sendCh ch { t with freed := t.freed + d } }

/-- Whether a ring of the partition lies in the region of a bobbin whose arrival action names a stage with a full queue (R403). -/
def State.windowWithheld (s : State) (peer : Nat) (e : Channel) : Bool :=
  s.bobbins.any (fun x =>
    let b := x.2
    let (panel, stage, _) := arrivalOf (b.operand.setWidth 64) 0
    b.state != 0 && b.peer == peer && b.action == 2
    && overlapLen (b.regionVa % 2 ^ 48) ((b.extents.map (·.2)).sum) e.base (e.slots * e.slotSize) != 0
    && (List.finRange 4).any (fun q => !s.queueRoom peer panel stage q))

/-- Sends the WINDOW flit of a receive channel to its sender (R296). -/
def State.sendWindow (s : State) (peer ch : Nat) : State :=
  match s.part? peer with
  | none => s
  | some p =>
    match p.fabric.bind (fun f => (f.recv[ch]?).bind (fun e => (f.members[e.index]?).map (fun m => (e, m)))) with
    | none => s
    | some (e, m) =>
      let r : RecvCh := SMap.getD p.recvCh ch {}
      let s := s.setPart peer { p with recvCh := SMap.set p.recvCh ch { r with owed := false } }
      if m.peer = peer then s.raiseWindow peer e.far (r.freed % 2 ^ 64) none
      else
        match s.route peer false e.index with
        | none => s
        | some q => s.sendFlit q kWindow
            { noFlit with speer := BitVec.ofNat 12 peer, dpeer := BitVec.ofNat 12 m.peer, addr := BitVec.ofNat 48 e.far,
                          opa := BitVec.ofNat 64 r.freed }

/-- Sends a WINDOW flit that is due, unless it is withheld. -/
def State.giveWindow (s : State) (peer ch : Nat) : State :=
  match (s.part? peer).bind (fun p => p.fabric.bind (fun f => f.recv[ch]?)) with
  | none => s
  | some e => if s.windowWithheld peer e then s else s.sendWindow peer ch

/-- Sends the WINDOW flits that were withheld and may go. -/
def State.giveWindows (s : State) : State :=
  s.parts.foldl (fun s x =>
    if x.2.drain.isSome then s
    else (x.2.recvCh.filter (·.2.owed)).foldl (fun s y => s.giveWindow x.1 y.1) s) s

/-! ## The instructions (R205) -/

/-- A channel number (R204). -/
def channelNumber (x : W64) : Act Nat := do
  check (x.extractLsb' 6 58 == 0) (faultOf 9 1 0 x.toNat)
  return x.toNat

/-- UNREACHABLE at issue. -/
def unreachable (peer : Nat) : Stop := .fault { cls := 0x20, cause := 5, d0 := peer }

/-- A channel that the fabric table gives the partition, with its member; during a drain the instruction is held (R205, R298). -/
def State.channelEntry (s : State) (peer ch : Nat) (recv : Bool) : Act (Channel × Member) := do
  let p ← (match s.part? peer with | some p => .ok p | none => .error (unreachable 0))
  check p.drain.isNone (.wait .data)
  let found := p.fabric.bind (fun f => ((if recv then f.recv else f.send)[ch]?).bind (fun e =>
    if e.slots = 0 then none else (f.members[e.index]?).map (fun m => (e, m))))
  match found with
  | none => .error (unreachable 0)
  | some x => .ok x

/-- The channel's peer must be reachable at issue. -/
def State.channelReach (s : State) (peer : Nat) (m : Member) : Act Unit := check (s.reachable peer m.peer) (unreachable m.peer)

/-- The CHANNEL fault of R341. -/
def channelFault (ch : Nat) : Stop := faultOf 9 6 0 ch

/-- CH.SEND (R205): checked as a copy with a source and a completion barrier, and queued; the window is taken at the head of the
queue (DEDUCED, log 99) (DEDUCED, log 100). -/
def execChSend (t : Tok) (ra rb : BitVec 6) (st : BitVec 4) (aL ab : BitVec 6) (p1 p2 : BitVec 8) (s : State) :=
  s.command t (fun c => do
    let chv ← c.rdA ra
    let src ← c.rdA rb
    let n ← c.rdA aL
    let bar ← c.rdA ab
    let ch ← channelNumber chv
    let len := n.toNat % 2 ^ 32
    let (e, m) ← s.channelEntry c.peer ch false
    check (Nat.ble len e.slotSize) (channelFault ch)
    s.channelReach c.peer m
    multiple4 src src.toNat
    multiple4 src len
    barrierAligned bar
    let spss ← s.checkCommand s.cur.who s.cur.loom c.peer (⟨.copySrc, 0x38, 0, src, len⟩ :: barrierRun 0x38 ab bar)
    let ss := spss.headD []
    s.queueCopy t c false
      { id := 0, seq := none, kind := .send ch, stream := st, src := ss, dst := [], len := len,
        barrier := if ab = 0 then none else (spss.getD 1 []).head? }
      (namedBarrier ab bar) p1 p2 len (Nat.max (s.latencyOf c src ss) m.lat))

/-- CH.FREE (R205, R296): the oldest filled slots are freed, and their bytes go back to the sender. -/
def execChFree (t : Tok) (ra rb : BitVec 6) (st : BitVec 4) (s : State) :=
  s.command t (fun c => do
    let chv ← c.rdA ra
    let n ← c.rdA rb
    let ch ← channelNumber chv
    let (e, m) ← s.channelEntry c.peer ch true
    let r : RecvCh := (((s.part? c.peer).map (fun p => SMap.getD p.recvCh ch {}))).getD {}
    check (Nat.ble n.toNat r.filled.length) (channelFault ch)
    s.channelReach c.peer m
    c.fenceFree st
    let r := { r with filled := r.filled.drop n.toNat, freed := r.freed + n.toNat * e.slotSize, owed := true }
    let s := (s.setCtx (c.postNow .A t)).modPart c.peer (fun p => { p with recvCh := SMap.set p.recvCh ch r })
    return s.giveWindow c.peer ch)

/-- CH.WIN (R173, R205). -/
def execChWin (t : Tok) (ra rb : BitVec 6) (st : BitVec 4) (s : State) :=
  s.command t (fun c => do
    let chv ← c.rdA rb
    let ch ← channelNumber chv
    let (_, m) ← s.channelEntry c.peer ch false
    s.channelReach c.peer m
    let w := (((s.part? c.peer).bind (fun p => p.fabric.map (fun f => p.window f ch)))).getD 0
    s.issueAccess t c { id := 0, kind := .value (BitVec.ofNat 64 w), stream := st, spans := [], dest := .reg ra, len := 8 } none 96)

end Sys2Proof.Machine
end

