-- ==== Sys2Proof/Machine/Combine.lean ====
section
/-!
DEFINITION. The combining switches: an entry leaves its switch, and a reply is split by the decombining record or the record is lost
(R111, R166, R321, R388).
-/

namespace Sys2Proof.Machine

/-- The unit of a switch (R336). -/
def switchUnit (switch : Nat) : Nat := 13 * 512 + switch

/-- SUM of an entry (R166). -/
def Combining.sum (e : Combining) : W64 := (e.parts.map (·.addend)).foldl (· + ·) 0
/-- PMASK of an entry. -/
def Combining.mask (e : Combining) : Nat := (e.parts.map (fun p => 2 ^ p.port)).sum
/-- UNIFORM of an entry. -/
def Combining.uniform (e : Combining) : Bool := e.parts.all (fun p => p.addend == (e.parts.head?.map (·.addend)).getD 0)

/-- Takes an entry off its switch. -/
def State.dropEntry (s : State) (id : Nat) : State := { s with combining := s.combining.filter (·.id != id) }

/-- A request that a switch passes on alone goes on uncombined: a loom's to its place or its peer, and a peer's is performed. -/
def State.passOn (s : State) (p : CombPart) : State :=
  match p.req, p.far with
  | some (loom, ev, _), _ => s.pump loom ev
  | none, some (port, key) => (s.modIncoming port key (fun i => { i with taken := false })).serve port key
  | none, none => s

/-- The requesters of a merged request, with the records below it: the first one that is a loom's context. -/
def State.firstReq (s : State) : (fuel : Nat) → List CombPart → Option (Nat × Bool × Nat)
  | 0, _ => none
  | fuel + 1, ps => ps.findSome? (fun (p : CombPart) =>
      match p.req, p.far with
      | some r, _ => some r
      | none, some _ => none
      | none, none => (s.combining.find? (fun (x : Combining) => x.id == p.child)).bind (fun (x : Combining) => s.firstReq fuel x.parts))

/-- Sends a merged request to the peer of its word: an atomic of the sum (R166, R295). -/
def State.sendMerged (s : State) (e : Combining) : State :=
  match s.firstReq 3 e.parts with
  | none => s
  | some (loom, ev, _) =>
    s.request (ctxSource loom ev) (s.ctxAt loom ev).peer ((e.target - 2 ^ 60) / 2 ^ 48) loom ev (.combined e.id) kAtomic
      { noFlit with addr := BitVec.ofNat 48 e.target, opa := e.sum, aop := 0x20, lenM1 := 7 }

/-- COMBINE_DEPART (R321): an entry leaves its switch. One request passes on unchanged; more go on as one merged request. From a bolt
switch a request for memory goes to the panel switch of the word. -/
def State.combineDepart (s : State) (switch id : Nat) : Option State :=
  (s.combining.find? (fun e => e.id == id && e.switch == switch && !e.departed)).map (fun e =>
    let next := if switch < 40 then panelSwitch switch e.target else none
    match e.parts with
    | [p] =>
      let s := s.dropEntry id
      match next with
      | some (sw, port) =>
        match s.joinSwitch sw e.target { p with port := port } with
        | (s, true) => s
        | (s, false) => s.passOn p
      | none => s.passOn p
    | _ =>
      let s := { s with combining := s.combining.map (fun x => if x.id = id then { x with departed := true } else x) }
      match next with
      | some (sw, port) => (s.joinSwitch sw e.target { port := port, child := id, addend := e.sum }).1
      | none => if Nat.ble (2 ^ 60) e.target then s.sendMerged e else s)

/-- COMBINE_DEPART. -/
def execCombineDepart (switch entry : Nat) (s : State) := s.event (s.combineDepart switch entry)

/-- The access of a request in a switch. -/
def State.combined? (s : State) (r : Nat × Bool × Nat) : Option Access := (s.ctxAt r.1 r.2.1).accs.find? (·.id == r.2.2)

/-- The span of a request in a switch, as its requester has translated it: the first one below a merged request. -/
def State.partSpan (s : State) (target : Nat) : (fuel : Nat) → List CombPart → Span
  | 0, _ => { pa := target, va := 0, len := 8, off := 0 }
  | fuel + 1, ps =>
    let found : List Span := ps.filterMap (fun (p : CombPart) =>
      match p.req, p.far with
      | some r, _ => (s.combined? r).bind (fun (a : Access) => a.spans.head?)
      | none, some (port, key) => (s.incoming? port key).bind (fun i => (s.loaderSpans i).head?)
      | none, none => (s.combining.find? (fun (x : Combining) => x.id == p.child)).map (fun (x : Combining) => s.partSpan target fuel x.parts))
    found.headD { pa := target, va := 0, len := 8, off := 0 }

/-- Fails every requester below the requests of an entry, and frees the records below (R388). -/
def State.failParts (s : State) (f : W64 → FaultInfo) : (fuel : Nat) → List CombPart → State
  | 0, _ => s
  | fuel + 1, ps =>
    ps.foldl (fun s p =>
      match p.req, p.far with
      | some r, _ => (match s.combined? r with | some a => s.failAccess r.1 r.2.1 a (f p.addend) | none => s)
      | none, some (port, key) =>
        (match s.incoming? port key with
          | some i => s.answer port i.flit kAtomicReply (faultStatus (f p.addend)) 0 []
          | none => s)
      | none, none =>
        match s.combining.find? (·.id == p.child) with
        | some e => (s.dropEntry e.id).failParts f fuel e.parts
        | none => s) s

/-- Takes the requests below an entry apart again: the word's line is suspended, and each of them is a loader of its own (R110). -/
def State.dissolve (s : State) : (fuel : Nat) → Combining → State
  | 0, _ => s
  | fuel + 1, e =>
    e.parts.foldl (fun s p =>
      match p.req, p.far with
      | none, none =>
        (match s.combining.find? (·.id == p.child) with
          | some x => s.dissolve fuel x
          | none => s)
      | _, _ => s.passOn p) (s.dropEntry e.id)

/-- Gives each request of an entry its value: a requester completes, a peer's request is answered, and a merged request takes its base
(R111). -/
def State.splitReply (s : State) (target : Nat) : List (CombPart × W64) → State
  | [] => s
  | (p, v) :: r =>
    let s := match p.req, p.far with
      | some q, _ =>
        match s.combined? q with
        | some a => (s.l1Update q.1 (s.partSpan target 1 [p])).finishAccess q.1 q.2.1 a v.toNat false
        | none => s
      | none, some (port, key) =>
        match s.incoming? port key with
        | some i => s.answer port i.flit kAtomicReply 0 v []
        | none => s
      | none, none => { s with combining := s.combining.map (fun (x : Combining) => if x.id = p.child then { x with base := some v } else x) }
    s.splitReply target r

/-- The base and the addends of the ports below, for each request of an entry in the order of ports. -/
def prefixes (base : W64) : List CombPart → List (CombPart × W64)
  | [] => []
  | p :: r => (p, base) :: prefixes (base + p.addend) r

/-- The values of the ports of an entry whose record is lost and whose addends were all the same (R388) (DEDUCED, log 108). -/
def uniformValues (e : Combining) (base : W64) : List (CombPart × W64) :=
  let a := e.sum.toNat / e.parts.length
  e.parts.zipIdx.map (fun x => (x.1, base + BitVec.ofNat 64 (x.2 * a)))

/-- LOSS of R388 for a requester with this addend. -/
def lossFault (e : Combining) (base : W64) (rank : Nat) (addend : W64) : FaultInfo :=
  { cls := 0x14, cause := 1, addr := e.target, d0 := base.toNat, d1 := e.sum.toNat, d2 := rank + e.mask * 256 + e.switch * 65536,
    d3 := addend.toNat, precise := false, src := 4, unit := some (switchUnit e.switch) }

/-- The partition whose requests a panel or bolt switch carries. -/
def State.switchOwner (s : State) (switch : Nat) : Nat :=
  ((s.panel (if switch < 40 then switch / 5 else switch - 40)).owner).getD 0

/-- Splits the reply to an entry, whose record may be lost (R388). -/
def State.splitEntry (s : State) (e : Combining) (base : W64) (lost : Bool) : State :=
  let s := s.dropEntry e.id
  if !lost then s.splitReply e.target (prefixes base e.parts)
  else if e.uniform then
    (s.unitRecord (s.switchOwner e.switch) (switchUnit e.switch)
      { cls := 0x14, cause := 2, d0 := base.toNat, d1 := e.sum.toNat, precise := false }).splitReply e.target (uniformValues e base)
  else e.parts.zipIdx.foldl (fun s x => s.failParts (lossFault e base x.2) 3 [x.1]) s

/-- DECOMBINE_REPLY: the reply to a merged request reaches its switch; a merged request that no switch above has is applied once,
before it, at its word here or by the peer that has it. -/
def State.decombineReply (s : State) (switch id : Nat) (lost : Bool) : Option State :=
  (s.combining.find? (fun e => e.id == id && e.switch == switch && e.departed)).bind (fun e =>
    match e.base with
    | some b => some (s.splitEntry e b lost)
    | none =>
      if Nat.ble (2 ^ 60) e.target || s.combining.any (fun x => x.parts.any (fun p => p.req.isNone && p.far.isNone && p.child == id)) then none
      else
        let sp := s.partSpan e.target 3 e.parts
        if s.meetsSuspension [sp] then some (s.dissolve 3 e)
        else
          match s.atomicAt 512 sp .faaC e.sum ((s.firstReq 3 e.parts).map (fun r => (r.1, r.2.1))) with
          | (s, _, some f) => some ((s.dropEntry id).failParts (fun _ => f) 3 e.parts)
          | (s, v, none) => some (s.splitEntry e (BitVec.ofNat 64 v) lost))

/-- DECOMBINE_REPLY. -/
def execDecombineReply (switch entry : Nat) (lost : Bool) (s : State) := s.event (s.decombineReply switch entry lost)

end Sys2Proof.Machine
end

