-- ==== Sys2Proof/Machine/Fabric.lean ====
section
/-!
DEFINITION. The optical ports: link sequence and retry (R396, R397), widths and lost wavelengths (R289, R398), port failure (R399),
requests and replies from peers (R290 to R295, R376, R400, R401), windows and congestion (R296, R297).
-/

namespace Sys2Proof.Machine

/-! ## Replies to this device's requests (R295, R401) -/

/-- The span of a request's part of an access. -/
def Access.part (a : Access) (i : Nat) : Span := a.spans.getD i { pa := 0, va := 0, len := 0, off := 0 }

/-- A part of an access has been performed at its peer: its bytes for a load, the value for an operation. -/
def State.partDone (s : State) (loom : Nat) (ev : Bool) (a : Access) (i : Nat) (opa : W64) (bs : List Byte) : State :=
  match a.kind with
  | .load =>
    let a := { a with got := a.got ++ [((a.part i).off, bs)], done := a.done ++ [i] }
    if a.complete then s.finishAccess loom ev a (gather a.got) false else (s.putAccess loom ev a).pump loom ev
  | .store .. | .relSt _ =>
    let a := { a with done := a.done ++ [i] }
    if a.complete then s.finishAccess loom ev a 0 false else (s.putAccess loom ev a).pump loom ev
  | _ => s.finishAccess loom ev a opa.toNat false

/-- The phase of a barrier at a peer has come: it ends the wait, or the wait asks again (R181) (DEDUCED, log 112). -/
def State.phaseCame (s : State) (loom : Nat) (ev : Bool) (raw : Nat) (opa : W64) : State :=
  let c := s.ctxAt loom ev
  let ph := opa.toNat % 2 ^ 32
  let done := c.barWait.any (fun x => ({ Barrier.ofNat 0 with phase := ph }).flipped x.2.1)
  s.setCtxAt loom ev (if done then { c with barSeen := some (raw, ph) } else { c with barWait := none })

/-- A merged request has been applied at its peer: its entry takes the base of the reply (R111). -/
def State.mergedBase (s : State) (id : Nat) (base : W64) : State :=
  { s with combining := s.combining.map (fun x => if x.id = id then { x with base := some base } else x) }

/-- The owner of a request that has been performed goes on; the reply to a reduction carries its flags (DESIGN CHOICE, log 150). -/
def State.requestDone (s : State) (r : Request) (opa : W64) (bs : List Byte) : State :=
  let c := s.ctxAt r.loom r.ev
  match r.owner with
  | .acc id i => match c.accs.find? (·.id == id) with | some a => s.partDone r.loom r.ev a i opa bs | none => s
  | .copyRead id off _ => s.modCopy r.loom r.ev id (fun k => { k with got := k.got ++ [(off, bs)] })
  | .copyWrite id _ n => s.copyWrote r.loom r.ev id n [] (if r.kind = kReduce then opa.setWidth 6 else 0)
  | .drainRow op row => s.rowDone r.loom r.ev op row
  | .slots op off _ => s.modAccOp r.loom r.ev op (fun o => { o with slotGot := o.slotGot ++ [(off, bs)] })
  | .combined id => s.mergedBase id opa
  | .barrier raw => s.phaseCame r.loom r.ev raw opa

/-- The owner of a request ends with a fault. -/
def State.requestFails (s : State) (r : Request) (f : FaultInfo) : State :=
  let c := s.ctxAt r.loom r.ev
  match r.owner with
  | .acc id _ => match c.accs.find? (·.id == id) with | some a => s.failAccess r.loom r.ev a f | none => s
  | .copyRead id _ _ | .copyWrite id _ _ =>
    match c.copy? id with
    | some k =>
      let s := match k.kind with
        | .send ch => if f.cls = 0x20 ∧ f.cause = 5 then
            s.modPart c.peer (fun p => { p with sendCh := SMap.set p.sendCh ch { SMap.getD p.sendCh ch {} with held := true } }) else s
        | _ => s
      s.failCopy r.loom r.ev k f
    | none => s
  | .drainRow op _ | .slots op _ _ =>
    match c.accOps.find? (·.id == op) with
    | some o => s.failAccOp r.loom r.ev o f
    | none => s
  | .combined id =>
    match s.combining.find? (·.id == id) with
    | some e => (s.dropEntry id).failParts (fun _ => f) 3 e.parts
    | none => s
  | .barrier _ => (s.setCtxAt r.loom r.ev { c with barWait := none }).raiseAsync r.loom r.ev f

/-- Takes a request off those outstanding. -/
def State.dropRequest (s : State) (tag : Nat) : State := { s with requests := s.requests.filter (·.rtag != tag) }

/-- UNREACHABLE for a request that was pending (R400); ADDR is the address that the request names (DEDUCED, log 157). -/
def pendingUnreachable (r : Request) : FaultInfo :=
  { cls := 0x20, cause := 5, addr := r.flit.addr.toNat, d0 := r.dpeer, d1 := 1, precise := false, src := 4 }

/-- A reply has come: its request is performed, or asked to be sent again, or has failed (R378, R401). -/
def State.takeReply (s : State) (f : Flit) (bs : List Byte) : State :=
  match s.requests.find? (fun r => r.rtag == f.rtag.toNat && r.peer == f.dpeer.toNat && r.dpeer == f.speer.toNat) with
  | none => s
  | some r =>
    if f.status = 6 ∧ f.aop = 0 then
      { s with requests := s.requests.map (fun x => if x.rtag = r.rtag then { x with refused := true } else x) }
    else
      let s := s.dropRequest r.rtag
      if f.status = 0 then s.requestDone r f.opa bs
      else if f.status = 6 then
        s.requestFails r { cls := 0x20, cause := 6, addr := r.flit.addr.toNat, d0 := r.flit.sseq.toNat, d1 := r.dpeer, precise := false,
                           remote := true, status := 6, src := 4 }
      else s.requestFails r (statusFault f.status.toNat r.flit.addr.toNat)

/-- Gives up every request to a peer that no port reaches any more (R400); a drain leaves them. -/
def State.giveUpRequests (s : State) : State :=
  (s.requests.filter (fun r => ((s.part? r.peer).bind (·.drain)).isNone && !s.reachable r.peer r.dpeer (r.kind == kReduce))).foldl
    (fun s r => if s.requests.any (·.rtag == r.rtag) then (s.dropRequest r.rtag).requestFails r (pendingUnreachable r) else s) s

/-! ## Link errors, retry, loss of a wavelength and of a port (R396 to R399) -/

/-- The partition that owns a port. -/
def State.portOwner (s : State) (q : Nat) : Option Nat := s.ownerOf (q / 2)

/-- A unit record of a port. -/
def State.portRecord (s : State) (q cause d0 d1 : Nat) : State :=
  match s.portOwner q with
  | some peer => s.unitRecord peer (portUnit q) { cls := 0x20, cause := cause, d0 := d0, d1 := d1, precise := false }
  | none => s

/-- Counts a link error, of a wavelength where the line code names one; the 1,024th of a second is recorded. -/
def State.linkError (s : State) (q : Nat) (wave : Option Nat) : State :=
  let p := s.port q
  let fresh := Config.newSecond s.freeIdx
  let n := (if fresh then 0 else p.errors) + 1
  let mask := (if fresh then 0 else p.errWaves) ||| (wave.map (2 ^ ·)).getD 0
  let s := { s.setPort q { p with errors := n, errWaves := mask } with freeIdx := s.freeIdx + 1 }
  if n = 1024 then s.portRecord q 1 n mask else s

/-- The code of the largest set that the working wavelengths make and that is not larger than the one asked for (R398). -/
def Port.achievable (p : Port) (code : BitVec 2) : BitVec 2 :=
  let working := 7 - p.lost.length
  if 7 ≤ working then code else if 3 ≤ working then (if code = 0 then 1 else code) else 2

/-- Sends the PARK flit that names a set and the first data flit that is striped over it (R289). -/
def State.sendPark (s : State) (q : Nat) (code : BitVec 2) (dseq : BitVec 16) : State :=
  let p := s.port q
  (s.setPort q { p with width := code, txPark := p.txPark.filter (fun x => !notBefore x.1 dseq) ++ [(dseq, code)] }).sendFlit q kPark
    { noFlit with aop := BitVec.ofNat 8 (widthCount code), opa := dseq.setWidth 64 }

/-- A data flit that has left before is sent again over the set that it is striped over now. -/
def Port.again (p : Port) (q : Nat) (d : DataFlit) : Output :=
  Output.data q d (dealt (p.awake (stripeAt d.dseq p.stripe p.txPark).1) p.deal)

/-- Sends held flits again, from a control and a data sequence number on (R396) (DEDUCED, log 104). -/
def State.resend (s : State) (q : Nat) (lseq dseq : BitVec 16) : State :=
  let p := s.port q
  { s with out := s.out ++ (p.held.filter (fun h => notBefore h.2.lseq lseq)).map (fun h => Output.flit q h.1 h.2)
                    ++ (p.heldData.filter (fun d => notBefore d.dseq dseq && !p.queue.contains d)).map (p.again q) }

/-- A port goes down: it is dark, what it held is discarded, and so is what it received in part or was to forward (R399). In
a dark interval that is no fault (R412). -/
def State.portDown (s : State) (q reason : Nat) : State :=
  let p := s.port q
  let s := s.setPort q { errors := p.errors, errWaves := p.errWaves, lost := p.lost, relockIn := p.relockIn }
  let s : State := { s with incoming := s.incoming.filter (fun (i : Incoming) => !(i.port == q && !i.done && (!i.ready || i.kind == kReadReply))) }
  let dark : Bool := (s.portOwner q).any (fun o => (s.part? o).any (fun p => p.drained))
  if dark then s else s.portRecord q 3 q reason

/-- A data wavelength is lost: the port stripes over the largest set of working ones that is not larger than its own, and sends what
is not acknowledged again; without any the port goes down (R398). -/
def State.loseWave (s : State) (q wave : Nat) : State :=
  let p := { s.port q with lost := wave :: (s.port q).lost }
  let s := s.setPort q p
  if 7 ≤ p.lost.length then s.portDown q 3
  else
    let code := p.achievable p.width
    let oldest := ((p.heldData.head?).map (·.dseq)).getD p.dseqTx
    let s := s.sendPark q code oldest
    let s := s.resend q p.lseqTx oldest
    s.portRecord q 2 wave (widthCount code)

/-- Asks for a flit again: LRETRY names the next control and data flit that the receiver waits for (DEDUCED, log 101). -/
def State.sendLRetry (s : State) (q : Nat) : State :=
  let p := s.port q
  s.linkFlit q kLRetry { noFlit with lseq := p.lseqRx, opa := p.dseqRx.setWidth 64 }

/-- Acknowledges what has been received in order. -/
def State.sendLack (s : State) (q : Nat) : State :=
  let p := s.port q
  (s.setPort q { p with gotSince := 0 }).linkFlit q kLack { noFlit with lseq := p.lseqRx - 1, opa := (p.dseqRx - 1).setWidth 64 }

/-- A flit has been received in order: a LACK follows every 256 of them. -/
def State.countReceived (s : State) (q : Nat) : State :=
  let p := s.port q
  let s := s.setPort q { p with gotSince := p.gotSince + 1 }
  if p.gotSince + 1 = 256 then s.sendLack q else s

/-- A control flit is discarded: unless its plane waits already for an earlier one, an LRETRY asks for it, eight times before the port
goes down (R396, R397). `again` says that it is the awaited flit that has failed again. -/
def State.badControl (s : State) (q : Nat) (again : Bool) : State :=
  let s := s.linkError q (some 0)
  let p := s.port q
  if p.ctlWait ∧ !again then s
  else if 8 ≤ p.retries then s.portDown q 2
  else (s.setPort q { p with ctlWait := true, retries := p.retries + 1 }).sendLRetry q

/-- The same of a data flit, by the wavelength on which its beats failed; when every failure of one flit fell on one wavelength, that
wavelength is lost instead of the port. -/
def State.badData (s : State) (q : Nat) (again : Bool) (wave : Option Nat) : State :=
  let s := s.linkError q wave
  let p := s.port q
  if p.dataWait ∧ !again then s
  else if 8 ≤ p.badWaves.length then
    match wave with
    | some w =>
      if p.badWaves.all (· == some w) then (s.setPort q { p with badWaves := [], dataWait := true }).loseWave q w
      else s.portDown q 2
    | none => s.portDown q 2
  else (s.setPort q { p with dataWait := true, badWaves := p.badWaves ++ [wave] }).sendLRetry q

/-- A sequenced control flit: the state after its link check, and whether it is accepted. A flit that was accepted before is
discarded. -/
def State.acceptControl (s : State) (q kind : Nat) (f : Flit) : State × Bool :=
  let p := s.port q
  if !flitOk kind f then (s.badControl q (f.lseq == p.lseqRx), false)
  else if f.lseq = p.lseqRx then
    ((s.setPort q { p with lseqRx := p.lseqRx + 1, ctlWait := false, retries := 0 }).countReceived q, true)
  else if (f.lseq - p.lseqRx).toNat < 2 ^ 15 then (s.badControl q false, false)
  else (s, false)

/-- The event of a sequenced control flit: a dark port receives nothing. -/
def State.onFlit (s : State) (q kind : Nat) (f : Flit) (act : State → State) : Host.Outcome State Fault Refusal :=
  s.event (if !(s.port q).up then none else match s.acceptControl q kind f with | (s, true) => some (act s) | (s, false) => some s)

/-- The event of a control flit that is not sequenced. -/
def State.onLink (s : State) (q kind : Nat) (f : Flit) (act : State → State) : Host.Outcome State Fault Refusal :=
  s.event (if !(s.port q).up then none else if flitOk kind f then some (act s) else some (s.badControl q false))

/-! ## Requests and replies that come in -/

/-- The channel or slice whose sequence filter takes a request (R376) (DEDUCED, log 106). -/
def State.filterOf (s : State) (f : Flit) : Nat :=
  match (s.part? f.dpeer.toNat).bind (fun p => s.translateNow p f.addr.toNat) with
  | some (pa, _) => if offChip pa then channelOf pa else 1024 + unitOf pa
  | none => 0

/-- A flit goes on for others: a port that carries a request waits for its reply before its drain marker, and a reply that passes ends
the wait (R298). -/
def State.noteCarried (s : State) (out kind : Nat) (f : Flit) : State :=
  if isRequest kind then
    let p := s.port out
    s.setPort out { p with carried := p.carried ++ [(f.dpeer.toNat, f.speer.toNat, f.rtag.toNat)] }
  else if isReply kind then
    { s with ports := s.ports.map (fun (x : Nat × Port) =>
        (x.1, { x.2 with carried := x.2.carried.filter (· != (f.speer.toNat, f.dpeer.toNat, f.rtag.toNat)) })) }
  else s

/-- Forwards a flit that is not for this device (R294); one that no port takes further is discarded, and its source sends it again. -/
def State.forward (s : State) (q kind : Nat) (f : Flit) : State :=
  match s.portOwner q with
  | none => s
  | some peer =>
    match (s.memberOf peer f.dpeer.toNat).bind (s.route peer (kind == kReduce)) with
    | some out => (s.noteCarried out kind f).sendFlit out kind f
    | none => s

/-- Whether a flit is for the partition that owns the port. -/
def State.isOwn (s : State) (q : Nat) (f : Flit) : Bool := s.portOwner q == some f.dpeer.toNat

/-- A request or reply whose data are all here: forwarded, given to its request, answered again from the filter, or performed. -/
def State.complete (s : State) (i : Incoming) : State :=
  let gone : State := { s with incoming := s.incoming.filter (· != i) }
  if !s.isOwn i.port i.flit then gone.forward i.port i.kind { i.flit with data := if i.need = 0 then [] else i.bytes }
  else if i.kind = kReadReply then gone.takeReply i.flit i.bytes
  else if i.dup then
    match s.incoming.find? (fun x => x.done && reqKey x.flit == reqKey i.flit && x.flit.sseq == i.flit.sseq) with
    | some x => (match x.answer with
      | some a => gone.sendReply i.port (replyKind i.kind i.flit.aop.toNat) a
      | none => gone)
    | none => gone
  else s.serve i.port (reqKey i.flit)

/-- Whether data of an incoming flit are still to come. -/
def Incoming.lacks (i : Incoming) : Bool := !i.done && Nat.blt ((i.data.map (fun d => d.2.length)).sum) i.need

/-- Gives data flits to the first incoming flit of their source and tag that lacks data; each is its bytes up to the length. -/
def State.claim (s : State) (q : Nat) : (fuel : Nat) → State
  | 0 => s
  | fuel + 1 =>
    let p := s.port q
    let fits (d : DataFlit) (i : Incoming) : Bool :=
      i.port == q && i.lacks && i.flit.rtag == d.rtag && i.flit.speer == d.speer
    match p.unclaimed.find? (fun d => s.incoming.any (fits d)) with
    | none => s
    | some d =>
      match s.incoming.find? (fits d) with
      | none => s
      | some i =>
        let k := d.index.toNat
        let j := { i with data := i.data ++ [(k, d.data.take (i.need - 512 * k))] }
        let s := s.setPort q { p with unclaimed := p.unclaimed.erase d }
        let s := { s with incoming := s.incoming.map (fun x => if x = i then j else x) }
        (if j.lacks then s else s.complete j).claim q fuel

/-- A request, or a reply with data, comes in: it waits for its data, and one that the filter knows is not applied again, except that
a read that was answered is performed again (R376). -/
def State.comeIn (s : State) (q kind : Nat) (f : Flit) : State :=
  let n := f.lenM1.toNat + 1
  let carries := kind = kWrite ∨ kind = kReduce ∨ kind = kChWrite ∨ kind = kReadReply
  let known (x : Incoming) : Bool := x.kind != kReadReply && reqKey x.flit == reqKey f && x.flit.sseq == f.sseq
  let again : Bool := s.isOwn q f && kind != kReadReply && s.incoming.any known
  let redo : Bool := kind == kRead && s.incoming.any (fun x => known x && x.done)
  let s := if redo then { s with incoming := s.incoming.filter (fun x => !(known x)) } else s
  let i : Incoming := { port := q, flit := { f with data := [] }, kind := kind, need := if carries ∧ 8 < n then n else 0,
                        dup := again && !redo, chan := if s.isOwn q f then s.filterOf f else 0 }
  let s := { s with incoming := s.incoming ++ [i] }
  let waitsNew : Bool := s.isOwn q f && kind == kAtomic && f.aop == 0x21 && !i.dup
  (if i.lacks ∨ waitsNew then s else s.complete i).claim q 5

/-- READ: a peer's load (R291, R295). -/
def execRead (port : Nat) (f : Flit) (s : State) := s.onFlit port kRead f (fun s => s.comeIn port kRead f)
/-- WRITE: a peer's store. -/
def execWrite (port : Nat) (f : Flit) (s : State) := s.onFlit port kWrite f (fun s => s.comeIn port kWrite f)
/-- ATOMIC: a peer's atomic; a CAS waits for its new value. -/
def execAtomic (port : Nat) (f : Flit) (s : State) := s.onFlit port kAtomic f (fun s => s.comeIn port kAtomic f)

/-- The new value of a CAS reaches it (R291). -/
def State.newValue (s : State) (q : Nat) (f : Flit) : State :=
  if !s.isOwn q f then s.forward q kCasNew f
  else
    match s.incoming.find? (fun i => i.mine q (reqKey f) && i.kind == kAtomic && i.flit.aop == 0x21 && i.casNew.isNone) with
    | none => s
    | some i =>
      let j := { i with casNew := some f.opa }
      ({ s with incoming := s.incoming.map (fun x => if x = i then j else x) }).complete j

/-- CASNEW. -/
def execCasnew (port : Nat) (f : Flit) (s : State) := s.onFlit port kCasNew f (fun s => s.newValue port f)
/-- REDUCE: a peer's reduction. -/
def execReduce (port : Nat) (f : Flit) (s : State) := s.onFlit port kReduce f (fun s => s.comeIn port kReduce f)
/-- RELST: a peer's flag store. -/
def execRelst (port : Nat) (f : Flit) (s : State) := s.onFlit port kRelSt f (fun s => s.comeIn port kRelSt f)
/-- CHWRITE: a peer's write into a slot of a receive channel (R296). -/
def execChwrite (port : Nat) (f : Flit) (s : State) := s.onFlit port kChWrite f (fun s => s.comeIn port kChWrite f)

/-- READ_REPLY: the data of a READ; a failed one carries none. -/
def execReadReply (port : Nat) (f : Flit) (s : State) :=
  s.onFlit port kReadReply f (fun s =>
    if f.status ≠ 0 then (if s.isOwn port f then s.takeReply f [] else s.forward port kReadReply f)
    else s.comeIn port kReadReply f)

/-- A reply without data flits. -/
def State.shortReply (s : State) (q kind : Nat) (f : Flit) : State :=
  if s.isOwn q f then s.takeReply f [] else s.forward q kind f

/-- ACK. -/
def execAck (port : Nat) (f : Flit) (s : State) := s.onFlit port kAck f (fun s => s.shortReply port kAck f)

/-- ATOMIC_REPLY: the value of an atomic, and the answer to an operation on a barrier or bobbin at a peer (DEDUCED, log 16). -/
def execAtomicReply (port : Nat) (f : Flit) (s : State) := s.onFlit port kAtomicReply f (fun s => s.shortReply port kAtomicReply f)

/-! ## Windows and congestion -/

/-- WINDOW (R296, R402): a send channel that the fabric table does not have makes it a link error. -/
def State.windowFlit (s : State) (q : Nat) (f : Flit) : State :=
  if !s.isOwn q f then s.forward q kWindow f
  else
    let ch := f.addr.toNat % 64
    let has : Bool := (((s.part? f.dpeer.toNat).bind (·.fabric)).bind (fun t => t.send[ch]?)).any (fun e => e.slots != 0)
    if has then s.raiseWindow f.dpeer.toNat ch f.opa.toNat (some q) else s.linkError q none

/-- WINDOW. -/
def execWindow (port : Nat) (f : Flit) (s : State) := s.onFlit port kWindow f (fun s => s.windowFlit port f)

/-- The congestion level of a destination (R297). -/
def Partition.level (p : Partition) (m : Nat) : Nat := SMap.getD p.cong m 0

/-- CONGESTION (R297): the level of a destination rises by 1. -/
def execCongestion (port : Nat) (f : Flit) (s : State) :=
  s.onFlit port kCongestion f (fun s =>
    if !s.isOwn port f then s.forward port kCongestion f
    else s.modPart f.dpeer.toNat (fun p => p.raiseLevel (f.opa.extractLsb' 0 12).toNat))

/-- CONGESTION_DECAY: 8,192 cycles have passed without a notice. -/
def execCongestionDecay (peer mem : Nat) (s : State) :=
  s.event ((s.part? peer).bind (fun p =>
    if p.level mem = 0 then none
    else some (s.setPart peer { p with cong := if p.level mem = 1 then SMap.erase p.cong mem else SMap.set p.cong mem (p.level mem - 1) })))

/-! ## Link control -/

/-- DRAIN_FLIT (R298): the port has received its marker. -/
def execDrainFlit (port : Nat) (f : Flit) (s : State) :=
  s.onFlit port kDrain f (fun s => s.setPort port { s.port port with drainGot := true })

/-- RELOCK (R298): a port that relocks comes up when its peer's PHASE is that of the new table; otherwise it is reported and stays
dark (DEDUCED, log 103). -/
def State.relock (s : State) (q : Nat) (f : Flit) : Option State :=
  ((s.portOwner q).bind (fun peer => (s.part? peer).bind (·.fabricNext))).bind (fun (_, t) =>
    let p := s.port q
    let used := t.roles.any (fun r => r.1 == q && r.2.1 != 0)
    let ph : W32 := f.opa.setWidth 32
    if p.up ∨ p.relockIn.isSome ∨ !used ∨ !flitOk kRelock f then none
    else if ph = t.phase then some (s.setPort q { up := true, errors := p.errors, errWaves := p.errWaves, relockIn := some ph })
    else some ((s.setPort q { p with relockIn := some ph }).portRecord q 4 t.phase.toNat ph.toNat))

/-- RELOCK. -/
def execRelock (port : Nat) (f : Flit) (s : State) := s.event (s.relock port f)

/-- The set that a receiver takes beats from once the data flit that a PARK flit names is next. -/
def Port.settleRx (p : Port) : Port :=
  let x := stripeAt p.dseqRx p.rxWidth p.rxPark
  { p with rxWidth := x.1, rxPark := x.2 }

/-- The width code of a set that a PARK flit names. -/
def parkCode (n : BitVec 8) : Option (BitVec 2) := if n = 7 then some 0 else if n = 3 then some 1 else if n = 1 then some 2 else none

/-- PARK (R289): the other end names the set that it stripes over from a data flit on. -/
def execPark (port : Nat) (f : Flit) (s : State) :=
  s.onFlit port kPark f (fun s =>
    let p := s.port port
    s.setPort port (match parkCode f.aop with
      | some code => { p with rxPark := p.rxPark.filter (fun (x : BitVec 16 × BitVec 2) => !notBefore x.1 (f.opa.setWidth 16)) ++ [(f.opa.setWidth 16, code)] }.settleRx
      | none => p))

/-- WAKE (R289): the other end's woken wavelengths begin to lock; its traffic keeps its striping. -/
def execWake (port : Nat) (f : Flit) (s : State) := s.onFlit port kWake f (fun s => s)

/-- LACK (R396): the flits that it covers are released, and others take their room. -/
def execLack (port : Nat) (f : Flit) (s : State) :=
  s.onLink port kLack f (fun s =>
    let p := s.port port
    let later (x upto : BitVec 16) : Bool := x != upto && Nat.blt (x - upto).toNat (2 ^ 15)
    let p := { p with held := p.held.filter (fun h => later h.2.lseq f.lseq),
                      heldData := p.heldData.filter (fun d => later d.dseq (f.opa.setWidth 16)) }
    (s.setPort port p).flushPort port p.waiting.length)

/-- LRETRY (R396): flits are sent again from the sequence numbers that it names. -/
def execLretry (port : Nat) (f : Flit) (s : State) := s.onLink port kLRetry f (fun s => s.resend port f.lseq (f.opa.setWidth 16))

/-- IDLE: fill. -/
def execIdle (port : Nat) (f : Flit) (s : State) := s.onLink port kIdle f (fun s => s)

/-- Takes the next data flit in order, and those behind it that came early. -/
def State.takeData (s : State) (q : Nat) : (fuel : Nat) → DataFlit → State
  | 0, _ => s
  | fuel + 1, d =>
    let p := s.port q
    let p := { p with dseqRx := p.dseqRx + 1, dataWait := false, badWaves := [], unclaimed := p.unclaimed ++ [d] }.settleRx
    let s := ((s.setPort q p).countReceived q).claim q 5
    let p := s.port q
    match p.early.find? (fun x => x.dseq == p.dseqRx) with
    | some x => (s.setPort q { p with early := p.early.erase x }).takeData q fuel x
    | none => s

/-- DATA_FLIT (R288, R291, R396): data flits are given to their request or reply in order of DSEQ; one that comes before an earlier one
waits for it. One that fails is discarded with every later one until it is sent again. -/
def State.dataFlitIn (s : State) (q : Nat) (d : DataFlit) : State :=
  let p := s.port q
  if !dataOk d then
    (s.setPort q { p with early := p.early.filter (fun x => !notBefore x.dseq d.dseq) }).badData q (d.dseq == p.dseqRx) d.badWave
  else if d.dseq = p.dseqRx then s.takeData q (p.early.length + 1) d
  else if !notBefore d.dseq p.dseqRx then s
  else if p.dataWait then s.badData q false none
  else s.setPort q { p with early := p.early.filter (fun x => x.dseq != d.dseq) ++ [d] }

/-- DATA_FLIT. -/
def execDataFlit (port : Nat) (d : DataFlit) (s : State) :=
  s.event (if (s.port port).up then some (s.dataFlitIn port d) else none)

/-- WAKE_LOCK (R289, R398): both ends report lock, and a PARK flit names the larger set, of working wavelengths. -/
def execWakeLock (port : Nat) (s : State) :=
  let p := s.port port
  s.event (p.pendingWidth.bind (fun w =>
    if !p.up then none
    else some ((s.setPort port { p with pendingWidth := none }).sendPark port (p.achievable w) p.dseqTx)))

/-- LACK_TIMEOUT (R396): what is held is sent again, from the oldest. -/
def execLackTimeout (port : Nat) (s : State) :=
  let p := s.port port
  let first : BitVec 16 := ((p.held.head?).map (fun h => h.2.lseq)).getD p.lseqTx
  let data : BitVec 16 := ((p.heldData.head?).map (·.dseq)).getD p.dseqTx
  s.event (if !p.up ∨ (p.held.isEmpty ∧ p.heldData.isEmpty) then none else some (s.resend port first data))

/-- LACK_INTERVAL (R396): a receiver that has received flits acknowledges them. -/
def execLackInterval (port : Nat) (s : State) :=
  s.event (if (s.port port).up ∧ (s.port port).gotSince ≠ 0 then some (s.sendLack port) else none)

/-- WAVELENGTH_LOSS (R398). -/
def execWavelengthLoss (port wave : Nat) (s : State) :=
  let p := s.port port
  s.event (if p.up ∧ 1 ≤ wave ∧ wave ≤ 7 ∧ wave ∉ p.lost then some (s.loseWave port wave) else none)

/-- PORT_DOWN (R399): a port that is up goes down, and one that should relock gets no light; the dark interval itself is no fault. -/
def execPortDown (port reason : Nat) (s : State) :=
  let p := s.port port
  let locking := ((s.portOwner port).bind (fun peer => (s.part? peer).bind (·.fabricNext))).isSome && p.relockIn.isNone
  s.event (if !p.up ∧ !locking then none
    else some ((if locking then s.setPort port { p with relockIn := some 0 } else s).portDown port reason))

/-! ## The widths of a port (R289, R302, R398) -/

/-- The shared course of LINK.PARK and LINK.WAKE: the port is the partition's own and rd takes the width code in force before
(DEDUCED, log 109). -/
def State.linkWidth (s : State) (t : Tok) (rd : BitVec 6) (q : Nat) (act : State → State) : Host.Outcome State Fault Refusal :=
  s.done (do
    let c ← s.ctx.tokens .A t
    check (s.portOwner q == some c.peer) (faultOf 9 1 0 q)
    let c ← c.emit .A (.a rd) (s.port q).width.toNat 1 t
    return act (s.setCtx c))

/-- LINK.PARK: a PARK flit names the narrower set; a set that is no narrower changes nothing. -/
def execLinkPark (t : Tok) (rd : BitVec 6) (width : BitVec 2) (port : BitVec 4) (s : State) :=
  s.linkWidth t rd port.toNat (fun s =>
    let p := s.port port.toNat
    let code := p.achievable width
    if p.up ∧ p.width.toNat < code.toNat then
      (s.setPort port.toNat { p with pendingWidth := none }).sendPark port.toNat code p.dseqTx
    else s)

/-- LINK.WAKE: a WAKE flit starts the lock of a wider set. -/
def execLinkWake (t : Tok) (rd : BitVec 6) (width : BitVec 2) (port : BitVec 4) (s : State) :=
  s.linkWidth t rd port.toNat (fun s =>
    let p := s.port port.toNat
    let code := p.achievable width
    if p.up ∧ code.toNat < p.width.toNat then
      (s.setPort port.toNat { p with pendingWidth := some code }).sendFlit port.toNat kWake noFlit
    else s)

/-! ## Requests sent again (R376, R383) -/

/-- Whether a request is one of an access, a copy command or an operation on a tile, merged or not; in a reset, that of a BAR.WAIT is one
of its context (R317). -/
def State.requestOf (s : State) (loom : Nat) (ev : Bool) (id : Nat) (r : Request) : Bool :=
  match r.owner with
    | .acc n _ | .copyRead n _ _ | .copyWrite n _ _ | .drainRow n _ | .slots n _ _ => n == id && r.loom == loom && r.ev == ev
    | .combined e => s.combining.any (fun x => x.id == e && x.parts.any (·.req == some (loom, ev, id)))
    | .barrier _ => (s.part? r.peer).any (·.resetting) && r.loom == loom && r.ev == ev

/-- TIMEOUT of R376. -/
def timeoutFault (sseq unit va : Nat) : FaultInfo :=
  { cls := 0x10, cause := 5, addr := va, d0 := sseq, d1 := unit, precise := false, src := 4 }

/-- One request is sent again; the fourth silence ends it, and the first one does in a reset (R317). -/
def State.replayRequest (s : State) (r : Request) : State :=
  if (((s.part? r.peer).map (·.resetting)).getD false) = true then s.dropRequest r.rtag
  else if 3 ≤ r.tries then (s.dropRequest r.rtag).requestFails r (timeoutFault r.flit.sseq.toNat (portUnit r.port) r.flit.addr.toNat)
  else
    let r' := { r with tries := r.tries + 1 }
    match s.transmit r' with
    | some (s, q) => { s with requests := s.requests.map (fun x => if x.rtag = r.rtag then { r' with port := q } else x) }
    | none => (s.dropRequest r.rtag).requestFails r (pendingUnreachable r)

/-- TIMEOUT of a request on the module's own channels. -/
def State.localTimeout (s : State) (sp : Span) : FaultInfo :=
  { timeoutFault (Config.localSseq s.freeIdx).toNat (unitOf sp.pa) sp.va with unit := some (unitOf sp.pa) }

/-- The first byte that an access or a copy command has still to reach at a channel or a slice of this module. -/
def State.awaited (s : State) (c : Ctx) (sps : List Span) : Option Span :=
  (s.sourceHere c sps).find? (fun sp => offChip sp.pa || inAcc sp.pa)

/-- An access that has gone out to a channel or slice of this module is sent again, or has its fourth silence. -/
def State.replayAccess (s : State) (loom : Nat) (ev : Bool) (a : Access) : Option State :=
  let c := s.ctxAt loom ev
  if !s.performable loom ev c a then none
  else
    (s.awaited c a.undone).map (fun sp =>
      if a.replays < 3 then s.putAccess loom ev { a with replays := a.replays + 1 }
      else ({ s with freeIdx := s.freeIdx + 1 }).failAccess loom ev a (s.localTimeout sp))

/-- A chunk of a copy command, the same. -/
def State.replayCopy (s : State) (loom : Nat) (ev : Bool) (k : CopyCmd) : Option State :=
  let c := s.ctxAt loom ev
  if !k.started || s.waiters.any (fun w => w.loom == loom && w.ev == ev && w.who == Loader.copy k.id) then none
  else
    (s.awaited c (if k.readTo < k.len then slice k.src k.readTo (k.len - k.readTo) else slice k.dst k.wroteTo k.len)).map (fun sp =>
      if k.replays < 3 then s.modCopy loom ev k.id (fun k => { k with replays := k.replays + 1 })
      else ({ s with freeIdx := s.freeIdx + 1 }).failCopy loom ev k (s.localTimeout sp))

/-- REQUEST_REPLAY: 8,192 cycles have passed without a reply. A request on the module's own channels is applied once however often it
is sent, so that only its number of tries shows; a loader that waits for a fill has its answer of R110. -/
def State.requestReplay (s : State) (loom : Nat) (ev : Bool) (id : Nat) : Option State :=
  let c := s.ctxAt loom ev
  let rs := s.requests.filter (fun r => s.requestOf loom ev id r && !r.unsent && !r.refused)
  if rs ≠ [] then some (rs.foldl (fun s r => if s.requests.any (·.rtag == r.rtag) then s.replayRequest r else s) s)
  else
    match c.accs.find? (·.id == id), c.copy? id with
    | some a, _ => s.replayAccess loom ev a
    | none, some k => s.replayCopy loom ev k
    | none, none => none

/-- REQUEST_REPLAY. -/
def execRequestReplay (loom : Nat) (ev : Bool) (acc : Nat) (s : State) := s.event (s.requestReplay loom ev acc)

/-- LOADER_RETRY (R383, R401): a loader that a full waiter table refused tries again, here or at a peer with the same SSEQ. -/
def State.loaderRetry (s : State) (loom : Nat) (ev : Bool) (id : Nat) : Option State :=
  match s.requests.find? (fun r => s.requestOf loom ev id r && r.refused) with
  | some r =>
    let r' := { r with refused := false }
    some (match s.transmit r' with
      | some (s, q) => { s with requests := s.requests.map (fun x => if x.rtag = r.rtag then { r' with port := q } else x) }
      | none => (s.dropRequest r.rtag).requestFails r (pendingUnreachable r))
  | none => (s.loaderArrival loom ev (.acc id)).or (s.loaderArrival loom ev (.copy id))

/-- LOADER_RETRY. -/
def execLoaderRetry (loom : Nat) (ev : Bool) (acc : Nat) (s : State) := s.event (s.loaderRetry loom ev acc)

/-! ## Flits as they come in (R290, R291, R396) -/

/-- A flit of an unassigned kind is discarded as one that fails is, and counted as a link error (R291, R396). -/
def State.strangeFlit (s : State) (q : Nat) (f : Flit) : Option State :=
  if (s.port q).up then some (s.badControl q (f.lseq == (s.port q).lseqRx)) else none

/-- A control flit as its 256 bits come in, by its kind. -/
def State.onRawFlit (s : State) (q : Nat) (w : BitVec 256) : Host.Outcome State Fault Refusal :=
  let f := (flitOf w).2
  match (flitOf w).1 with
  | 0x00 => execIdle q f s
  | 0x01 => execRead q f s
  | 0x02 => execWrite q f s
  | 0x03 => execAtomic q f s
  | 0x04 => execCasnew q f s
  | 0x05 => execReduce q f s
  | 0x06 => execRelst q f s
  | 0x07 => execChwrite q f s
  | 0x08 => execReadReply q f s
  | 0x09 => execAck q f s
  | 0x0A => execAtomicReply q f s
  | 0x10 => execWindow q f s
  | 0x11 => execCongestion q f s
  | 0x12 => execDrainFlit q f s
  | 0x13 => execRelock q f s
  | 0x14 => execPark q f s
  | 0x15 => execWake q f s
  | 0x16 => execLack q f s
  | 0x17 => execLretry q f s
  | _ => s.event (s.strangeFlit q f)

end Sys2Proof.Machine
end

