-- ==== Sys2Proof/Machine/Host.lean ====
section
/-!
DEFINITION. The host transport (R299), what a message of the host meets before its effect (R301, R314, R323, R409), images
(R300, R301) and attestation (R329, R330).
-/

namespace Sys2Proof.Machine

/-! ## The transport (R299) -/

/-- A message of the host is delivered on its endpoint and acknowledged. -/
def State.receive (s : State) (peer endpoint : Nat) (status : Nat := 0) : State :=
  let k := endpointKey peer endpoint
  let e := s.endpoint k
  { s with endpoints := SMap.set s.endpoints k
             { e with rxSeq := e.rxSeq + 1, refused := if status = 0 then e.refused else e.rxSeq :: e.refused },
           out := s.out ++ [Output.ack peer endpoint status] }

/-- The answer of a module whose firmware did not verify (R323): a record of class boot and cause SIGNATURE, on the endpoint of the
message. -/
def State.bootRecord (s : State) (peer endpoint : Nat) : State :=
  let f : FaultInfo := { cls := 0x30, cause := 1, precise := false }
  let bs := recordBytes 0xFFF f { unit := 12 * 512 } 0 (Config.time s.freeIdx).toNat
  ({ s with freeIdx := s.freeIdx + 1 }).sendMessage peer endpoint 5 bs

/-- The event of a host message. Nothing receives one before Agate has verified its firmware, and the messages behind an ARRIVALS
message that waits for room wait with it (R403). -/
def State.onMessage (s : State) (peer endpoint : Nat) (act : State → Option State) : Host.Outcome State Fault Refusal :=
  s.event (
    if s.agate.failed then some (s.bootRecord peer endpoint)
    else if !s.agate.verified ∨ ((s.part? peer).bind (·.arrWait)).isSome then none
    else act s)

/-- The event of a request of the host (R301, R314): a peer ID that no partition holds is refused, a request that meets a reset or a
resizing waits for its end, a held partition refuses what it does not except (R409) (DEDUCED, log 113) (DEDUCED, log 125), and a field
that is not zero where it must be makes an argument invalid (R2). -/
def State.onRequest (s : State) (peer cls code : Nat) (req : HostReq) (excepted : Partition → Bool) (act : State → Partition → State) :
    Host.Outcome State Fault Refusal :=
  s.onMessage peer req.endpoint (fun s =>
    match s.part? peer with
    | none => some ((s.receive peer req.endpoint).reply peer cls code req 3)
    | some p =>
      if p.resetReq.isSome ∨ p.resizing.isSome then none
      else if p.held ∧ !excepted p then some ((s.receive peer req.endpoint).reply peer cls code req 1)
      else if req.zeros ≠ 0 then some ((s.receive peer req.endpoint).reply peer cls code req 2)
      else some (act (s.receive peer req.endpoint) p))

/-- FLEOLAPIN_ACK: a message is no longer kept. -/
def execFleolapinAck (peer endpoint seq : Nat) (s : State) :=
  let k := endpointKey peer endpoint
  let e := s.endpoint k
  s.event (if e.unacked.any (·.1 == seq) then
      some { s with endpoints := SMap.set s.endpoints k { e with unacked := e.unacked.filter (·.1 != seq) } }
    else none)

/-- FLEOLAPIN_RETRANSMIT: a message that has not been acknowledged after 100 µs is sent again. -/
def execFleolapinRetransmit (peer endpoint seq : Nat) (s : State) :=
  let e := s.endpoint (endpointKey peer endpoint)
  s.event ((e.unacked.find? (·.1 == seq)).map (fun m => { s with out := s.out ++ [Output.message peer m.2.1 endpoint m.2.2] }))

/-! ## Images (R300, R301) -/

/-- The spans of a run of a partition's virtual addresses under its page tables. -/
def State.imageSpans (s : State) (p : Partition) (op : MemOp) (va n : Nat) : Option (List Span) :=
  if n = 0 ∨ 8192 < n ∨ 2 ^ 48 < va + n then none else (s.peerSpans p op 0 3 va n).toOption

/-- IMAGE_WRITE (R300): the bytes are written, as the write of a party, or nothing is and the acknowledgement says so
(DEDUCED, log 114). -/
def State.imageWriteAt (s : State) (peer : Nat) (p : Partition) (req : HostReq) (va : Nat) (data : List Byte) : State :=
  let refused := s.receive peer req.endpoint 2
  if req.id ≠ 0 ∨ req.zeros ≠ 0 then refused
  else
    match s.imageSpans p .store va data.length with
    | none => refused
    | some sps =>
      if s.meetsSuspension sps then refused
      else
        match s.writeSpans data sps with
        | (_, some _) => refused
        | (t, none) => t.receive peer req.endpoint

/-- IMAGE_WRITE. -/
def execImageWrite (peer : Nat) (va : BitVec 64) (data : ImageData) (s : State) :=
  s.onMessage peer data.req.endpoint (fun s =>
    (s.part? peer).bind (fun p =>
      if p.resetReq.isSome ∨ p.resizing.isSome then none else some (s.imageWriteAt peer p data.req va.toNat data.bytes)))

/-- IMAGE_READ (R301): at the point of coherence of each line; it triggers no suspension. -/
def State.imageReadAt (s : State) (peer : Nat) (p : Partition) (req : HostReq) (va n : Nat) : State :=
  match s.imageSpans p .load va n with
  | none => s.reply peer 3 0 req 2
  | some sps =>
    if s.meetsSuspension sps then s.reply peer 3 0 req 1
    else
      match s.readSpans sps with
      | (s, _, some _) => s.reply peer 3 0 req 2
      | (s, bs, none) => s.reply peer 3 0 req 0 bs

/-- IMAGE_READ. -/
def execImageRead (peer : Nat) (req : HostReq) (va : BitVec 64) (len : Nat) (s : State) :=
  s.onRequest peer 3 0 req (fun _ => true) (fun s p => s.imageReadAt peer p req va.toNat len)

/-! ## Attestation (R329, R330) -/

/-- The first 0x130 bytes of a report; with no plane loaded it is the plane of zeros (DESIGN CHOICE, log 158). -/
def State.reportBytes (s : State) (peer : Nat) (p : Partition) (nonce : BitVec 256) : List Byte :=
  let full := ((List.range 8).filter (fun i => p.panels.getLsbD i && (s.panel i).service == .full)).map (2 ^ ·)
  let image (n : Nat) : List Byte := leBytes 48 (Config.digest n).toNat
  leBytes 4 1 ++ leBytes 2 peer ++ leBytes 1 p.panels.toNat ++ leBytes 1 full.sum ++ leBytes 1 (if p.determinate then 1 else 0)
    ++ leBytes 1 p.powerMode ++ leBytes 6 0 ++ image 0 ++ image 1
    ++ sha384 (if p.plane = [] then List.replicate 0x7100 0 else p.plane)
    ++ ((p.fabric.map (fun f => sha384 f.raw)).getD (leBytes 48 0)) ++ leBytes 32 nonce.toNat ++ leBytes 8 Config.serial.toNat
    ++ leBytes 4 Config.version.toNat ++ leBytes 4 p.resets ++ leBytes 48 0

/-- The answer to an attestation request, on the endpoint of a partition or of Agate that it came by: the report signed by the key of the
partition that it names, with the certificate when it is the first since FORM; it comes from one state (R330). -/
def State.attest (s : State) (via endpoint peer : Nat) (nonce : BitVec 256) : State :=
  match s.part? peer with
  | none => s.sendMessage via endpoint 6 (leBytes 2 peer ++ leBytes 6 0 ++ leBytes 2 2 ++ leBytes 6 0)
  | some p =>
    let head := s.reportBytes peer p nonce
    let hash := BitVec.ofNat 384 (leNat (sha384 head).reverse)
    let sig := leBytes 96 (Config.signature p.key hash s.freeIdx).toNat
    let cert := if p.attested then [] else Config.certificate p.key
    let s := { s with freeIdx := s.freeIdx + 1 }
    (s.sendMessage via endpoint 6 (head ++ sig ++ cert)).setPart peer { p with attested := true }

/-- ATTESTATION_REQUEST. -/
def execAttestationRequest (peer : Nat) (args : AttestArgs) (s : State) :=
  s.onMessage peer args.req.endpoint (fun s =>
    some ((s.receive peer args.req.endpoint).attest peer args.req.endpoint peer args.nonce))

end Sys2Proof.Machine
end

