-- ==== Sys2Proof/Machine/System.lean ====
section
/-!
DEFINITION. The commands of system software (R301, R314): forming, resizing and resetting partitions (R314 to R317, R338), levels and
launches (R17, R21, R312, R313), planes and translations (R67, R281), the fabric's drain and table (R292, R293, R298, R412), limits and
power (R326).
-/

namespace Sys2Proof.Machine

/-! ## Panels (R315, R317) -/

/-- The panels of a mask. -/
def panelsOf (mask : Nat) : List Nat := (List.range 8).filter mask.testBit

/-- The panel of a key of the memory list. -/
def panelOfKey (a : Nat) : Nat :=
  if 2 ^ 44 ≤ a then (a - 2 ^ 44) / 2 ^ 23 / 5 else if 2 ^ 43 ≤ a then (a - 2 ^ 43) / 2 ^ 20 / 40 else panelOfPa a

/-- The panel of a memory channel (R372). -/
def panelOfChannel (chan : Nat) : Nat := if chan < 512 then chan / 64 else (chan - 512) / 2

/-- The unit of a memory channel as UKIND ++ UNUM (R336). -/
def unitOfChannel (chan : Nat) : Nat := if chan < 512 then 4 * 512 + chan / 16 else 5 * 512 + (chan - 512)

/-- The panel of a bobbin. -/
def panelOfBobbin (k : Nat) : Nat := if keyBolt k then keyUnit k / 5 else keyUnit k / 4

/-- The panel of a combining switch. -/
def panelOfSwitch (n : Nat) : Nat := if n < 40 then n / 5 else n - 40

/-- Lifts the fences of a panel's channels; a channel that still fails is fenced again (R372; DESIGN CHOICE, log 39). -/
def State.liftFences (s : State) (n : Nat) : State :=
  (s.fencedChannels.filter (fun c => panelOfChannel c == n)).foldl (fun s c =>
    let bad := Config.stillFails s.freeIdx
    { s with freeIdx := s.freeIdx + 1,
             fencedChannels := if bad then s.fencedChannels else s.fencedChannels.filter (· != c) }) s

/-- The memory of a panel is scrubbed to zero, with VALUE and RAW metadata (R317, R324). -/
def State.scrub (s : State) (n : Nat) : State :=
  { s with mem := s.mem.filter (fun c => panelOfKey c.1 != n),
           lineMeta := s.lineMeta.filter (fun x => panelOfKey (128 * x.1) != n) }

/-- A panel's units return to their reset state and its memory is scrubbed; it trains again (R317, steps 4 and 5). -/
def State.wipePanel (s : State) (n : Nat) : State :=
  let s := (s.liftFences n).scrub n
  let q := s.panel n
  let s := { s with
    looms := s.looms.filter (fun x => panelOf x.1 != n),
    bolts := s.bolts.filter (fun x => x.1 / 5 != n),
    bobbins := s.bobbins.filter (fun x => panelOfBobbin x.1 != n),
    waiters := s.waiters.filter (fun w => panelOfPa w.head != n),
    evals := s.evals.filter (fun (r : EvalRec) => panelOfPa r.head != n),
    tiles := s.tiles.filter (fun x => panelOfPa (tilePa x.1) != n),
    stages := s.stages.filter (fun x => x.1 / 5 != n),
    stash := s.stash.filter (fun (e : StashEntry) => e.panel != n),
    stashOps := s.stashOps.filter (fun (o : StashOp) => o.panel != n),
    combining := s.combining.filter (fun (e : Combining) => panelOfSwitch e.switch != n),
    requests := s.requests.filter (fun (r : Request) => panelOf r.loom != n),
    incoming := s.incoming.filter (fun (i : Incoming) => i.port / 2 != n),
    ports := s.ports.filter (fun x => x.1 / 2 != n) }
  s.setPanel n { q with service := if q.service = .down then .down else .training, calibrated := false, moved := [], tries := 0,
                        walks := [], walkQ := [], faulted := false }

/-- A panel leaves its partition: it is reset and unowned (R316). -/
def State.releasePanel (s : State) (n : Nat) : State :=
  let s := s.wipePanel n
  s.setPanel n { s.panel n with owner := none }

/-- Whether a panel offers service (R324); one that has lost its rails offers none (R409). -/
def State.offers (s : State) (n : Nat) : Bool :=
  !(s.panel n).faulted && ((s.panel n).service == .early || (s.panel n).service == .full)

/-! ## FORM and DISSOLVE (R314, R338) -/

/-- Whether an area of physical addresses lies in one panel of a mask. -/
def areaIn (mask : Nat) (lp : Bool) (base len : Nat) : Bool :=
  let inside (a : Nat) : Bool := if lp then inLpddr a else inHbm a
  len == 0 || (inside base && inside (base + len - 1) && panelOfPa base == panelOfPa (base + len - 1)
    && mask.testBit (panelOfPa base))

/-- Whether the areas of each panel lie in that panel, which the mask holds. -/
def areasOk (mask : Nat) (lp : Bool) (xs : List (Nat × (Nat × Nat))) : Bool :=
  xs.all (fun x => mask.testBit x.1 && areaIn mask lp x.2.1 x.2.2 && (x.2.2 == 0 || panelOfPa x.2.1 == x.1))

/-- Whether the arguments of FORM are valid: peer ID, areas and the accumulator count (R21, R60, R62, R314) (DEDUCED, log 120). -/
def formOk (f : FormArgs) : Bool :=
  f.panels != 0 && Nat.blt f.panels 256 && Nat.blt f.peer 0xFFF
  && f.level0 % 4096 == 0 && areaIn f.panels false f.level0 4096
  && f.counterTable % 16 == 0 && Nat.ble f.counterSize (65535 * 16) && areaIn f.panels false f.counterTable f.counterSize
  && f.ctxPool.all (fun x => f.panels.testBit x.1)
  && areasOk f.panels false f.stashHbm && areasOk f.panels true f.stashLp && areasOk f.panels false f.overflow
  && Nat.ble f.accCount 64 && f.accCount % 8 == 0

/-- The partition that FORM makes; its timing mode comes with FORM, until a COUNTER names that of a job: R15 lets the partition manager set
it at job start, and R314 names no argument for it (DESIGN CHOICE, log 152). -/
def formPartition (f : FormArgs) : Partition :=
  { panels := BitVec.ofNat 8 f.panels, level0 := f.level0, counterTable := f.counterTable, counterSize := f.counterSize,
    ctxPool := f.ctxPool, stashHbm := f.stashHbm, stashLp := f.stashLp, overflow := f.overflow, accCount := f.accCount,
    barrierLimit := f.barrierLimit, suspLimit := f.suspLimit, stallLimit := f.stallLimit, determinate := f.determinate,
    macs := f.macs, ips := f.ips, udps := f.udps, formLimits := (f.barrierLimit, f.suspLimit, f.stallLimit) }

/-- Whether the pages of the fault ring have W and MS (R338). -/
def State.ringOk (s : State) (p : Partition) : Bool :=
  ((p.ring + 2 ^ 20 + 63) :: (List.range 17).map (fun i => p.ring + 65536 * i)).all (fun va =>
    match s.translateNow p va with
    | some x => x.2.getLsbD attrW && x.2.getLsbD attrMS
    | none => false)

/-- The reply to FORM, on Agate's endpoint. -/
def State.formReply (s : State) (peer : Nat) (req : HostReq) (status : Nat) : State :=
  s.sendMessage 0xFFF req.endpoint 4 (leBytes 2 1 ++ leBytes 2 peer ++ leBytes 4 req.id.toNat ++ leBytes 2 status ++ leBytes 6 0)

/-- FORM: the panels are owned, the header of the fault ring is zero, and an attestation key is derived (R329). -/
def State.formWith (s : State) (req : HostReq) (f : FormArgs) : State :=
  let p := { formPartition f with key := Config.attestKey s.freeIdx }
  if req.zeros ≠ 0 then s.formReply f.peer req 2
  else if (panelsOf f.panels).any (fun n => (s.panel n).owner.isSome || !s.offers n) then s.formReply f.peer req 1
  else if !formOk f || (s.part? f.peer).isSome || !s.ringOk p then s.formReply f.peer req 2
  else
    let s := (panelsOf f.panels).foldl (fun s n => s.setPanel n { s.panel n with owner := some f.peer }) s
    let s := (s.setPart f.peer p).writeVa p p.ring (List.replicate 64 0)
    { s with endpoints := s.endpoints.filter (fun x => x.1 / 256 != f.peer), freeIdx := s.freeIdx + 1 }.formReply f.peer req 0

/-- FORM. -/
def execForm (req : HostReq) (args : FormArgs) (s : State) :=
  s.onMessage 0xFFF req.endpoint (fun s => some ((s.receive 0xFFF req.endpoint).formWith req args))

/-- Every pending command of a partition fails with status 1. -/
def State.failPending (s : State) (peer : Nat) (p : Partition) : State :=
  let s := p.preempts.foldl (fun s (x : Nat × HostReq × Bool) => s.reply peer 4 9 x.2.1 1) s
  let s := p.heldArms.foldl (fun s (h : HeldArm) => s.reply peer h.cls (if h.cls = 1 then 1 else 8) h.req 1) s
  let s := p.invalidations.foldl (fun s (x : HostReq × Nat × Nat) => s.reply peer 4 5 x.1 1) s
  let s := (p.drainReq.map (fun r => s.reply peer 4 0xB r 1)).getD s
  let s := (p.fabricNext.map (fun (x : HostReq × Fabric) => s.reply peer 4 0xC x.1 1)).getD s
  let s := (p.resizing.map (fun r => s.reply peer 4 3 r 1)).getD s
  let s := (p.arrWait.map (fun (x : HostReq × List W64) => s.reply peer 1 0x10 x.1 1)).getD s
  s.modPart peer (fun p => { p with
    preempts := [], heldArms := [], invalidations := [], drainReq := none, fabricNext := none, resizing := none, arrWait := none })

/-- Whether a partition has an armed launch; one that waits for full service is not armed (R17). -/
def Partition.armed (p : Partition) : Bool := !p.launches.isEmpty

/-- The panels of a partition. -/
def Partition.owned (p : Partition) : List Nat := panelsOf p.panels.toNat

/-- DISSOLVE: what is pending fails, and its panels are released (DEDUCED, log 117). -/
def State.dissolveWith (s : State) (peer : Nat) (req : HostReq) (p : Partition) : State :=
  if p.armed then s.reply peer 4 2 req 1
  else
    let s := p.owned.foldl State.releasePanel (s.failPending peer p)
    { s with parts := SMap.erase s.parts peer,
             keptCounters := s.keptCounters.filter (fun x => x.1 / 65536 != peer) }.reply peer 4 2 req 0

/-- DISSOLVE. -/
def execDissolve (peer : Nat) (req : HostReq) (s : State) :=
  s.onRequest peer 4 2 req (fun _ => true) (fun s p => s.dissolveWith peer req p)

/-! ## RESIZE (R316) -/

/-- Drops translations of a partition whose page meets a range (R67). -/
def State.dropTranslations (s : State) (peer va n : Nat) : State :=
  { s with bolts := s.bolts.map (fun (x : Nat × Bolt) =>
      (x.1, { x.2 with tlb := x.2.tlb.filter (fun (t : TlbEntry) => !(t.peer == peer && overlapLen t.va t.size va n != 0)) })) }

/-- Whether a plane holds anything in the stage blocks of a panel (R263, R316). -/
def Partition.planeNames (p : Partition) (n : Nat) : Bool :=
  (List.range 5).any (fun j => !zeroBytes p.plane (stageBlock n j) 512)

/-- The counters of a partition, each with its bits. -/
def State.counterBits (s : State) (p : Partition) : List (Nat × Nat) := p.counters.map (fun i => (i, (s.counter p i).toNat))

/-- Puts counters where the partition keeps them now. -/
def State.putCounters (s : State) (p : Partition) (xs : List (Nat × Nat)) : State :=
  xs.foldl (fun s x => s.setCounter p x.1 (.ofNat x.2)) s

/-- RESIZE: panels leave, reset; panels join, scrubbed and trained; the reply comes when they serve. The counters are kept, wherever their
table lies, and a plane that names a panel that has left must be replaced. -/
def State.resizeWith (s : State) (peer : Nat) (req : HostReq) (mask : Nat) (p : Partition) : State :=
  let old := p.panels.toNat
  let joins := (panelsOf mask).filter (fun n => !old.testBit n)
  let leaves := (panelsOf old).filter (fun n => !mask.testBit n)
  let p' := { p with panels := BitVec.ofNat 8 mask }
  if p.armed then s.reply peer 4 3 req 1
  else if 256 ≤ mask ∨ mask &&& old = 0 then s.reply peer 4 3 req 2
  else if joins.any (fun n => (s.panel n).owner.isSome) then s.reply peer 4 3 req 3
  else if joins.any (fun n => !s.offers n) then s.reply peer 4 3 req 1
  else if !s.ringOk p' then s.reply peer 4 3 req 2
  else
    let held := s.counterBits p
    let s := s.dropTranslations peer 0 (2 ^ 48)
    let s := leaves.foldl State.releasePanel s
    let s := joins.foldl (fun s n => let s := s.wipePanel n; s.setPanel n { s.panel n with owner := some peer }) s
    let bad := p.badBridges.filter (fun b => mask.testBit b.1 && mask.testBit b.2)
    let s := s.putCounters p' held
    s.setPart peer { p' with resizing := some req, badBridges := bad, planeStale := p.planeStale || leaves.any p.planeNames,
                             held := !bad.isEmpty || (panelsOf mask).any (fun n => (s.panel n).service == .down) }

/-- Whether a held partition may take a RESIZE: it excludes its failed panels and separates its failed bridges (R409, R410). -/
def State.freesHeld (s : State) (mask : Nat) (p : Partition) : Bool :=
  p.owned.all (fun n => (s.panel n).service != .down || !mask.testBit n)
  && p.badBridges.all (fun b => !(mask.testBit b.1 && mask.testBit b.2))

/-- RESIZE. -/
def execResize (peer : Nat) (req : HostReq) (panels : Nat) (s : State) :=
  s.onRequest peer 4 3 req (s.freesHeld panels) (fun s p => s.resizeWith peer req panels p)

/-! ## RESET (R317) -/

/-- Step 1 of a reset, which the host asks for or a device condition begins: every counter is cancelled and every pending command
fails. -/
def State.beginReset (s : State) (peer : Nat) (req : Option HostReq) : State :=
  match s.part? peer with
  | none => s
  | some p =>
    if p.resetReq.isSome then s
    else
      let s := p.counters.foldl (fun s i => s.cancelCounter peer 6 i) s
      (s.failPending peer p).modPart peer (fun p => { p with resetReq := some req })

/-- RESET. -/
def execReset (peer : Nat) (req : HostReq) (s : State) :=
  s.onRequest peer 4 4 req (fun _ => false) (fun s _ => s.beginReset peer (some req))

/-- Step 2: once no pick runs, requests of the partition are refused, its contexts stop for good and its ports drain. -/
def State.resetStop (s : State) (peer : Nat) (p : Partition) : State :=
  let s := { s with
    requests := s.requests.filter (fun (r : Request) => !(r.peer == peer && r.unsent)),
    looms := s.looms.map (fun (x : Nat × Loom) =>
      if p.panels.getLsbD (panelOf x.1) then
        (x.1, { x.2 with pick := { x.2.pick with act := .dead }, ev := { x.2.ev with act := .dead }, evalQ := [] }) else x) }
  s.setPart peer { p with resetting := true, drain := some (p.drain.getD 0) }

/-- The partition after the reset: as after FORM with an empty plane (DEDUCED, log 126). -/
def Partition.renewed (p : Partition) : Partition :=
  { panels := p.panels, level0 := p.level0, counterTable := p.counterTable, counterSize := p.counterSize, ctxPool := p.ctxPool,
    stashHbm := p.stashHbm, stashLp := p.stashLp, overflow := p.overflow, accCount := p.accCount, barrierLimit := p.formLimits.1,
    suspLimit := p.formLimits.2.1, stallLimit := p.formLimits.2.2, determinate := p.determinate, macs := p.macs, ips := p.ips,
    udps := p.udps, formLimits := p.formLimits, resets := p.resets + 1, attested := p.attested, key := p.key }

/-- Step 6: the reply; a bridge that fails to retrain, or a failed panel, leaves the partition held (R409, R410) (DEDUCED, log 119). -/
def State.resetDone (s : State) (peer : Nat) (p : Partition) (req : Option HostReq) : State :=
  let bad := (p.badBridges.zipIdx.filter (fun x => Config.stillFails (s.freeIdx + x.2))).map (·.1)
  let failed := p.owned.any (fun n => (s.panel n).service == .down)
  let s := { s with freeIdx := s.freeIdx + p.badBridges.length }
  let s := s.setPart peer { p.renewed with badBridges := bad, held := !bad.isEmpty || failed }
  match req with
  | some r => s.reply peer 4 4 r (if !bad.isEmpty then 3 else if failed then 1 else 0)
  | none => s

/-- The course of a reset: each step begins when the one before has ended (DEDUCED, log 118). -/
def State.settleReset (s : State) (peer : Nat) (p : Partition) (req : Option HostReq) : State :=
  if !p.resetting then (if p.picks.isEmpty then s.resetStop peer p else s)
  else if !p.scrubbed then
    if s.requests.any (fun (r : Request) => r.peer == peer) then s
    else (p.owned.foldl State.wipePanel s).setPart peer { p with scrubbed := true }
  else if p.owned.all (fun n => (s.panel n).service == .full || (s.panel n).service == .down) then s.resetDone peer p req
  else s

/-- Carries on every reset. -/
def State.settleResets (s : State) : State :=
  s.parts.foldl (fun s x => match (s.part? x.1).bind (fun p => p.resetReq.map (fun r => (p, r))) with
    | some (p, r) => s.settleReset x.1 p r
    | none => s) s

/-- Ends every RESIZE whose joining panels serve. -/
def State.settleResizes (s : State) : State :=
  s.parts.foldl (fun s x => match x.2.resizing with
    | some r =>
      if x.2.owned.all (fun n => (s.panel n).service != .training && (s.panel n).service != .reset) then
        (s.modPart x.1 (fun p => { p with resizing := none })).reply x.1 4 3 r 0
      else s
    | none => s) s

/-! ## INVALIDATE (R67) -/

/-- Whether spans of a partition's own address space meet a range of it. -/
def spansTouch (sps : List Span) (va n : Nat) : Bool :=
  sps.any (fun sp => sp.peer.isNone && Nat.blt sp.pa (2 ^ 43) && overlapLen sp.va sp.len va n != 0)

/-- Whether a context has an access, copy or tile operation translated in a range; `int` says which tiles are of integers. -/
def Ctx.touches (c : Ctx) (int : Nat → Bool) (va n : Nat) : Bool :=
  let tile (o : AccOp) : Nat := overlapLen o.caddr.toNat (tileBytes (if o.drain then int o.tile else o.value.getLsbD 16)) va n
  c.accs.any (fun a => spansTouch a.spans va n)
  || (c.copyLoad ++ c.copyStore).any (fun k => spansTouch (k.src ++ k.dst ++ k.barrier.toList) va n)
  || c.accOps.any (fun o => spansTouch (o.slots ++ o.rows ++ o.barrier.toList) va n || tile o != 0)

/-- Whether a task is translated in a range: its tile and its barrier. -/
def Task.touches (t : Task) (va n : Nat) : Bool :=
  spansTouch t.barrier.toList va n || overlapLen t.caddr.toNat (tileBytes t.int) va n != 0

/-- Whether a translation of a range may still be in use: by a walk, an access, a task, a stash command, a difference, or the slot table
of an OPEN tile (R67, R256). -/
def State.rangeBusy (s : State) (peer : Nat) (p : Partition) (va n : Nat) : Bool :=
  let int (k : Nat) : Bool := (s.tile k).int
  p.owned.any (fun i => (s.panel i).walks.any (fun k => k.peer == peer && overlapLen (65536 * k.page) 65536 va n != 0))
  || s.looms.any (fun x => p.panels.getLsbD (panelOf x.1) && (x.2.pick.touches int va n || x.2.ev.touches int va n))
  || s.bolts.any (fun x => x.2.recs.any (fun t => t.peer == peer && t.touches va n))
  || s.tiles.any (fun x => p.panels.getLsbD (panelOfPa (tilePa x.1)) && x.2.state == .open && spansTouch x.2.slotSpans va n)
  || s.stashOps.any (fun o => o.peer == peer && spansTouch (o.spans ++ o.barrier.toList) va n)
  || p.diffs.any (fun d => spansTouch d.barrier.toList va n)

/-- INVALIDATE: the translations are dropped at once; it ends when nothing uses them any more. -/
def execInvalidate (peer : Nat) (req : HostReq) (va : BitVec 64) (len : Nat) (s : State) :=
  s.onRequest peer 4 5 req (fun _ => false) (fun s _ =>
    (s.dropTranslations peer va.toNat len).modPart peer (fun p =>
      { p with invalidations := p.invalidations ++ [(req, va.toNat, len)] }))

/-- Tries the fences of a partition's queues again, which an INVALIDATE does (R404). -/
def State.retryFences (s : State) (p : Partition) : State :=
  p.stages.foldl (fun s x => (List.finRange 4).foldl (fun s q => (s.spillFenceRetry x.1 x.2 q).getD s) s) s

/-- Ends an INVALIDATE when its translations are out of use. -/
def State.settleInvalidation (s : State) (peer : Nat) (x : HostReq × Nat × Nat) : State :=
  match s.part? peer with
  | none => s
  | some p =>
    if s.rangeBusy peer p x.2.1 x.2.2 then s
    else
      let s := (s.dropTranslations peer x.2.1 x.2.2).retryFences p
      (s.modPart peer (fun p => { p with invalidations := p.invalidations.erase x })).reply peer 4 5 x.1 0

/-- Ends every INVALIDATE that may end. -/
def State.settleInvalidations (s : State) : State :=
  s.parts.foldl (fun s x => x.2.invalidations.foldl (fun s y => s.settleInvalidation x.1 y) s) s

/-! ## LOADPLANE (R281) -/

/-- LOADPLANE: the plane is checked, and becomes resident. -/
def State.loadPlaneAt (s : State) (peer : Nat) (req : HostReq) (va : Nat) (p : Partition) : State :=
  if p.armed then s.reply peer 4 6 req 1
  else
    match s.readVa p va 0x7100 with
    | none => s.reply peer 4 6 req 2
    | some bs =>
      if planeLE bs 4 4 ≠ planeCrc bs ∨ !planeOk bs then s.reply peer 4 6 req 2
      else (s.switchPlane peer { p with planeStale := false } bs).reply peer 4 6 req 0

/-- LOADPLANE. -/
def execLoadplane (peer : Nat) (req : HostReq) (va : BitVec 64) (s : State) :=
  s.onRequest peer 4 6 req (fun _ => false) (fun s p => s.loadPlaneAt peer req va.toNat p)

/-! ## Counters (R20 to R22, R301) -/

/-- COUNTER: creates a job, phase or step counter. That of a job sets the timing mode of the partition, for every later job too, while no
launch is armed (R15; DESIGN CHOICE, log 152). -/
def State.makeCounter (s : State) (peer : Nat) (req : HostReq) (level expect parent : Nat) (determinate : Bool) (p : Partition) : State :=
  let above := s.counter p parent
  let parentOk : Bool := if level = 4 then parent == 0xFFFF
    else p.counters.contains parent && above.level == level + 1 && above.state == 0
  if level < 2 ∨ 4 < level ∨ 2 ^ 32 ≤ expect ∨ !parentOk then s.reply peer 4 7 req 2
  else
    match s.freeCounter p with
    | none => s.reply peer 4 7 req 1
    | some i =>
      let s := if level = 4 ∧ p.launches.isEmpty then s.modPart peer (fun p => { p with determinate := determinate }) else s
      (s.newCounter peer i level expect parent).reply peer 4 7 req 0 (leBytes 2 i)

/-- COUNTER. -/
def execCounter (peer : Nat) (req : HostReq) (level : CounterLevel) (expect parent : Nat) (s : State) :=
  s.onRequest peer 4 7 req (fun _ => false) (fun s p => s.makeCounter peer req level.level expect parent level.determinate p)

/-- CANCEL (R24, R301). -/
def execCancel (peer : Nat) (req : HostReq) (index level : Nat) (s : State) :=
  s.onRequest peer 1 2 req (fun _ => false) (fun s p =>
    if p.counters.contains index && (s.counter p index).level == level then (s.cancelCounter peer 6 index).reply peer 1 2 req 0
    else s.reply peer 1 2 req 2)

/-- STATUS: the 16 bytes of a counter. -/
def execStatus (peer : Nat) (req : HostReq) (index : Nat) (s : State) :=
  s.onRequest peer 1 3 req (fun _ => false) (fun s p =>
    if p.counters.contains index then s.reply peer 1 3 req 0 (leBytes 16 (s.counter p index).toNat) else s.reply peer 1 3 req 2)

/-! ## ARRIVALS (R318) -/

/-- Posts host arrivals in order, as far as their queues take them; the rest waits. -/
def State.postHost (s : State) (peer : Nat) : List W64 → State × List W64
  | [] => (s, [])
  | o :: r =>
    let (panel, stage, a) := arrivalOf o 3
    if (s.stage panel stage).heldArr[(Fin.ofNat 4 a.queue : Fin 4)] ≠ [] then (s, o :: r)
    else
      match s.enqueue peer panel stage a with
      | (s, true) => s.postHost peer r
      | (s, false) => (s, o :: r)

/-- Posts what an ARRIVALS message has left to post, and replies when nothing is left. -/
def State.postWaiting (s : State) (peer : Nat) (req : HostReq) (ops : List W64) : State :=
  match s.postHost peer ops with
  | (s, []) => (s.modPart peer (fun p => { p with arrWait := none })).reply peer 1 0x10 req 0
  | (s, rest) => s.modPart peer (fun p => { p with arrWait := some (req, rest) })

/-- ARRIVALS. -/
def execArrivals (peer : Nat) (req : HostReq) (count payload : Nat) (ops : List (BitVec 64)) (s : State) :=
  s.onRequest peer 1 0x10 req (fun _ => false) (fun s p =>
    if count = 0 ∨ 64 < count ∨ payload ≠ 16 + 8 * count ∨ ops.length ≠ count ∨ !ops.all p.arrivalOk then s.reply peer 1 0x10 req 2
    else s.postWaiting peer req ops)

/-- Goes on with every ARRIVALS message that waits for room. -/
def State.settleArrivals (s : State) : State :=
  s.parts.foldl (fun s x => match x.2.arrWait with
    | some y => s.postWaiting x.1 y.1 y.2
    | none => s) s

/-! ## Launches (R17, R21, R314) -/

/-- Whether the format table of a stage names a withheld format (R14, R17). -/
def Partition.namesWithheld (p : Partition) (panel stage : Nat) : Bool :=
  (List.range 64).any (fun i =>
    let e := BitVec.ofNat 16 (planeLE p.plane (stageBlock panel stage + 0x100 + 2 * i) 2)
    withheld false (entAFMT e) || withheld false (entBFMT e) || withheld false (entOFMT e) || entSCL e)

/-- Whether a launch must wait for full service. -/
def State.mustWait (s : State) (p : Partition) (a : ArmArgs) : Bool :=
  p.namesWithheld a.panel a.stage && (a.gangs.flatten).any (fun b => (s.panel (b / 5)).service != .full)

/-- Arms a launch: its counter, its stage and its gangs; the reply is of the message's class and code (DEDUCED, log 122). -/
def State.armNow (s : State) (peer : Nat) (h : HeldArm) (p : Partition) : State :=
  let code := if h.cls = 1 then 1 else 8
  let a := h.args
  match s.freeCounter p with
  | none => s.reply peer h.cls code h.req 1
  | some i =>
    let s := s.newCounter peer i 1 (p.param a.panel a.stage 0x30 4) a.step
    let s := s.modPart peer (fun p => { p with launches := p.launches ++
      [{ counter := i, panel := a.panel, stage := a.stage, gangs := a.gangs }] })
    (s.armStage p a.panel a.stage).reply peer h.cls code h.req 0 (leBytes 2 i)

/-- Why a launch is refused, as a status, or 0. -/
def State.armStatus (s : State) (p : Partition) (a : ArmArgs) : Nat :=
  let bolts := a.gangs.flatten
  let taken := p.launches.flatMap (·.gangs.flatten) ++ p.heldArms.flatMap (·.args.gangs.flatten)
  let step := s.counter p a.step
  if !p.hasStage a.panel a.stage ∨ a.gangs = [] ∨ a.gangs.contains [] ∨ !bolts.all (Nat.blt · 40) then 2
  else if !bolts.all (fun b => p.panels.getLsbD (b / 5)) then 3
  else if !decide bolts.Nodup ∨ !p.counters.contains a.step ∨ step.level ≠ 2 ∨ step.state ≠ 0
    ∨ p.param a.panel a.stage 0x30 4 = 0 then 2
  else if bolts.any taken.contains ∨ p.powerMode = 2 ∨ p.planeStale = true ∨ (s.freeCounter p).isNone
    ∨ (s.panel a.panel).faulted ∨ bolts.any (fun b => (s.panel (b / 5)).faulted) then 1
  else 0

/-- ARM and LAUNCH. -/
def State.armWith (s : State) (peer : Nat) (h : HeldArm) (p : Partition) : State :=
  let n := s.armStatus p h.args
  if n ≠ 0 then s.reply peer h.cls (if h.cls = 1 then 1 else 8) h.req n
  else if s.mustWait p h.args then s.setPart peer { p with heldArms := p.heldArms ++ [h] }
  else s.armNow peer h p

/-- ARM. -/
def execArm (peer : Nat) (req : HostReq) (args : ArmArgs) (s : State) :=
  s.onRequest peer 4 8 req (fun _ => false) (fun s p => s.armWith peer ⟨req, 4, args⟩ p)
/-- LAUNCH. -/
def execLaunch (peer : Nat) (req : HostReq) (args : ArmArgs) (s : State) :=
  s.onRequest peer 1 1 req (fun _ => false) (fun s p => s.armWith peer ⟨req, 1, args⟩ p)

/-- Arms the launches that wait for full service and need not wait any more (R17). -/
def State.settleHeldArms (s : State) : State :=
  s.parts.foldl (fun s x => x.2.heldArms.foldl (fun s h =>
    match s.part? x.1 with
    | none => s
    | some p =>
      if s.mustWait p h.args then s
      else
        let p := { p with heldArms := p.heldArms.erase h }
        (s.setPart x.1 p).armWith x.1 h p) s) s

/-- PREEMPT (R45, R312): the request reaches every loom of the launch's running picks. -/
def State.preemptWith (s : State) (peer : Nat) (req : HostReq) (launch : Nat) (p : Partition) : State :=
  match p.launches.find? (·.counter == launch) with
  | none => s.reply peer 4 9 req 2
  | some l =>
    if l.parked ∨ l.preempting then s.reply peer 4 9 req 1
    else
      let s := ((p.running launch).flatMap (·.looms)).foldl (fun s n =>
        let c := s.ctxAt n false
        if c.act = .running ∨ c.act = .stopped then s.setCtxAt n false c.requestPreempt else s) s
      s.modPart peer (fun p =>
        { p.modLaunch launch (fun l => { l with preempting := true }) with preempts := p.preempts ++ [(launch, req, false)] })

/-- PREEMPT. -/
def execPreempt (peer : Nat) (req : HostReq) (launch _limit : Nat) (s : State) :=
  s.onRequest peer 4 9 req (fun _ => false) (fun s p => s.preemptWith peer req launch p)

/-- RESUME (R313): every parked loom reloads its area, and decisions resume. -/
def State.resumeWith (s : State) (peer : Nat) (req : HostReq) (launch : Nat) (p : Partition) : State :=
  match p.launches.find? (·.counter == launch) with
  | none => s.reply peer 4 0xA req 2
  | some l =>
    if !l.parked then s.reply peer 4 0xA req 1
    else
      let s := ((p.running launch).flatMap (·.parked)).foldl State.reload s
      let s := s.modPart peer (fun p =>
        { p.modLaunch launch (fun l => { l with parked := false }) with
          picks := p.picks.map (fun k => if k.launch = launch then { k with parked := [] } else k) })
      (s.setStage l.panel l.stage { s.stage l.panel l.stage with due := true }).reply peer 4 0xA req 0

/-- RESUME. -/
def execResume (peer : Nat) (req : HostReq) (launch : Nat) (s : State) :=
  s.onRequest peer 4 0xA req (fun _ => false) (fun s p => s.resumeWith peer req launch p)

/-! ## DRAIN and FABRIC (R292, R293, R298, R412) -/

/-- DRAIN: requests to peers are held from now on; one that has ended may be begun again. -/
def execDrain (peer : Nat) (req : HostReq) (phase : Nat) (s : State) :=
  s.onRequest peer 4 0xB req (fun _ => false) (fun s p =>
    if p.drain.isSome ∧ !p.drained then s.reply peer 4 0xB req 1
    else if 2 ^ 32 ≤ phase then s.reply peer 4 0xB req 2
    else (p.owned.flatMap (fun n => [2 * n, 2 * n + 1])).foldl (fun s q => s.setPort q { s.port q with drainSent := false }) s |>.setPart peer { p with drain := some (BitVec.ofNat 32 phase), drainReq := some req, drained := false })

/-- The ports of a partition that are up. -/
def State.upPorts (s : State) (p : Partition) : List Nat :=
  (p.owned.flatMap (fun n => [2 * n, 2 * n + 1])).filter (fun q => (s.port q).up)

/-- A port sends its DRAIN flit once every request that it has carried, for its own partition or for others, has had its reply. -/
def State.sendDrain (s : State) (peer q : Nat) : State :=
  let p := s.port q
  if p.drainSent ∨ !p.carried.isEmpty ∨ s.requests.any (fun (r : Request) => r.peer == peer && r.port == q && !r.unsent) then s
  else
    let s := s.sendFlit q kDrain { noFlit with speer := BitVec.ofNat 12 peer }
    s.setPort q { s.port q with drainSent := true }

/-- Drains the ports of a partition; when all that are up are quiescent the command is answered, and the ports of a parked one go
dark (R298, R326, R399, R412) (DEDUCED, log 128). -/
def State.settleDrain (s : State) (peer : Nat) (p : Partition) : State :=
  let s := (s.upPorts p).foldl (fun s q => s.sendDrain peer q) s
  if !(s.upPorts p).all (fun q => (s.port q).drainSent && (s.port q).drainGot) then s
  else
    let s := if p.powerMode = 2 then
        (s.upPorts p).foldl (fun s q => s.setPort q { errors := (s.port q).errors, errWaves := (s.port q).errWaves }) s else s
    let s := s.setPart peer { p with drained := true, drainReq := none }
    (p.drainReq.map (fun r => s.reply peer 4 0xB r 0)).getD s

/-- Carries on every drain. -/
def State.settleDrains (s : State) : State :=
  s.parts.foldl (fun s x => if x.2.drain.isNone ∨ x.2.drained ∨ x.2.fabricNext.isSome then s else s.settleDrain x.1 x.2) s

/-- A channel entry of a fabric table; an entry of zeros is no channel (DEDUCED, log 127). -/
def parseChannel (bs : List Byte) (off g : Nat) : Option Channel :=
  let f (o n : Nat) : Nat := planeLE bs (off + o) n
  let zero := zeroBytes bs (off + 3) 1 && zeroBytes bs (off + 12) 4 && zeroBytes bs (off + 24) 8
  if zeroBytes bs off 32 then some {}
  else if zero && Nat.blt (f 0 2) g && Nat.blt (f 2 1) 64 && Nat.blt 0 (f 4 4) && Nat.ble (f 4 4) 65536 && Nat.blt 0 (f 8 4)
    && f 8 4 % 128 == 0 && Nat.ble (f 8 4) (2 ^ 28) then
    some { index := f 0 2, far := f 2 1, slots := f 4 4, slotSize := f 8 4, base := f 16 8 }
  else none

/-- A member entry. -/
def parseMember (bs : List Byte) (m : Nat) : Option Member :=
  let off := 0x1100 + 32 * m
  let f (o n : Nat) : Nat := planeLE bs (off + o) n
  if Nat.blt (f 0 2) 0xFFF && zeroBytes bs (off + 2) 2 && Nat.ble (f 4 4) 1048575 && zeroBytes bs (off + 16) 16 then
    some { peer := f 0 2, lat := f 4 4, swbase := f 8 8 }
  else none

/-- The entry of an owned port. -/
def parsePort (bs : List Byte) (g q : Nat) : Option (Nat × Nat × Nat) :=
  let off := 0x40 + 8 * q
  let role := planeLE bs off 1
  let idx := planeLE bs (off + 2) 2
  if 9 < role ∨ !zeroBytes bs (off + 1) 1 ∨ !zeroBytes bs (off + 4) 4 ∨ (7 ≤ role ∧ g ≤ idx) then none else some (q, role, idx)

/-- A fabric table as R292 lays it out; none if it is malformed, names an unassigned ROLE (R293) or another partition at SELF. -/
def parseFabric (bs : List Byte) (peer : Nat) (ports : List Nat) : Option Fabric := do
  let f (o n : Nat) : Nat := planeLE bs o n
  let g := f 4 2
  let d := (f 0xA 2, f 0xC 2, f 0xE 2)
  let nd := f 8 1
  guard (nd == 1 || nd == 2 || nd == 3)
  guard (d.1 * d.2.1 * d.2.2 == g && (nd == 3 || d.2.2 == 1) && (2 ≤ nd || d.2.1 == 1))
  guard (Nat.blt (f 6 2) g && zeroBytes bs 9 1 && zeroBytes bs 0x10 0x30 && zeroBytes bs 0xC0 0x40)
  let roles ← ports.mapM (parsePort bs g)
  let send ← (List.range 64).mapM (fun i => parseChannel bs (0x100 + 32 * i) g)
  let recv ← (List.range 64).mapM (fun i => parseChannel bs (0x900 + 32 * i) g)
  let members ← (List.range g).mapM (parseMember bs)
  guard ((members[f 6 2]?).map (·.peer) == some peer)
  return { phase := BitVec.ofNat 32 (f 0 4), self := f 6 2, dims := d, roles := roles, send := send, recv := recv, members := members,
           raw := bs }

/-- The fabric table at an address. -/
def State.fabricAt (s : State) (peer : Nat) (p : Partition) (va : Nat) : Option Fabric :=
  match s.readVa p (va + 4) 2 with
  | none => none
  | some g =>
    if leNat g = 0 ∨ 4096 < leNat g then none
    else (s.readVa p va (0x1100 + 32 * leNat g)).bind (fun bs =>
      parseFabric bs peer (p.owned.flatMap (fun n => [2 * n, 2 * n + 1])))

/-- FABRIC: the owned ports go dark and those that the table uses relock. -/
def State.fabricWith (s : State) (peer : Nat) (req : HostReq) (va : Nat) (p : Partition) : State :=
  if !p.drained then s.reply peer 4 0xC req 1
  else
    match s.fabricAt peer p va with
    | none => s.reply peer 4 0xC req 2
    | some t =>
      let s := t.roles.foldl (fun s (r : Nat × Nat × Nat) =>
        let o := s.port r.1
        let s := s.setPort r.1 { errors := o.errors, errWaves := o.errWaves }
        if r.2.1 = 0 then s
        else s.linkFlit r.1 kRelock { noFlit with speer := BitVec.ofNat 12 peer, opa := t.phase.setWidth 64 }) s
      s.setPart peer { p with drained := false, fabricNext := some (req, t) }

/-- FABRIC. -/
def execFabric (peer : Nat) (req : HostReq) (va : BitVec 64) (s : State) :=
  s.onRequest peer 4 0xC req (fun _ => false) (fun s p => s.fabricWith peer req va.toNat p)

/-- The peer of a channel entry. -/
def Fabric.channelPeer (t : Fabric) (c : Option Channel) : Option Nat :=
  c.bind (fun c => if c.slots = 0 then none else (t.members[c.index]?).map (·.peer))

/-- Whether a channel goes on under the new table: its peer stays the same. -/
def Partition.channelStays (p : Partition) (t : Fabric) (recv : Bool) (i : Nat) : Bool :=
  let of (t : Fabric) : Option Nat := t.channelPeer (if recv then t.recv[i]? else t.send[i]?)
  (of t).isSome && (p.fabric.bind of) == of t

/-- Step 4 of R298: the new table takes effect, and the requests that were held go by it. -/
def State.resumeFabric (s : State) (peer : Nat) (p : Partition) (req : HostReq) (t : Fabric) : State :=
  let s := s.setPart peer { p with
    fabric := some t, fabricNext := none, drain := none, drained := false, drainReq := none, cong := [],
    sendCh := (p.sendCh.filter (fun x => p.channelStays t false x.1)).map (fun (x : Nat × SendCh) => (x.1, { x.2 with held := false })),
    recvCh := p.recvCh.filter (fun x => p.channelStays t true x.1) }
  let s := (s.requests.filter (fun (r : Request) => r.peer == peer && r.unsent)).foldl (fun s r =>
    match s.transmit r with
    | some (s, q) => { s with requests := s.requests.map (fun (x : Request) =>
        if x.rtag = r.rtag then { r with port := q, unsent := false } else x) }
    | none => s) s
  s.reply peer 4 0xC req 0

/-- Ends every FABRIC whose ports have relocked, or have been found to stay dark. -/
def State.settleFabrics (s : State) : State :=
  s.parts.foldl (fun s x => match x.2.fabricNext with
    | some (req, t) =>
      if t.roles.all (fun r => r.2.1 == 0 || (s.port r.1).relockIn.isSome) then s.resumeFabric x.1 x.2 req t else s
    | none => s) s

/-! ## LIMITS and POWER (R314, R326) -/

/-- LIMITS. -/
def execLimits (peer : Nat) (req : HostReq) (barrier suspension stall : Nat) (s : State) :=
  s.onRequest peer 4 0xD req (fun _ => false) (fun s p =>
    (s.setPart peer { p with barrierLimit := barrier, suspLimit := suspension, stallLimit := stall }).reply peer 4 0xD req 0)

/-- A panel that leaves Parked is FULL (R326). -/
def State.unparkPanel (s : State) (n : Nat) : State :=
  let q := s.panel n
  if q.service = .early then s.setPanel n { q with service := .full, calibrated := true, moved := [] } else s

/-- POWER: Parked drains the ports; leaving it returns the panels to full service. -/
def State.powerWith (s : State) (peer : Nat) (req : HostReq) (mode budget : Nat) (p : Partition) : State :=
  let n := p.owned.length
  if 2 < mode ∨ (mode = 1 ∧ (budget < 250 * n ∨ 750 * n < budget)) then s.reply peer 4 0xE req 2
  else if mode = 2 ∧ p.armed then s.reply peer 4 0xE req 1
  else
    let s := if p.powerMode = 2 ∧ mode ≠ 2 then p.owned.foldl State.unparkPanel s else s
    let p := { p with powerMode := mode, budget := if mode = 1 then budget else 0, duty := if mode = 1 then p.duty else 16,
                      drain := if mode = 2 then some (p.drain.getD 0) else p.drain, drained := if mode = 2 then false else p.drained }
    (s.setPart peer p).reply peer 4 0xE req 0

/-- POWER. -/
def execPower (peer : Nat) (req : HostReq) (mode budget : Nat) (s : State) :=
  s.onRequest peer 4 0xE req (fun _ => false) (fun s p => s.powerWith peer req mode budget p)

end Sys2Proof.Machine
end

