-- ==== Sys2Proof/Machine/Agate.lean ====
section
/-!
DEFINITION. The Agate die and the conditions of the module (R323 to R328, R369, R374, R409 to R411): bring-up, duty, panel, bridge and
gate faults, and the upkeep of memory.
-/

namespace Sys2Proof.Machine

/-- The unit of Agate and the power manager (R336). -/
def agateUnit : Nat := 12 * 512

/-! ## Bring-up (R323 to R325) -/

/-- MODULE_RESET (R323): everything is as after reset; panel 0 gets its rails if the firmware verifies. The tables of retired
pages are cleared with the rest (DEDUCED, log 132). -/
def State.moduleReset (s : State) (ok : Bool) : State :=
  let t := { State.reset with freeIdx := s.freeIdx, out := s.out, agate := { verified := ok, failed := !ok } }
  if ok then t.setPanel 0 { service := .training } else t

/-- MODULE_RESET. -/
def execModuleReset (signatureOk : Bool) (s : State) := s.event (some (s.moduleReset signatureOk))

/-- Agate goes on with the next panel that it has not brought up, unless one that it is bringing up is in training (R324). -/
def State.nextPanel (s : State) : State :=
  if (List.range 8).any (fun n => !(s.panel n).broughtUp && (s.panel n).service == .training) then s
  else
    match (List.range 8).find? (fun n => (s.panel n).service == .reset) with
    | some n => s.setPanel n { s.panel n with service := .training }
    | none => s

/-- The turn of a panel has ended: it offers service or has failed. -/
def State.turnEnds (s : State) (n : Nat) : State := (s.setPanel n { s.panel n with broughtUp := true }).nextPanel

/-- The record of R324 of a panel that has failed (DESIGN CHOICE, log 40). -/
def State.failedRecord (s : State) : State :=
  s.moduleRecord agateUnit
    { cls := (Config.failedCause.extractLsb' 8 8).toNat, cause := (Config.failedCause.extractLsb' 0 8).toNat, precise := false }

/-- A panel enters FAILED without a panel fault: the record of R324, the next panel's turn, and the partition that owns it is held
(DESIGN CHOICE, log 40). -/
def State.panelFailed (s : State) (n : Nat) : State :=
  let q := s.panel n
  let s := ((s.setPanel n { q with service := .down }).turnEnds n).failedRecord
  match q.owner with
  | some peer =>
    match s.part? peer with
    | some p =>
      if p.resetReq.isSome ∨ p.held then s
      else ((s.setPart peer { p with held := true }).cancelJob peer).unitRecord peer agateUnit
        { cls := 0x22, cause := 4, d0 := p.panels.toNat, d1 := n, precise := false }
    | none => s
  | none => s

/-- Training or calibration of a panel has failed: the third failure makes it FAILED (R324). -/
def State.bringUpFails (s : State) (n : Nat) : State :=
  let q := s.panel n
  if 2 ≤ q.tries then s.panelFailed n else s.setPanel n { q with tries := q.tries + 1 }

/-- TRAINING_END (R324): early service, with the memory scrubbed (that of an owned panel was when its training began), and the next panel. -/
def State.trainingEnd (s : State) (n : Nat) (ok : Bool) : Option State :=
  let q := s.panel n
  if 8 ≤ n ∨ q.service ≠ .training ∨ q.faulted = true then none
  else if ok then some (((if q.owner.isNone then s.scrub n else s).setPanel n { q with service := .early }).turnEnds n)
  else some (s.bringUpFails n)

/-- TRAINING_END. -/
def execTrainingEnd (panel : Nat) (ok : Bool) (s : State) := s.event (s.trainingEnd panel ok)

/-- Whether a loom belongs to an armed gang. -/
def State.loomArmed (s : State) (loom : Nat) : Bool :=
  ((s.panel (panelOf loom)).owner.bind s.part?).any (fun p => p.launches.any (fun l => l.gangs.any (fun g => g.contains (boltOf loom))))

/-- A loom has moved to full service; the panel is FULL with its last (R325). -/
def State.loomMoves (s : State) (loom : Nat) : State :=
  let n := panelOf loom
  let q := s.panel n
  let moved := q.moved ++ [loom]
  s.setPanel n (if moved.length = 40 then { q with service := .full, moved := [] } else { q with moved := moved })

/-- CALIBRATION_END (R325). -/
def State.calibrationEnd (s : State) (n : Nat) (ok : Bool) : Option State :=
  let q := s.panel n
  if 8 ≤ n ∨ q.service ≠ .early ∨ q.calibrated = true ∨ q.faulted = true then none
  else if ok then some (s.setPanel n { q with calibrated := true })
  else some (s.bringUpFails n)

/-- CALIBRATION_END. -/
def execCalibrationEnd (panel : Nat) (ok : Bool) (s : State) := s.event (s.calibrationEnd panel ok)

/-- LOOM_SERVICE_MOVE (R325): its gang is at a pick boundary and its evaluator context is idle. -/
def State.loomServiceMove (s : State) (loom : Nat) : Option State := if s.moveDue loom then some (s.loomMoves loom) else none

/-- LOOM_SERVICE_MOVE. -/
def execLoomServiceMove (loom : Nat) (s : State) := s.event (s.loomServiceMove loom)

/-- The looms of no armed gang move at once (R325). -/
def State.settleMoves (s : State) : State :=
  (List.range 320).foldl (fun s l =>
    let q := s.panel (panelOf l)
    if q.service = .early ∧ q.calibrated = true ∧ l ∉ q.moved ∧ s.loomArmed l = false then s.loomMoves l else s) s

/-! ## Duty (R327, R328) -/

/-- CAPPED_MEASURE (R327): the common duty follows the measured power by one step; a budget that duty 1/16 does not keep is recorded
once per second, which is 100,000 measures; `capSince` are those still to come before another record (DEDUCED, log 116). -/
def State.cappedMeasure (s : State) (peer watts : Nat) : Option State :=
  (s.part? peer).bind (fun p =>
    if p.powerMode ≠ 1 then none
    else
      let p := { p with capSince := p.capSince - 1 }
      if p.budget < watts then
        if 1 < p.duty then some (s.setPart peer { p with duty := p.duty - 1 })
        else if p.capSince ≠ 0 then some (s.setPart peer p)
        else some ((s.setPart peer { p with capSince := 100000 }).unitRecord peer agateUnit { cls := 0x31, cause := 1, precise := false })
      else if watts < p.budget ∧ p.duty < 16 then some (s.setPart peer { p with duty := p.duty + 1 })
      else some (s.setPart peer p))

/-- CAPPED_MEASURE. -/
def execCappedMeasure (peer watts : Nat) (s : State) := s.event (s.cappedMeasure peer watts)

/-- The duty of a gang: the lowest of its partition's and of each panel it spans (R51, R327, R328). It slows
engines down, which no other state shows (DESIGN CHOICE, log 133). -/
def State.dutyOf (s : State) (p : Partition) (gang : List Nat) : Nat :=
  (gang.map (fun b => (s.panel (b / 5)).thermal)).foldl Nat.min (if p.powerMode = 1 then p.duty else 16)

/-! ## Panel faults (R409) -/

/-- The part of a loom of a failed panel: its pick retires faulted with the work it has queued, and its evaluation fails. -/
def State.loomFails (s : State) (loom : Nat) : State :=
  let dropWork (c : Ctx) : Ctx := { c with copyLoad := [], copyStore := [], accOps := [], faulted := true }
  let c := s.ctxAt loom false
  let s := if c.act = .idle ∨ c.act = .dead then s else (s.setCtxAt loom false (dropWork c)).retireLoom loom
  let e := s.ctxAt loom true
  let s := if e.act = .idle ∨ e.act = .dead then s else (s.setCtxAt loom true (dropWork e)).retireEval loom
  let s := s.setLoom loom { s.loom loom with evalQ := [] }
  { s with evals := s.evals.map (fun (r : EvalRec) => if r.loom = some loom ∧ !r.filled ∧ r.failing = 0 then { r with failing := 1 } else r) }

/-- Every channel of a panel. -/
def channelsOf (n : Nat) : List Nat := (List.range 64).map (64 * n + ·) ++ [512 + 2 * n, 512 + 2 * n + 1]

/-- The rails of a panel are gone: its engines stop with their queued work, and its memory answers nobody. -/
def State.panelStops (s : State) (n : Nat) : State :=
  let s := ((List.range 40).map (40 * n + ·)).foldl State.loomFails s
  let s := { s with
    bolts := s.bolts.map (fun (x : Nat × Bolt) => if x.1 / 5 = n then (x.1, { x.2 with recs := [], dec := [], decIn := [], decTaken := [], decOut := [] }) else x),
    stashOps := s.stashOps.filter (fun (o : StashOp) => o.panel != n),
    fencedChannels := (channelsOf n).filter (fun c => !s.fencedChannels.contains c) ++ s.fencedChannels }
  s.setPanel n { s.panel n with faulted := true, walks := [], walkQ := [] }

/-- A partition with a panel that takes its third fault within 24 hours is held, and answers so (DEDUCED, log 124). -/
def State.holdFor (s : State) (peer n : Nat) : State :=
  match s.part? peer with
  | some p => (s.setPart peer { p with held := true }).unitRecord peer agateUnit
      { cls := 0x22, cause := 4, d0 := p.panels.toNat, d1 := n, precise := false }
  | none => s

/-- The course of a panel fault, with the record that names it. -/
def State.panelFails (s : State) (n : Nat) (f : FaultInfo) : State :=
  let q := s.panel n
  let recent := Nat.min q.trips (Config.recentFaults s.freeIdx)
  let s := { s with freeIdx := s.freeIdx + 1 }
  let s := match q.owner with
    | some peer =>
      let s := s.modPart peer (fun p => { p with rollBack := if p.diffing ∧ p.rollBack.isNone then some (3, n) else p.rollBack })
      s.jobRecord peer agateUnit f
    | none => s
  let s := s.panelStops n
  let s := s.setPanel n { s.panel n with trips := q.trips + 1, service := if 2 ≤ recent then .down else q.service }
  if recent < 2 then s
  else
    match q.owner with
    | some peer => (s.turnEnds n).holdFor peer n
    | none => (s.turnEnds n).failedRecord

/-- Whether a panel has its rails and works. -/
def State.powered (s : State) (n : Nat) : Bool :=
  Nat.blt n 8 && !(s.panel n).faulted && (s.panel n).service != .reset && (s.panel n).service != .down

/-- PANEL_FAULT: a thermal trip has a module-level record as well. -/
def State.panelFault (s : State) (n reason : Nat) : Option State :=
  if !s.powered n ∨ reason = 0 ∨ 4 < reason then none
  else
    let s := if reason = 1 then s.moduleRecord agateUnit { cls := 0x31, cause := 2, precise := false } else s
    some (s.panelFails n { cls := 0x22, cause := 1, d0 := n, d1 := reason, precise := false })

/-- PANEL_FAULT. -/
def execPanelFault (panel reason : Nat) (s : State) := s.event (s.panelFault panel reason)

/-- THERMAL_STEP (R328): the hottest sensor of a panel lowers or raises its duty by one step, and at 115 °C the panel trips. -/
def State.thermalStep (s : State) (n hottest : Nat) : Option State :=
  let q := s.panel n
  if 8 ≤ n then none
  else if 115 ≤ hottest ∧ s.powered n = true then s.panelFault n 1
  else if 105 ≤ hottest then some (s.setPanel n { q with thermal := Nat.max 1 (q.thermal - 1) })
  else if hottest ≤ 100 then some (s.setPanel n { q with thermal := Nat.min 16 (q.thermal + 1) })
  else some s

/-- THERMAL_STEP. -/
def execThermalStep (panel hottest : Nat) (s : State) := s.event (s.thermalStep panel hottest)

/-- PANEL_FAULT_CLEAR: the partition is reset; a panel that nobody owns trains again. -/
def State.panelFaultClear (s : State) (n : Nat) : Option State :=
  let q := s.panel n
  if !q.faulted ∨ q.service = .down then none
  else
    match q.owner with
    | some peer => some ((s.setPanel n { q with faulted := false }).beginReset peer none)
    | none => some (s.wipePanel n)

/-- PANEL_FAULT_CLEAR. -/
def execPanelFaultClear (panel : Nat) (s : State) := s.event (s.panelFaultClear panel)

/-- MODULE_INPUT_FAULT (R409): a module-level record, and every partition's job is cancelled. -/
def State.moduleInputFault (s : State) : State :=
  let s := s.moduleRecord agateUnit
    { cls := (Config.inputCause.extractLsb' 8 8).toNat, cause := (Config.inputCause.extractLsb' 0 8).toNat, precise := false }
  s.parts.foldl (fun s x => s.cancelJob x.1) s

/-- MODULE_INPUT_FAULT: a module whose firmware did not verify does nothing else (R323). -/
def execModuleInputFault (s : State) := s.event (if s.agate.failed then none else some s.moduleInputFault)

/-- The configuration image does not verify after a module reset: a record of class boot and cause CONFIG says so, and none of it is
applied (R323, R337; DESIGN CHOICE, log 131). -/
def State.badConfig (s : State) : Option State :=
  if s.agate.verified && (s.panel 0).service == .training && !(s.panel 0).broughtUp then
    some (s.moduleRecord agateUnit { cls := 0x30, cause := 2, precise := false })
  else none

/-! ## Bridges and gates (R410, R411) -/

/-- The number of the bridge between two panels (R336) (DESIGN CHOICE, log 115). -/
def bridgeNumber (n m : Nat) : Nat := 8 * n + m

/-- Whether spans of a loom's panel go over the bridge to another panel. -/
def crosses (loom n m : Nat) (sps : List Span) : Bool :=
  sps.any (fun sp => sp.peer.isNone && Nat.blt sp.pa (2 ^ 43)
    && ((panelOf loom == n && panelOfPa sp.pa == m) || (panelOf loom == m && panelOfPa sp.pa == n)))

/-- Every access, copy and operation on a tile of a context across the bridge fails. -/
def State.bridgeFailsFor (s : State) (n m : Nat) (f : FaultInfo) (loom : Nat) (ev : Bool) : State :=
  let c := s.ctxAt loom ev
  let s := (c.accs.filter (fun a => crosses loom n m a.spans)).foldl (fun s a => s.failAccess loom ev a f) s
  let s := ((c.copyLoad ++ c.copyStore).filter (fun k => crosses loom n m (k.src ++ k.dst))).foldl (fun s k => s.failCopy loom ev k f) s
  (c.accOps.filter (fun o => crosses loom n m ({ pa := tilePa o.tile, va := 0, len := 1, off := 0 } :: o.slots ++ o.rows))).foldl
    (fun s o => s.failAccOp loom ev o f) s

/-- The loom that a contribution came from. -/
def Contribution.loomOf (k : Contribution) : Option Nat := (k.task.map (fun x => 8 * x.1)).or (k.cmd.map (·.1))

/-- Every contribution that waits at a tile for its merge across the bridge fails. -/
def State.bridgeFailsAt (s : State) (n m : Nat) (f : FaultInfo) (tile : Nat) : State :=
  let across (k : Contribution) : Bool := k.loomOf.any (fun l => crosses l n m [{ pa := tilePa tile, va := 0, len := 1, off := 0 }])
  let t := s.tile tile
  (t.held.filter across).foldl (fun s k => s.refuse k f) (s.setTile tile { t with held := t.held.filter (fun k => !across k) })

/-- BRIDGE (R410): the bridge between two owned panels fails; its requesters fault, the job is cancelled and the partition is reset. -/
def State.bridgeFails (s : State) (n m reason : Nat) : Option State :=
  match (s.panel n).owner with
  | none => none
  | some peer =>
    if n = m ∨ 8 ≤ n ∨ 8 ≤ m ∨ (s.panel m).owner ≠ some peer ∨ 1 < reason then none
    else
      let b := bridgeNumber n m
      let f : FaultInfo := { cls := 0x22, cause := 2, d0 := b, d1 := reason, precise := false, src := 4, unit := some (11 * 512 + b) }
      let s := s.looms.foldl (fun s x => (s.bridgeFailsFor n m f x.1 false).bridgeFailsFor n m f x.1 true) s
      let s := s.tiles.foldl (fun s x => s.bridgeFailsAt n m f x.1) s
      let s := s.jobRecord peer (11 * 512 + b) f
      let s := s.modPart peer (fun p => { p with badBridges := if p.badBridges.contains (n, m) then p.badBridges else (n, m) :: p.badBridges })
      some (s.beginReset peer none)

/-- BRIDGE. -/
def execBridge (panel other reason : Nat) (s : State) := s.event (s.bridgeFails panel other reason)

/-- GATE_TEST (R411): a closed half that passes its pattern is a fault of the panel on its side; the other half stays closed. -/
def State.gateTest (s : State) (n m : Nat) (passed : Bool) : Option State :=
  let closed : Bool := n != m && Nat.blt m 8 && ((s.panel n).owner.isNone || (s.panel n).owner != (s.panel m).owner)
  if !s.powered n ∨ !closed then none
  else if !passed then some s
  else some (s.panelFails n { cls := 0x22, cause := 3, d0 := bridgeNumber n m, d1 := n, precise := false })

/-- GATE_TEST. -/
def execGateTest (panel other : Nat) (passed : Bool) (s : State) := s.event (s.gateTest panel other passed)

/-! ## Upkeep of memory (R369, R374) -/

/-- A unit record of the controller of a channel. -/
def State.controllerRecord (s : State) (chan cause d0 : Nat) : State :=
  match s.ownerOf (panelOfChannel chan) with
  | some peer => s.unitRecord peer (unitOfChannel chan) { cls := 0x10, cause := cause, d0 := d0, d1 := chan, precise := false }
  | none => s

/-- PATROL_SCRUB (R374): a line with an uncorrectable error is poisoned and recorded; another one is left as it was. -/
def State.patrolScrub (s : State) (pa : Nat) : Option State :=
  if !offChip pa then none
  else if (s.line pa).poison ∨ (s.line pa).damage = .none then some s
  else some ((s.meetError pa).controllerRecord (channelOf pa) 8 (pa / 128 * 128))

/-- PATROL_SCRUB. -/
def execPatrolScrub (line : Nat) (s : State) := s.event (s.patrolScrub line)

/-- CORRECTED (R369): a channel corrects further errors; the first after which the count of the current second reaches 1,024 is recorded.
Whether a new second has begun is a free value (DESIGN CHOICE, log 13). -/
def State.corrected (s : State) (channel count : Nat) : Option State :=
  if 528 ≤ channel ∨ count = 0 then none
  else
    let old := if Config.newSecond s.freeIdx then 0 else SMap.getD s.corrections channel 0
    let s := { s with freeIdx := s.freeIdx + 1, corrections := SMap.set s.corrections channel (old + count) }
    some (if old < 1024 ∧ 1024 ≤ old + count then s.controllerRecord channel 7 1024 else s)

/-- CORRECTED. -/
def execCorrected (channel count : Nat) (s : State) := s.event (s.corrected channel count)

end Sys2Proof.Machine
end

