-- ==== Sys2Proof/Machine/Dispatch.lean ====
section
/-!
DEFINITION. One arm per constructor of `Instr`, each one call of the instruction's meaning.
-/

namespace Sys2Proof.Machine

def exec (i : Instr) (s : State) : Host.Outcome State Fault Refusal :=
  match i with
  | .add t rd rs1 rs2 => Sys2Proof.Machine.execAdd t rd rs1 rs2 s
  | .sub t rd rs1 rs2 => Sys2Proof.Machine.execSub t rd rs1 rs2 s
  | .and t rd rs1 rs2 => Sys2Proof.Machine.execAnd t rd rs1 rs2 s
  | .or t rd rs1 rs2 => Sys2Proof.Machine.execOr t rd rs1 rs2 s
  | .xor t rd rs1 rs2 => Sys2Proof.Machine.execXor t rd rs1 rs2 s
  | .andn t rd rs1 rs2 => Sys2Proof.Machine.execAndn t rd rs1 rs2 s
  | .shl t rd rs1 rs2 => Sys2Proof.Machine.execShl t rd rs1 rs2 s
  | .shr t rd rs1 rs2 => Sys2Proof.Machine.execShr t rd rs1 rs2 s
  | .sar t rd rs1 rs2 => Sys2Proof.Machine.execSar t rd rs1 rs2 s
  | .mul t rd rs1 rs2 => Sys2Proof.Machine.execMul t rd rs1 rs2 s
  | .mulh t rd rs1 rs2 => Sys2Proof.Machine.execMulh t rd rs1 rs2 s
  | .mulhu t rd rs1 rs2 => Sys2Proof.Machine.execMulhu t rd rs1 rs2 s
  | .min t rd rs1 rs2 => Sys2Proof.Machine.execMin t rd rs1 rs2 s
  | .max t rd rs1 rs2 => Sys2Proof.Machine.execMax t rd rs1 rs2 s
  | .minu t rd rs1 rs2 => Sys2Proof.Machine.execMinu t rd rs1 rs2 s
  | .maxu t rd rs1 rs2 => Sys2Proof.Machine.execMaxu t rd rs1 rs2 s
  | .slt t rd rs1 rs2 => Sys2Proof.Machine.execSlt t rd rs1 rs2 s
  | .sltu t rd rs1 rs2 => Sys2Proof.Machine.execSltu t rd rs1 rs2 s
  | .seq t rd rs1 rs2 => Sys2Proof.Machine.execSeq t rd rs1 rs2 s
  | .sne t rd rs1 rs2 => Sys2Proof.Machine.execSne t rd rs1 rs2 s
  | .clz t rd rs1 => Sys2Proof.Machine.execClz t rd rs1 s
  | .ctz t rd rs1 => Sys2Proof.Machine.execCtz t rd rs1 s
  | .popc t rd rs1 => Sys2Proof.Machine.execPopc t rd rs1 s
  | .addi t rd rs1 imm => Sys2Proof.Machine.execAddi t rd rs1 imm s
  | .andi t rd rs1 imm => Sys2Proof.Machine.execAndi t rd rs1 imm s
  | .ori t rd rs1 imm => Sys2Proof.Machine.execOri t rd rs1 imm s
  | .xori t rd rs1 imm => Sys2Proof.Machine.execXori t rd rs1 imm s
  | .shli t rd rs1 sh => Sys2Proof.Machine.execShli t rd rs1 sh s
  | .shri t rd rs1 sh => Sys2Proof.Machine.execShri t rd rs1 sh s
  | .sari t rd rs1 sh => Sys2Proof.Machine.execSari t rd rs1 sh s
  | .slti t rd rs1 imm => Sys2Proof.Machine.execSlti t rd rs1 imm s
  | .lui t rd imm => Sys2Proof.Machine.execLui t rd imm s
  | .liw t rd value => Sys2Proof.Machine.execLiw t rd value s
  | .bfx t rd rs1 pos len1 => Sys2Proof.Machine.execBfx t rd rs1 pos len1 s
  | .bfi t rd rs1 pos len1 => Sys2Proof.Machine.execBfi t rd rs1 pos len1 s
  | .sel t rd rs1 rs2 ac => Sys2Proof.Machine.execSel t rd rs1 rs2 ac s
  | .agen t rd rs1 rs2 k => Sys2Proof.Machine.execAgen t rd rs1 rs2 k s
  | .astep t rd rs1 rs2 ix jx => Sys2Proof.Machine.execAstep t rd rs1 rs2 ix jx s
  | .br t off => Sys2Proof.Machine.execBr t off s
  | .beq t rs1 rs2 off => Sys2Proof.Machine.execBeq t rs1 rs2 off s
  | .bne t rs1 rs2 off => Sys2Proof.Machine.execBne t rs1 rs2 off s
  | .blt t rs1 rs2 off => Sys2Proof.Machine.execBlt t rs1 rs2 off s
  | .bge t rs1 rs2 off => Sys2Proof.Machine.execBge t rs1 rs2 off s
  | .bltu t rs1 rs2 off => Sys2Proof.Machine.execBltu t rs1 rs2 off s
  | .bgeu t rs1 rs2 off => Sys2Proof.Machine.execBgeu t rs1 rs2 off s
  | .call t off => Sys2Proof.Machine.execCall t off s
  | .jr t rs1 imm => Sys2Proof.Machine.execJr t rs1 imm s
  | .bqp t rs1 => Sys2Proof.Machine.execBqp t rs1 s
  | .lda t reg base st off => Sys2Proof.Machine.execLda t reg base st off s
  | .sta t reg base st off => Sys2Proof.Machine.execSta t reg base st off s
  | .ldq t q base st off => Sys2Proof.Machine.execLdq t q base st off s
  | .ldq2d t q base st off rows rowBytes => Sys2Proof.Machine.execLdq2d t q base st off rows rowBytes s
  | .stq t q base st off => Sys2Proof.Machine.execStq t q base st off s
  | .stq2d t q base st off rows rowBytes => Sys2Proof.Machine.execStq2d t q base st off rows rowBytes s
  | .gathq t q base st off esz isq shift => Sys2Proof.Machine.execGathq t q base st off esz isq shift s
  | .scatq t q base st off esz isq shift => Sys2Proof.Machine.execScatq t q base st off esz isq shift s
  | .pref t hint base st off => Sys2Proof.Machine.execPref t hint base st off s
  | .amoAdd t ra rb st ao => Sys2Proof.Machine.execAmoAdd t ra rb st ao s
  | .amoAddN t rb st ao => Sys2Proof.Machine.execAmoAddN t rb st ao s
  | .amoAnd t ra rb st ao => Sys2Proof.Machine.execAmoAnd t ra rb st ao s
  | .amoAndN t rb st ao => Sys2Proof.Machine.execAmoAndN t rb st ao s
  | .amoOr t ra rb st ao => Sys2Proof.Machine.execAmoOr t ra rb st ao s
  | .amoOrN t rb st ao => Sys2Proof.Machine.execAmoOrN t rb st ao s
  | .amoXor t ra rb st ao => Sys2Proof.Machine.execAmoXor t ra rb st ao s
  | .amoXorN t rb st ao => Sys2Proof.Machine.execAmoXorN t rb st ao s
  | .amoMin t ra rb st ao => Sys2Proof.Machine.execAmoMin t ra rb st ao s
  | .amoMinN t rb st ao => Sys2Proof.Machine.execAmoMinN t rb st ao s
  | .amoMax t ra rb st ao => Sys2Proof.Machine.execAmoMax t ra rb st ao s
  | .amoMaxN t rb st ao => Sys2Proof.Machine.execAmoMaxN t rb st ao s
  | .amoMinu t ra rb st ao => Sys2Proof.Machine.execAmoMinu t ra rb st ao s
  | .amoMinuN t rb st ao => Sys2Proof.Machine.execAmoMinuN t rb st ao s
  | .amoMaxu t ra rb st ao => Sys2Proof.Machine.execAmoMaxu t ra rb st ao s
  | .amoMaxuN t rb st ao => Sys2Proof.Machine.execAmoMaxuN t rb st ao s
  | .amoSwap t ra rb st ao => Sys2Proof.Machine.execAmoSwap t ra rb st ao s
  | .amoSwapN t rb st ao => Sys2Proof.Machine.execAmoSwapN t rb st ao s
  | .cas t ra rb st ac an => Sys2Proof.Machine.execCas t ra rb st ac an s
  | .faaC t ra rb st ao => Sys2Proof.Machine.execFaaC t ra rb st ao s
  | .fenceS t st => Sys2Proof.Machine.execFenceS t st s
  | .fenceX t mask => Sys2Proof.Machine.execFenceX t mask s
  | .fenceD t => Sys2Proof.Machine.execFenceD t s
  | .acq t rb st scope => Sys2Proof.Machine.execAcq t rb st scope s
  | .rel t rb st scope => Sys2Proof.Machine.execRel t rb st scope s
  | .relSt t ra rb st scope => Sys2Proof.Machine.execRelSt t ra rb st scope s
  | .bind t ra rb st kind ao => Sys2Proof.Machine.execBind t ra rb st kind ao s
  | .unbind t ra st => Sys2Proof.Machine.execUnbind t ra st s
  | .waitC t nl ns nc nt => Sys2Proof.Machine.execWaitC t nl ns nc nt s
  | .barInit t ra rb st ab => Sys2Proof.Machine.execBarInit t ra rb st ab s
  | .barExpect t ra rb st => Sys2Proof.Machine.execBarExpect t ra rb st s
  | .barArrive t ra rb st scope => Sys2Proof.Machine.execBarArrive t ra rb st scope s
  | .barWait t ra rb st scope => Sys2Proof.Machine.execBarWait t ra rb st scope s
  | .barTest t ra rb st => Sys2Proof.Machine.execBarTest t ra rb st s
  | .barFlags t ra rb st => Sys2Proof.Machine.execBarFlags t ra rb st s
  | .bobArm t ra rb st => Sys2Proof.Machine.execBobArm t ra rb st s
  | .bobDisarm t ra rb st => Sys2Proof.Machine.execBobDisarm t ra rb st s
  | .bobRead t ra rb st => Sys2Proof.Machine.execBobRead t ra rb st s
  | .bobbinActionPost bobbin => Sys2Proof.Machine.execBobbinActionPost bobbin s
  | .suspMk t ra rb st ah => Sys2Proof.Machine.execSuspMk t ra rb st ah s
  | .suspFill t ra rb st aL ab => Sys2Proof.Machine.execSuspFill t ra rb st aL ab s
  | .suspPeek t ra rb st => Sys2Proof.Machine.execSuspPeek t ra rb st s
  | .cpy t ra rb st aL ab p1 p2 => Sys2Proof.Machine.execCpy t ra rb st aL ab p1 p2 s
  | .cpy2d t ra rb st aL ab p1 p2 ap => Sys2Proof.Machine.execCpy2d t ra rb st aL ab p1 p2 ap s
  | .cpyRed t ra rb st aL ab p1 p2 ty => Sys2Proof.Machine.execCpyRed t ra rb st aL ab p1 p2 ty s
  | .cpyMc t ra rb st aL ab p1 p2 => Sys2Proof.Machine.execCpyMc t ra rb st aL ab p1 p2 s
  | .cpyDec t ra rb st aL ab p1 p2 slot => Sys2Proof.Machine.execCpyDec t ra rb st aL ab p1 p2 slot s
  | .ctbl t rb st slot => Sys2Proof.Machine.execCtbl t rb st slot s
  | .cpyCsum t ra rb st aL ab p1 p2 => Sys2Proof.Machine.execCpyCsum t ra rb st aL ab p1 p2 s
  | .copyStart loom ev storeQ => Sys2Proof.Machine.execCopyStart loom ev storeQ s
  | .copyChunkWrite loom ev cmd => Sys2Proof.Machine.execCopyChunkWrite loom ev cmd s
  | .decoderBlock step => Sys2Proof.Machine.execDecoderBlock step s
  | .stashPut t ra rb st aL ab policy tier place aa => Sys2Proof.Machine.execStashPut t ra rb st aL ab policy tier place aa s
  | .stashDrop t rb st => Sys2Proof.Machine.execStashDrop t rb st s
  | .stashFetch t ra rb st ab => Sys2Proof.Machine.execStashFetch t ra rb st ab s
  | .stashFree t rb st => Sys2Proof.Machine.execStashFree t rb st s
  | .chSend t ra rb st aL ab p1 p2 => Sys2Proof.Machine.execChSend t ra rb st aL ab p1 p2 s
  | .chFree t ra rb st => Sys2Proof.Machine.execChFree t ra rb st s
  | .chWin t ra rb st => Sys2Proof.Machine.execChWin t ra rb st s
  | .taskPut t ra rb st ac ab km1 opc => Sys2Proof.Machine.execTaskPut t ra rb st ac ab km1 opc s
  | .taskPutp t ra rb st ac ab km1 opc p1 p2 => Sys2Proof.Machine.execTaskPutp t ra rb st ac ab km1 opc p1 p2 s
  | .taskCancel t ra rb st => Sys2Proof.Machine.execTaskCancel t ra rb st s
  | .schedulerStart bolt => Sys2Proof.Machine.execSchedulerStart bolt s
  | .partialDone bolt engine => Sys2Proof.Machine.execPartialDone bolt engine s
  | .contributionMerge tile pos => Sys2Proof.Machine.execContributionMerge tile pos s
  | .taskRetire bolt task => Sys2Proof.Machine.execTaskRetire bolt task s
  | .accInit t ra rb st sl => Sys2Proof.Machine.execAccInit t ra rb st sl s
  | .accDrain t ra rb st aP ab => Sys2Proof.Machine.execAccDrain t ra rb st aP ab s
  | .tileDrain loom ev op => Sys2Proof.Machine.execTileDrain loom ev op s
  | .trdArrive t ra st => Sys2Proof.Machine.execTrdArrive t ra st s
  | .trdVpin t ra rb st publish named panel stage => Sys2Proof.Machine.execTrdVpin t ra rb st publish named panel stage s
  | .trdVunpin t rb st => Sys2Proof.Machine.execTrdVunpin t rb st s
  | .trdInfo t ra rb st => Sys2Proof.Machine.execTrdInfo t ra rb st s
  | .trdDiff t rb st ab => Sys2Proof.Machine.execTrdDiff t rb st ab s
  | .trdCancel t ra rb st => Sys2Proof.Machine.execTrdCancel t ra rb st s
  | .csrr t rd csr => Sys2Proof.Machine.execCsrr t rd csr s
  | .csrw t rs1 csr => Sys2Proof.Machine.execCsrw t rs1 csr s
  | .trap t code => Sys2Proof.Machine.execTrap t code s
  | .rett t rs1 => Sys2Proof.Machine.execRett t rs1 s
  | .yield t n => Sys2Proof.Machine.execYield t n s
  | .yieldExpiry loom ev => Sys2Proof.Machine.execYieldExpiry loom ev s
  | .ctxSave t rd rs1 => Sys2Proof.Machine.execCtxSave t rd rs1 s
  | .ctxLoad t rs1 => Sys2Proof.Machine.execCtxLoad t rs1 s
  | .linkPark t rd width port => Sys2Proof.Machine.execLinkPark t rd width port s
  | .linkWake t rd width port => Sys2Proof.Machine.execLinkWake t rd width port s
  | .sadd t rd rs1 rs2 => Sys2Proof.Machine.execSadd t rd rs1 rs2 s
  | .ssub t rd rs1 rs2 => Sys2Proof.Machine.execSsub t rd rs1 rs2 s
  | .smul t rd rs1 rs2 => Sys2Proof.Machine.execSmul t rd rs1 rs2 s
  | .smin t rd rs1 rs2 => Sys2Proof.Machine.execSmin t rd rs1 rs2 s
  | .smax t rd rs1 rs2 => Sys2Proof.Machine.execSmax t rd rs1 rs2 s
  | .sand t rd rs1 rs2 => Sys2Proof.Machine.execSand t rd rs1 rs2 s
  | .sor t rd rs1 rs2 => Sys2Proof.Machine.execSor t rd rs1 rs2 s
  | .sxor t rd rs1 rs2 => Sys2Proof.Machine.execSxor t rd rs1 rs2 s
  | .sshl t rd rs1 rs2 => Sys2Proof.Machine.execSshl t rd rs1 rs2 s
  | .sshr t rd rs1 rs2 => Sys2Proof.Machine.execSshr t rd rs1 rs2 s
  | .fadd t rd rs1 rs2 => Sys2Proof.Machine.execFadd t rd rs1 rs2 s
  | .fsub t rd rs1 rs2 => Sys2Proof.Machine.execFsub t rd rs1 rs2 s
  | .fmul t rd rs1 rs2 => Sys2Proof.Machine.execFmul t rd rs1 rs2 s
  | .fmin t rd rs1 rs2 => Sys2Proof.Machine.execFmin t rd rs1 rs2 s
  | .fmax t rd rs1 rs2 => Sys2Proof.Machine.execFmax t rd rs1 rs2 s
  | .fcmp t rd rs1 rs2 => Sys2Proof.Machine.execFcmp t rd rs1 rs2 s
  | .sfma t rd rs1 rs2 rs3 => Sys2Proof.Machine.execSfma t rd rs1 rs2 rs3 s
  | .scvt t rd rs1 code => Sys2Proof.Machine.execScvt t rd rs1 code s
  | .sli t rd imm => Sys2Proof.Machine.execSli t rd imm s
  | .smovq t rd rs1 idx => Sys2Proof.Machine.execSmovq t rd rs1 idx s
  | .vadd t h vd va vb sat => Sys2Proof.Machine.execVadd t h vd va vb sat s
  | .vsub t h vd va vb sat => Sys2Proof.Machine.execVsub t h vd va vb sat s
  | .vmul t h vd va vb sat => Sys2Proof.Machine.execVmul t h vd va vb sat s
  | .vmin t h vd va vb => Sys2Proof.Machine.execVmin t h vd va vb s
  | .vmax t h vd va vb => Sys2Proof.Machine.execVmax t h vd va vb s
  | .vabs t h vd va sat => Sys2Proof.Machine.execVabs t h vd va sat s
  | .vneg t h vd va sat => Sys2Proof.Machine.execVneg t h vd va sat s
  | .vand t h vd va vb => Sys2Proof.Machine.execVand t h vd va vb s
  | .vor t h vd va vb => Sys2Proof.Machine.execVor t h vd va vb s
  | .vxor t h vd va vb => Sys2Proof.Machine.execVxor t h vd va vb s
  | .vshl t h vd va vb => Sys2Proof.Machine.execVshl t h vd va vb s
  | .vshr t h vd va vb => Sys2Proof.Machine.execVshr t h vd va vb s
  | .vsar t h vd va vb => Sys2Proof.Machine.execVsar t h vd va vb s
  | .vmov t h vd va => Sys2Proof.Machine.execVmov t h vd va s
  | .vaddVs t h vd va sb sat => Sys2Proof.Machine.execVaddVs t h vd va sb sat s
  | .vsubVs t h vd va sb sat => Sys2Proof.Machine.execVsubVs t h vd va sb sat s
  | .vmulVs t h vd va sb sat => Sys2Proof.Machine.execVmulVs t h vd va sb sat s
  | .vminVs t h vd va sb => Sys2Proof.Machine.execVminVs t h vd va sb s
  | .vmaxVs t h vd va sb => Sys2Proof.Machine.execVmaxVs t h vd va sb s
  | .vandVs t h vd va sb => Sys2Proof.Machine.execVandVs t h vd va sb s
  | .vorVs t h vd va sb => Sys2Proof.Machine.execVorVs t h vd va sb s
  | .vxorVs t h vd va sb => Sys2Proof.Machine.execVxorVs t h vd va sb s
  | .vshlVs t h vd va sb => Sys2Proof.Machine.execVshlVs t h vd va sb s
  | .vshrVs t h vd va sb => Sys2Proof.Machine.execVshrVs t h vd va sb s
  | .vsarVs t h vd va sb => Sys2Proof.Machine.execVsarVs t h vd va sb s
  | .vmovVs t h vd sb => Sys2Proof.Machine.execVmovVs t h vd sb s
  | .vfma t h vd va vb vc => Sys2Proof.Machine.execVfma t h vd va vb vc s
  | .vfms t h vd va vb vc => Sys2Proof.Machine.execVfms t h vd va vb vc s
  | .vcmp t h kd va vb cond => Sys2Proof.Machine.execVcmp t h kd va vb cond s
  | .vsel t h vd va vb ks => Sys2Proof.Machine.execVsel t h vd va vb ks s
  | .vclamp t h vd va sb => Sys2Proof.Machine.execVclamp t h vd va sb s
  | .vcvt t h vd va => Sys2Proof.Machine.execVcvt t h vd va s
  | .vquant t h vd va vs => Sys2Proof.Machine.execVquant t h vd va vs s
  | .vdeq t h vd va vb => Sys2Proof.Machine.execVdeq t h vd va vb s
  | .vredSumRow t h vd va wide sat => Sys2Proof.Machine.execVredSumRow t h vd va wide sat s
  | .vredSumCol t h vd va wide sat => Sys2Proof.Machine.execVredSumCol t h vd va wide sat s
  | .vredMaxRow t h vd va wide sat => Sys2Proof.Machine.execVredMaxRow t h vd va wide sat s
  | .vredMaxCol t h vd va wide sat => Sys2Proof.Machine.execVredMaxCol t h vd va wide sat s
  | .vredMinRow t h vd va wide sat => Sys2Proof.Machine.execVredMinRow t h vd va wide sat s
  | .vredMinCol t h vd va wide sat => Sys2Proof.Machine.execVredMinCol t h vd va wide sat s
  | .vshuf t h vd va vb => Sys2Proof.Machine.execVshuf t h vd va vb s
  | .vrotRow t h vd va n => Sys2Proof.Machine.execVrotRow t h vd va n s
  | .vrotCol t h vd va n => Sys2Proof.Machine.execVrotCol t h vd va n s
  | .vtran t h vd va => Sys2Proof.Machine.execVtran t h vd va s
  | .vbcRow t h vd va => Sys2Proof.Machine.execVbcRow t h vd va s
  | .vbcCol t h vd va => Sys2Proof.Machine.execVbcCol t h vd va s
  | .vexp2 t h vd va => Sys2Proof.Machine.execVexp2 t h vd va s
  | .vlog2 t h vd va => Sys2Proof.Machine.execVlog2 t h vd va s
  | .vrcp t h vd va => Sys2Proof.Machine.execVrcp t h vd va s
  | .vrsq t h vd va => Sys2Proof.Machine.execVrsq t h vd va s
  | .vtanh t h vd va => Sys2Proof.Machine.execVtanh t h vd va s
  | .vsigm t h vd va => Sys2Proof.Machine.execVsigm t h vd va s
  | .shape t rlog cols => Sys2Proof.Machine.execShape t rlog cols s
  | .kset t kd rs1 pat => Sys2Proof.Machine.execKset t kd rs1 pat s
  | .kand t kd ka kb => Sys2Proof.Machine.execKand t kd ka kb s
  | .kor t kd ka kb => Sys2Proof.Machine.execKor t kd ka kb s
  | .kxor t kd ka kb => Sys2Proof.Machine.execKxor t kd ka kb s
  | .knot t kd ka => Sys2Proof.Machine.execKnot t kd ka s
  | .brq t off => Sys2Proof.Machine.execBrq t off s
  | .brk t k cond off => Sys2Proof.Machine.execBrk t k cond off s
  | .brx t rs cond off => Sys2Proof.Machine.execBrx t rs cond off s
  | .qskip t q count => Sys2Proof.Machine.execQskip t q count s
  | .ftsel t value => Sys2Proof.Machine.execFtsel t value s
  | .vseed t rs1 rs2 => Sys2Proof.Machine.execVseed t rs1 rs2 s
  | .sflags t rd clr => Sys2Proof.Machine.execSflags t rd clr s
  | .loop body count => Sys2Proof.Machine.execLoop body count s
  | .loopr body ra => Sys2Proof.Machine.execLoopr body ra s
  | .safept id kmask amask smask vmask => Sys2Proof.Machine.execSafept id kmask amask smask vmask s
  | .pickEnd => Sys2Proof.Machine.execPickEnd s
  | .slip window => Sys2Proof.Machine.execSlip window s
  | .loomPickRetire loom ev => Sys2Proof.Machine.execLoomPickRetire loom ev s
  | .treadleDecision panel stage => Sys2Proof.Machine.execTreadleDecision panel stage s
  | .gangStart peer pick => Sys2Proof.Machine.execGangStart peer pick s
  | .replayEntryStart panel stage => Sys2Proof.Machine.execReplayEntryStart panel stage s
  | .spillReturn panel stage queue => Sys2Proof.Machine.execSpillReturn panel stage queue s
  | .heldArrivalPost panel stage queue => Sys2Proof.Machine.execHeldArrivalPost panel stage queue s
  | .loaderArrival loom ev who => Sys2Proof.Machine.execLoaderArrival loom ev who s
  | .evaluationStart loom => Sys2Proof.Machine.execEvaluationStart loom s
  | .fillLine loom ev cmd => Sys2Proof.Machine.execFillLine loom ev cmd s
  | .loadReturn loom ev acc fromL1 => Sys2Proof.Machine.execLoadReturn loom ev acc fromL1 s
  | .writeAck loom ev acc => Sys2Proof.Machine.execWriteAck loom ev acc s
  | .multicastLand loom ev acc => Sys2Proof.Machine.execMulticastLand loom ev acc s
  | .pageWalk panel walk => Sys2Proof.Machine.execPageWalk panel walk s
  | .combineDepart switch entry => Sys2Proof.Machine.execCombineDepart switch entry s
  | .decombineReply switch entry lost => Sys2Proof.Machine.execDecombineReply switch entry lost s
  | .requestReplay loom ev acc => Sys2Proof.Machine.execRequestReplay loom ev acc s
  | .loaderRetry loom ev acc => Sys2Proof.Machine.execLoaderRetry loom ev acc s
  | .suspensionLimit loom ev acc => Sys2Proof.Machine.execSuspensionLimit loom ev acc s
  | .barrierTimeout loom ev => Sys2Proof.Machine.execBarrierTimeout loom ev s
  | .drainTimeout loom ev op => Sys2Proof.Machine.execDrainTimeout loom ev op s
  | .safeptOverrun loom ev xEng => Sys2Proof.Machine.execSafeptOverrun loom ev xEng s
  | .queueDeadlock loom ev => Sys2Proof.Machine.execQueueDeadlock loom ev s
  | .slipStall loom ev => Sys2Proof.Machine.execSlipStall loom ev s
  | .handledFaultEntry loom ev => Sys2Proof.Machine.execHandledFaultEntry loom ev s
  | .unhandledFaultStop loom ev => Sys2Proof.Machine.execUnhandledFaultStop loom ev s
  | .preemptSave loom => Sys2Proof.Machine.execPreemptSave loom s
  | .preemptLimit peer launch => Sys2Proof.Machine.execPreemptLimit peer launch s
  | .planeSwitch peer => Sys2Proof.Machine.execPlaneSwitch peer s
  | .liftstall panel stage => Sys2Proof.Machine.execLiftstall panel stage s
  | .spillFenceRetry panel stage queue => Sys2Proof.Machine.execSpillFenceRetry panel stage queue s
  | .congestionDecay peer mem => Sys2Proof.Machine.execCongestionDecay peer mem s
  | .read port f => Sys2Proof.Machine.execRead port f s
  | .write port f => Sys2Proof.Machine.execWrite port f s
  | .atomic port f => Sys2Proof.Machine.execAtomic port f s
  | .casnew port f => Sys2Proof.Machine.execCasnew port f s
  | .reduce port f => Sys2Proof.Machine.execReduce port f s
  | .relst port f => Sys2Proof.Machine.execRelst port f s
  | .chwrite port f => Sys2Proof.Machine.execChwrite port f s
  | .readReply port f => Sys2Proof.Machine.execReadReply port f s
  | .ack port f => Sys2Proof.Machine.execAck port f s
  | .atomicReply port f => Sys2Proof.Machine.execAtomicReply port f s
  | .window port f => Sys2Proof.Machine.execWindow port f s
  | .congestion port f => Sys2Proof.Machine.execCongestion port f s
  | .drainFlit port f => Sys2Proof.Machine.execDrainFlit port f s
  | .relock port f => Sys2Proof.Machine.execRelock port f s
  | .park port f => Sys2Proof.Machine.execPark port f s
  | .wake port f => Sys2Proof.Machine.execWake port f s
  | .lack port f => Sys2Proof.Machine.execLack port f s
  | .lretry port f => Sys2Proof.Machine.execLretry port f s
  | .idle port f => Sys2Proof.Machine.execIdle port f s
  | .dataFlit port d => Sys2Proof.Machine.execDataFlit port d s
  | .wakeLock port => Sys2Proof.Machine.execWakeLock port s
  | .lackTimeout port => Sys2Proof.Machine.execLackTimeout port s
  | .wavelengthLoss port wave => Sys2Proof.Machine.execWavelengthLoss port wave s
  | .portDown port reason => Sys2Proof.Machine.execPortDown port reason s
  | .launch peer req args => Sys2Proof.Machine.execLaunch peer req args s
  | .cancel peer req index level => Sys2Proof.Machine.execCancel peer req index level s
  | .status peer req index => Sys2Proof.Machine.execStatus peer req index s
  | .arrivals peer req count payload ops => Sys2Proof.Machine.execArrivals peer req count payload ops s
  | .imageWrite peer va data => Sys2Proof.Machine.execImageWrite peer va data s
  | .imageRead peer req va len => Sys2Proof.Machine.execImageRead peer req va len s
  | .attestationRequest peer args => Sys2Proof.Machine.execAttestationRequest peer args s
  | .fleolapinAck peer endpoint seq => Sys2Proof.Machine.execFleolapinAck peer endpoint seq s
  | .fleolapinRetransmit peer endpoint seq => Sys2Proof.Machine.execFleolapinRetransmit peer endpoint seq s
  | .form req args => Sys2Proof.Machine.execForm req args s
  | .dissolve peer req => Sys2Proof.Machine.execDissolve peer req s
  | .resize peer req panels => Sys2Proof.Machine.execResize peer req panels s
  | .reset peer req => Sys2Proof.Machine.execReset peer req s
  | .invalidate peer req va len => Sys2Proof.Machine.execInvalidate peer req va len s
  | .loadplane peer req va => Sys2Proof.Machine.execLoadplane peer req va s
  | .counter peer req level expect parent => Sys2Proof.Machine.execCounter peer req level expect parent s
  | .arm peer req args => Sys2Proof.Machine.execArm peer req args s
  | .preempt peer req launch limit => Sys2Proof.Machine.execPreempt peer req launch limit s
  | .resume peer req launch => Sys2Proof.Machine.execResume peer req launch s
  | .drain peer req phase => Sys2Proof.Machine.execDrain peer req phase s
  | .fabric peer req va => Sys2Proof.Machine.execFabric peer req va s
  | .limits peer req barrier suspension stall => Sys2Proof.Machine.execLimits peer req barrier suspension stall s
  | .power peer req mode budget => Sys2Proof.Machine.execPower peer req mode budget s
  | .cappedMeasure peer watts => Sys2Proof.Machine.execCappedMeasure peer watts s
  | .thermalStep panel hottest => Sys2Proof.Machine.execThermalStep panel hottest s
  | .panelFault panel reason => Sys2Proof.Machine.execPanelFault panel reason s
  | .bridge panel other reason => Sys2Proof.Machine.execBridge panel other reason s
  | .gateTest panel other passed => Sys2Proof.Machine.execGateTest panel other passed s
  | .moduleReset signatureOk => Sys2Proof.Machine.execModuleReset signatureOk s
  | .trainingEnd panel ok => Sys2Proof.Machine.execTrainingEnd panel ok s
  | .calibrationEnd panel ok => Sys2Proof.Machine.execCalibrationEnd panel ok s
  | .loomServiceMove loom => Sys2Proof.Machine.execLoomServiceMove loom s
  | .patrolScrub line => Sys2Proof.Machine.execPatrolScrub line s
  | .corrected channel count => Sys2Proof.Machine.execCorrected channel count s
  | .registerResultLand loom ev xEng => Sys2Proof.Machine.execRegisterResultLand loom ev xEng s
  | .declaredCompletion loom ev => Sys2Proof.Machine.execDeclaredCompletion loom ev s
  | .accInitApplied loom ev op => Sys2Proof.Machine.execAccInitApplied loom ev op s
  | .stashActionComplete panel op => Sys2Proof.Machine.execStashActionComplete panel op s
  | .lackInterval port => Sys2Proof.Machine.execLackInterval port s
  | .panelFaultClear panel => Sys2Proof.Machine.execPanelFaultClear panel s
  | .moduleInputFault => Sys2Proof.Machine.execModuleInputFault s

end Sys2Proof.Machine
end

