-- ==== Sys2Proof/Machine/Message.lean ====
section
/-!
DEFINITION. Messages of the host as their bytes come in (R299 to R301, R314, R318, R326, R329): the header, the sequence of an endpoint,
and the event that the payload stands for.
-/

namespace Sys2Proof.Machine

/-- A little-endian field of a message, by the bytes of the whole message, which the 16-byte header opens. -/
def HostMsg.field (m : HostMsg) (off n : Nat) : Nat := leNat ((m.payload.drop (off - 16)).take n)

/-- Whether a message carries the CRC of its header and payload (R299). -/
def HostMsg.ok (m : HostMsg) : Bool :=
  let head := [BitVec.ofNat 8 m.version, BitVec.ofNat 8 m.cls] ++ leBytes 2 m.endpoint ++ leBytes 4 m.seq.toNat ++ leBytes 4 m.length
  m.crc.toNat == crc32c (head ++ [0, 0, 0, 0] ++ m.payload) && m.version == 1 && m.length == m.payload.length

/-- What every request carries; `zeros` is a field that must be zero, and a payload that does not end with the last field is as wrong as
one that is not zero there (DESIGN CHOICE, log 153). -/
def HostMsg.req (m : HostMsg) (len : Nat) (zeros : Nat := 0) : HostReq :=
  { id := BitVec.ofNat 32 (m.field 20 4), endpoint := m.endpoint, zeros := if m.payload.length = len - 16 then zeros else 1 }

/-- A message whose payload has no meaning is answered with status 2 (R301, R314). -/
def State.strange (s : State) (peer : Nat) (m : HostMsg) : Host.Outcome State Fault Refusal :=
  s.onRequest peer m.cls (m.field 16 2) { m.req 24 with zeros := 1 } (fun _ => false) (fun s _ => s)

/-- A message of job control (R301, R318). -/
def State.jobMessage (s : State) (peer : Nat) (m : HostMsg) : Host.Outcome State Fault Refusal :=
  match m.field 16 2 with
  | 0x01 => (match m.args with
    | some (.launch _ _ a) => execLaunch peer { m.req 24 with zeros := 0 } a s
    | _ => s.strange peer m)
  | 0x02 => execCancel peer (m.req 32 (m.field 27 5)) (m.field 24 2) (m.field 26 1) s
  | 0x03 => execStatus peer (m.req 32 (m.field 26 6)) (m.field 24 2) s
  | 0x10 => execArrivals peer { m.req 32 with zeros := m.field 26 6 } (m.field 24 2) m.length
      ((List.range ((m.payload.length - 16) / 8)).map (fun i => BitVec.ofNat 64 (m.field (32 + 8 * i) 8))) s
  | _ => s.strange peer m

/-- A partition command (R314, R326): the arguments that the spec does not lay out are what the firmware reads there (DESIGN CHOICE,
log 153). -/
def State.commandMessage (s : State) (peer : Nat) (m : HostMsg) : Host.Outcome State Fault Refusal :=
  let req := { m.req 24 with zeros := 0 }
  match m.field 16 2, m.args with
  | 0x01, some (.form _ a) => execForm req a s
  | 0x02, _ => execDissolve peer (m.req 24) s
  | 0x03, some (.resize _ _ k) => execResize peer req k s
  | 0x04, _ => execReset peer (m.req 24) s
  | 0x05, some (.invalidate _ _ va n) => execInvalidate peer req va n s
  | 0x06, some (.loadplane _ _ va) => execLoadplane peer req va s
  | 0x07, some (.counter _ _ l e q) => execCounter peer req l e q s
  | 0x08, some (.arm _ _ a) => execArm peer req a s
  | 0x09, some (.preempt _ _ l n) => execPreempt peer req l n s
  | 0x0A, some (.resume _ _ l) => execResume peer req l s
  | 0x0B, some (.drain _ _ ph) => execDrain peer req ph s
  | 0x0C, some (.fabric _ _ va) => execFabric peer req va s
  | 0x0D, some (.limits _ _ a b c) => execLimits peer req a b c s
  | 0x0E, _ => execPower peer (m.req 32) (m.field 24 4) (m.field 28 4) s
  | _, _ => s.strange peer m

/-- A message is dropped: one of an unassigned class is counted, too (R300). -/
def State.dropMessage (s : State) (peer : Nat) (m : HostMsg) : State :=
  let s := s.receive peer m.endpoint
  let k := endpointKey peer m.endpoint
  if m.cls = 5 then s
  else { s with endpoints := SMap.set s.endpoints k { s.endpoint k with unassigned := (s.endpoint k).unassigned + 1 } }

/-- A message that names another peer ID than that of its endpoint is answered with status 3 (DESIGN CHOICE, log 153). -/
def State.otherPeer (s : State) (peer : Nat) (m : HostMsg) : Host.Outcome State Fault Refusal :=
  s.onMessage peer m.endpoint (fun s => some (
    if m.cls = 2 then s.receive peer m.endpoint 2
    else (s.receive peer m.endpoint).reply peer m.cls (m.field 16 2) (m.req 24) 3))

/-- A message that its endpoint delivers (R300, R301). -/
def State.deliver (s : State) (peer : Nat) (m : HostMsg) : Host.Outcome State Fault Refusal :=
  if 1 ≤ m.cls ∧ m.cls ≤ 4 ∧ m.field 18 2 ≠ peer ∧ !(m.cls == 4 && m.field 16 2 == 1) then s.otherPeer peer m
  else
    match m.cls with
    | 1 => s.jobMessage peer m
    | 2 => execImageWrite peer (BitVec.ofNat 64 (m.field 24 8))
        ⟨m.req (40 + m.field 32 4) (m.field 16 2 + m.field 36 4), m.payload.drop 24⟩ s
    | 3 => execImageRead peer (m.req 36 (m.field 16 2)) (BitVec.ofNat 64 (m.field 24 8)) (m.field 32 4) s
    | 4 => s.commandMessage peer m
    | 6 => s.onMessage peer m.endpoint (fun s =>
        some ((s.receive peer m.endpoint).attest peer m.endpoint (m.field 16 2) (BitVec.ofNat 256 (m.field 32 32))))
    | _ => s.onMessage peer m.endpoint (fun s => some (s.dropMessage peer m))

/-- A message comes in (R299): one that fails its CRC is dropped without acknowledgement, a duplicate is acknowledged again, and one that
comes before its turn is left for the host to send again (DESIGN CHOICE, log 153). -/
def State.onRawMessage (s : State) (peer : Nat) (m : HostMsg) : Host.Outcome State Fault Refusal :=
  let e := s.endpoint (endpointKey peer m.endpoint)
  if !m.ok then s.event (some s)
  else if m.seq = e.rxSeq then s.deliver peer m
  else if (m.seq - e.rxSeq).toNat < 2 ^ 31 then s.event (some s)
  else s.event (some { s with out := s.out ++ [Output.ack peer m.endpoint (if e.refused.contains m.seq then 2 else 0)] })

end Sys2Proof.Machine
end

