-- ==== Sys2Proof/Machine/Settle.lean ====
section
/-!
DEFINITION. What the module does at the end of every step with what the step has left to do: the actions that need no event of their
own, because the spec has them happen as soon as they may.
-/

namespace Sys2Proof.Machine

/-- Writes the FENCED unit record of a channel, which cancels the job of the partition that owns it (R372). -/
def State.fenceRecord (s : State) (chan : Nat) : State :=
  match s.ownerOf (panelOfChannel chan) with
  | some peer => s.jobRecord peer (unitOfChannel chan) { cls := 16, cause := 4, d1 := chan, precise := false }
  | none => s

/-- Writes every record of a fenced channel that is due. -/
def State.settleFences (s : State) : State := s.fenceRecords.foldl State.fenceRecord { s with fenceRecords := [] }

/-- What the units of the panels have left to do: actions of bobbins that have fired, contributions of cancelled tasks, evaluations
that have failed or are to be placed. -/
def State.settleUnits (s : State) : State := s.settleFences.postActions.flushCancelled.failEvaluations.placeHeld

/-- What the ports have left to do. -/
def State.settlePorts (s : State) : State := s.giveWindows.giveUpRequests.settleDrains.settleFabrics

/-- What the partition manager has left to do. -/
def State.settleManager (s : State) : State :=
  s.settlePreempts.settleMoves.settleArrivals.settleResets.settleResizes.settleInvalidations.settleHeldArms

/-- What is left to do at the end of a step. -/
def State.settle (s : State) : State := s.settleUnits.settlePorts.settleManager

end Sys2Proof.Machine
end

