-- ==== Sys2Proof/Machine/Step.lean ====
section
/-!
DEFINITION. One step of the machine: the next move of the agenda, or an attempt of the engine that moved last.
-/

namespace Sys2Proof.Machine

/-- The looms of the module (R11). -/
def loomCount : Nat := 320

/-- What an engine's move does. -/
def State.moveEngine (s : State) (e : Sel) : Host.Outcome State Fault Refusal :=
  if e.loom < loomCount then State.issue exec s e else .fault (.noSuchLoom e.loom)

/-- What an event does: an instruction of a bundle line is no event. -/
def State.moveEvent (s : State) (i : Instr) : Host.Outcome State Fault Refusal :=
  if (encode i).isSome then .next { s with disp := .ignored } else exec i s

/-- The error as the memory of a line has it: only HBM has metadata, and LPDDR has one code over the whole line (R68, R369). -/
def damageAt (pa : Nat) (k : Damage) : Damage :=
  match k with
  | .side => if inHbm pa then .side else .none
  | .data m => if inLpddr pa && m != 0 then .data 0xF else .data m
  | .none => .none

/-- An error comes up in a line of memory; the access that meets it finds it (R369). -/
def State.moveDamage (s : State) (pa : Nat) (k : Damage) : State :=
  { s.setLine pa { s.line pa with damage := damageAt pa k } with disp := .issued }

/-- The firmware writes an entry of a page table, or of another table that a partition is formed with (R62, R67, R314; DESIGN CHOICE, log 41). -/
def State.moveFirmware (s : State) (pa : Nat) (e : W64) : State :=
  if s.agate.verified && inHbm pa && pa % 8 == 0 && !(s.line pa).poison then { s with mem := Memory.writeLE s.mem pa 8 e.toNat, disp := .issued }
  else { s with disp := .ignored }

/-- The firmware writes a whole line of such a table, which clears its poison (R371, R377; DESIGN CHOICE, log 41). -/
def State.moveFirmwareLine (s : State) (pa : Nat) (bs : List Byte) : State :=
  if s.agate.verified && inHbm pa && pa % 128 == 0 && bs.length == 128 then { s.putPiece 0 ⟨pa, pa, 0, 128⟩ bs with disp := .issued }
  else { s with disp := .ignored }

/-- One move. -/
def State.oneMove (s : State) (m : Move) : Host.Outcome State Fault Refusal :=
  match m with
  | .issue e => s.moveEngine e
  | .event i => s.moveEvent i
  | .damage pa k => .next (s.moveDamage pa k)
  | .badBobbin k => .next { s.bobbinError k with disp := .issued }
  | .badPlane panel off => .next { s.planeError panel off with disp := .issued }
  | .firmware pa e => .next (s.moveFirmware pa e)
  | .firmwareLine pa bs => .next (s.moveFirmwareLine pa bs)
  | .flit q w => s.onRawFlit q w
  | .beats q => s.event (s.dataOut q)
  | .message peer m => s.onRawMessage peer m
  | .badConfig => s.event s.badConfig

/-- The end of a step: what the move has left to do is done, and the order of the later moves stays as it was. -/
def State.close (agenda : List Move) (o : Host.Outcome State Fault Refusal) : Host.Outcome State Fault Refusal :=
  match o with
  | .next t => .next { t.settle with agenda := agenda }
  | r => r

/-- One step (DESIGN CHOICE, log 1). -/
def step (s : State) : Host.Outcome State Fault Refusal :=
  match s.agenda with
  | [] => State.close [] (s.moveEngine s.cur)
  | m :: rest => State.close rest (s.oneMove m)

/-- Places the instruction of a table word where step fetches next: the pick context of loom 0 runs, its engine of the
instruction's space moves next and stands at the start of a line, and the loom's instruction cache holds that line. -/
def State.withFetchWord (s : State) (_nbits w : Nat) : State :=
  let (ws, eng) : List W32 × Eng := match decodeTable w with
    | some (e, i) => (soloLine e i, if e.space = .X then .X else .A)
    | none => (1 :: tableWords w, .A)
  let l := s.loom 0
  let c := l.pick
  let g := (c.eng eng).at' (c.eng eng).pc 1
  let c := { c.setEng eng g with act := .running, stop := none }
  let l := { l with pick := c, icache := SMap.set l.icache g.pc.toNat ws }
  { s.setLoom 0 l with cur := ⟨0, false, eng⟩, agenda := [] }

end Sys2Proof.Machine
end

