-- ==== Sys2Proof/Safety.lean ====
section
/-!
DEFINITION. What counts as a safe state and a safe run.
-/

namespace Sys2Proof

open Machine

/-- A state whose memory is in its canonical form, so that equal memories are equal data. -/
def Safe (s : State) : Prop := s.mem.wf = true

/-- A run of n steps that no fault or refusal of the model ends: the state that it reaches. -/
def reaches (s : State) : (n : Nat) → State → Prop
  | 0, t => t = s
  | n + 1, t => ∃ u, step s = .next u ∧ reaches u n t

/-! ## The words that claims about loom instructions use -/

namespace Claims

/-- An instruction that has issued: the next state, marked as such. -/
def issued (s : State) : Host.Outcome State Fault Refusal := .next { s with disp := .issued }

/-- An operand of the A-engine that can be read in this cycle: in a scoreboard line no result for it is in flight (R36). -/
def readyA (c : Ctx) (r : BitVec 6) : Prop :=
  c.exposed .A = true ∨ r = 0 ∨ ∀ x ∈ c.inFlight, x.dest ≠ .a r
/-- The same for an s-register that a 6-bit field names. -/
def readyS (c : Ctx) (r : BitVec 6) : Prop :=
  c.exposed .X = true ∨ r.setWidth 5 = (0 : BitVec 5) ∨ ∀ x ∈ c.inFlight, x.dest ≠ .s (r.setWidth 5)
/-- The same for a mask register. -/
def readyK (c : Ctx) (r : BitVec 3) : Prop :=
  c.exposed .X = true ∨ r = 0 ∨ ∀ x ∈ c.inFlight, x.dest ≠ .k r
/-- The same for a vector register. -/
def readyV (c : Ctx) (r : BitVec 5) : Prop :=
  c.exposed .X = true ∨ ∀ x ∈ c.inFlight, x.dest ≠ .v r

/-- A result of the A-engine on its way to an a-register: v modulo 2^64, due after its latency. -/
def resultA (c : Ctx) (rd : BitVec 6) (v : Int) (lat : Nat) (t : Tok) : Result :=
  { eng := .A, dest := .a rd, value := BitVec.ofNat 16384 (v % 2 ^ 64).toNat, due := c.ea.cyc + 1 + lat, flags := 0, post := t.ps }

end Claims

end Sys2Proof
end

