-- ==== Sys2Proof/WellFormed.lean ====
section
/-!
DEFINITION. Well-formed instructions: what a bundle line can hold.
-/

namespace Sys2Proof

/-- An instruction that a lane of a bundle line can hold: it has words, and its fields lie within the limits that R120, R124,
R126, R208, R214, R218, R220, R232, R247 and R302 set. Events have no words. -/
def Instr.WellFormed (i : Instr) : Bool := (encode i).isSome && (limit i).isNone

end Sys2Proof
end

