-- ==== Sys2Proof/Certificates/Slice0/Obligations.lean ====
section
/-!
DEFINITION. The statements for the provers, and the few words of the spec that they are written with.
-/

namespace Sys2Proof.Claims

open Sys2Proof Sys2Proof.Machine

/-- The value of an a-register as a natural number; a0 is zero. -/
def av (c : Ctx) (r : BitVec 6) : Int := (c.aVal r).toNat
/-- The value of an a-register as a signed number. -/
def avs (c : Ctx) (r : BitVec 6) : Int := (c.aVal r).toInt
/-- Bit i of an a-register. -/
def abit (c : Ctx) (r : BitVec 6) (i : Nat) : Bool := (c.aVal r).toNat.testBit i
/-- 1 for a true proposition, 0 for a false one. -/
def one (p : Bool) : Int := if p then 1 else 0

/-- What an integer instruction needs and gives: its token bits, destination, sources, latency and value (R142 to R150). -/
structure IntForm where
  tok : Tok
  rd : BitVec 6
  srcs : List (BitVec 6)
  lat : Nat
  value : Int

/-- A position moved within the low 48 bits of an address, whose high bits stay (R149). -/
def inOffset (x : Int) (d : Int) : Int := x / 2 ^ 48 * 2 ^ 48 + (x % 2 ^ 48 + d) % 2 ^ 48

/-- The integer instructions with the values that R143 to R150 give them, over whole numbers. -/
def intForm (c : Ctx) : Instr → Option IntForm
  | .add t d x y => some ⟨t, d, [x, y], 1, av c x + av c y⟩
  | .sub t d x y => some ⟨t, d, [x, y], 1, av c x - av c y⟩
  | .and t d x y => some ⟨t, d, [x, y], 1, ((av c x).toNat &&& (av c y).toNat : Nat)⟩
  | .or t d x y => some ⟨t, d, [x, y], 1, ((av c x).toNat ||| (av c y).toNat : Nat)⟩
  | .xor t d x y => some ⟨t, d, [x, y], 1, ((av c x).toNat ^^^ (av c y).toNat : Nat)⟩
  | .andn t d x y => some ⟨t, d, [x, y], 1, ((av c x).toNat &&& (2 ^ 64 - 1 - (av c y).toNat) : Nat)⟩
  | .shl t d x y => some ⟨t, d, [x, y], 1, av c x * 2 ^ ((av c y).toNat % 64)⟩
  | .shr t d x y => some ⟨t, d, [x, y], 1, av c x / 2 ^ ((av c y).toNat % 64)⟩
  | .sar t d x y => some ⟨t, d, [x, y], 1, avs c x / 2 ^ ((av c y).toNat % 64)⟩
  | .mul t d x y => some ⟨t, d, [x, y], 3, av c x * av c y⟩
  | .mulh t d x y => some ⟨t, d, [x, y], 3, avs c x * avs c y / 2 ^ 64⟩
  | .mulhu t d x y => some ⟨t, d, [x, y], 3, av c x * av c y / 2 ^ 64⟩
  | .min t d x y => some ⟨t, d, [x, y], 1, if avs c x < avs c y then avs c x else avs c y⟩
  | .max t d x y => some ⟨t, d, [x, y], 1, if avs c x < avs c y then avs c y else avs c x⟩
  | .minu t d x y => some ⟨t, d, [x, y], 1, if av c x < av c y then av c x else av c y⟩
  | .maxu t d x y => some ⟨t, d, [x, y], 1, if av c x < av c y then av c y else av c x⟩
  | .slt t d x y => some ⟨t, d, [x, y], 1, one (decide (avs c x < avs c y))⟩
  | .sltu t d x y => some ⟨t, d, [x, y], 1, one (decide (av c x < av c y))⟩
  | .seq t d x y => some ⟨t, d, [x, y], 1, one (decide (av c x = av c y))⟩
  | .sne t d x y => some ⟨t, d, [x, y], 1, one (decide (av c x ≠ av c y))⟩
  | .clz t d x => some ⟨t, d, [x], 1, ((List.range 64).reverse.takeWhile (fun i => !abit c x i)).length⟩
  | .ctz t d x => some ⟨t, d, [x], 1, ((List.range 64).takeWhile (fun i => !abit c x i)).length⟩
  | .popc t d x => some ⟨t, d, [x], 1, ((List.range 64).filter (abit c x)).length⟩
  | .addi t d x i => some ⟨t, d, [x], 1, av c x + i.toInt⟩
  | .andi t d x i => some ⟨t, d, [x], 1, ((av c x).toNat &&& (i.toInt % 2 ^ 64).toNat : Nat)⟩
  | .ori t d x i => some ⟨t, d, [x], 1, ((av c x).toNat ||| (i.toInt % 2 ^ 64).toNat : Nat)⟩
  | .xori t d x i => some ⟨t, d, [x], 1, ((av c x).toNat ^^^ (i.toInt % 2 ^ 64).toNat : Nat)⟩
  | .shli t d x n => some ⟨t, d, [x], 1, av c x * 2 ^ n.toNat⟩
  | .shri t d x n => some ⟨t, d, [x], 1, av c x / 2 ^ n.toNat⟩
  | .sari t d x n => some ⟨t, d, [x], 1, avs c x / 2 ^ n.toNat⟩
  | .slti t d x i => some ⟨t, d, [x], 1, one (decide (avs c x < i.toInt))⟩
  | .lui t d i => some ⟨t, d, [], 1, i.toInt * 4096⟩
  | .liw t d v => some ⟨t, d, [], 1, v.toNat⟩
  | .bfx t d x p n => some ⟨t, d, [x], 1, av c x / 2 ^ p.toNat % 2 ^ (n.toNat + 1)⟩
  | .bfi t d x p n =>
    let k := min (n.toNat + 1) (64 - p.toNat)
    some ⟨t, d, [x, d], 1,
      av c d % 2 ^ p.toNat + av c x % 2 ^ k * 2 ^ p.toNat + av c d / 2 ^ (p.toNat + k) * 2 ^ (p.toNat + k)⟩
  | .sel t d x y z => some ⟨t, d, [x, y, z], 1, if av c z = 0 then av c y else av c x⟩
  | .agen t d x y k => some ⟨t, d, [x, y], 1, inOffset (av c x) (av c y * 2 ^ k.toNat)⟩
  | .astep t d x y i j =>
    let lc (n : BitVec 2) : Int := if h : n.toNat < 3 then (c.ea.lc[n.toNat]).toNat else 0
    some ⟨t, d, [x, y], 1,
      inOffset (av c x) (lc i * ((c.aVal y).setWidth 32).toInt + lc j * (((c.aVal y) >>> 32).setWidth 32).toInt)⟩
  | _ => none

end Sys2Proof.Claims

open Sys2Proof Sys2Proof.Machine Sys2Proof.Claims

/-- R142 to R150. An integer instruction of the A-engine whose tokens and operands are there, with room in flight, issues, and puts
one result in flight: its value, for its destination, after its latency. Nothing else of the machine changes but the tokens.

The model's own choices and readings that it rests on: log 33. -/
def Obligations.IntegerResults : Prop :=
  ∀ (s : State) (c : Ctx) (i : Instr) (f : IntForm),
    intForm c i = some f → s.ctx.tokens .A f.tok = .ok c → (∀ r ∈ f.srcs, readyA c r) → c.inFlight.length < 32 →
    exec i s = issued (s.setCtx { c with inFlight := c.inFlight ++ [resultA c f.rd f.value f.lat f.tok] })

namespace Sys2Proof.Claims

open Sys2Proof Sys2Proof.Machine

/-- The token bits of an instruction as R34 has them: WT waits for a token of the other engine, PS for one of 32 places. -/
def tokensThere (c : Ctx) (e : Eng) (t : Tok) : Prop :=
  match e with
  | .A => (t.wt = true → 0 < c.tokXA) ∧ (t.ps = true → c.tokAX + c.resAX < 32)
  | .X => (t.wt = true → 0 < c.tokAX) ∧ (t.ps = true → c.tokXA + c.resXA < 32)

/-- What the token bits take: a token popped, a place reserved. -/
def tokensTaken (c : Ctx) (e : Eng) (t : Tok) : Ctx :=
  match e with
  | .A => { c with tokXA := c.tokXA - t.wt.toNat, resAX := c.resAX + t.ps.toNat }
  | .X => { c with tokAX := c.tokAX - t.wt.toNat, resXA := c.resXA + t.ps.toNat }

/-- The line that lies a signed number of lines from an engine's line, modulo 2^64. -/
def lineFrom (g : Engine) (lines : Int) : W64 := BitVec.ofInt 64 (g.pc.toNat + 32 * lines)

/-- The conditional branches of R151: the token bits, the sources, the offset and the comparison. -/
def branchForm (c : Ctx) : Instr → Option (Tok × List (BitVec 6) × Int × Bool)
  | .br t off => some (t, [], off.toInt, true)
  | .beq t x y off => some (t, [x, y], off.toInt, decide (av c x = av c y))
  | .bne t x y off => some (t, [x, y], off.toInt, decide (av c x ≠ av c y))
  | .blt t x y off => some (t, [x, y], off.toInt, decide (avs c x < avs c y))
  | .bge t x y off => some (t, [x, y], off.toInt, decide (avs c y ≤ avs c x))
  | .bltu t x y off => some (t, [x, y], off.toInt, decide (av c x < av c y))
  | .bgeu t x y off => some (t, [x, y], off.toInt, decide (av c y ≤ av c x))
  | _ => none

/-- An engine's context with the line it goes to at the end of its line. -/
def Ctx.goTo (c : Ctx) (e : Eng) (target : W64) : Ctx :=
  c.setEng e { c.eng e with target := some target }

/-- The condition of BRX (R230) on an s-register. -/
def brxHolds (cond : Nat) (x : W32) : Bool :=
  match cond with
  | 0 => decide (x.toInt = 0) | 1 => decide (x.toInt ≠ 0) | 2 => decide (x.toInt < 0) | 3 => decide (0 ≤ x.toInt) | _ => true

/-- The condition of BRK (R230) on the first E bits of a mask: ANY, ALL or NONE. -/
def brkHolds (cond E : Nat) (m : KReg) : Prop :=
  match cond with
  | 0 => ∃ i < E, m.getLsbD i = true
  | 1 => ∀ i < E, m.getLsbD i = true
  | _ => ∀ i < E, m.getLsbD i = false

/-- An engine that enters the body of a loop (R39): level d counts from zero to n. -/
def loopEntered (g : Engine) (lines n : Nat) : Engine :=
  let first := g.pc.toNat + 32
  if n = 0 then { g with skip := some (BitVec.ofNat 64 (first + 32 * lines)) }
  else { g with lc := Vector.ofFn (fun i => if i.val = g.depth then 0 else g.lc[i]),
                ln := Vector.ofFn (fun i => if i.val = g.depth then BitVec.ofNat 32 n else g.ln[i]), depth := g.depth + 1,
                bodies := g.bodies ++ [(first, first + 32 * (lines - 1))], skip := some (BitVec.ofNat 64 first) }

/-- The header word of a line of a loop's body, as its loom sees it: from the loom's instruction cache if it holds the line, else from
memory through the translation buffer of its bolt. -/
def headerIs (s : State) (va : Nat) (h : W32) : Prop :=
  (∃ ws, SMap.find? (s.loom s.cur.loom).icache va = some ws ∧ h = ws.headD 0) ∨
  (SMap.find? (s.loom s.cur.loom).icache va = none ∧ ∃ t, (s.bolt (boltOf s.cur.loom)).lookup s.ctx.peer va = some t ∧
    h = word32 (Memory.readN s.mem (t.pa + (va - t.va)) 4))

/-- A loop's body, by its first line and its lines, holds w words (R39): the lanes of its lines that are not empty. -/
def bodyHolds (s : State) (first lines w : Nat) : Prop :=
  ∃ h : Nat → W32, (∀ i < lines, headerIs s (first + 32 * i) (h i)) ∧
    w = ((List.range lines).map (fun i => ((List.range 7).filter (fun k => (h i).extractLsb' (4 * k) 4 != 0)).length)).sum

end Sys2Proof.Claims

open Sys2Proof Sys2Proof.Machine Sys2Proof.Claims

/-- R121 and R349 to R351: a0, s0 and k0 read as zero, zero and all ones whatever was written to them, and a write of any other
register is read back, with every other register as it was.

R36: in a scoreboard line a register can be read exactly when no result for it is in flight, and in an exposed line always; what is
read is the value that has landed. -/
def Obligations.RegistersReadAndWritten : Prop :=
  (∀ (c : Ctx) (v : VReg),
     (∀ r, (c.write (.a r) v).aVal r = if r = 0 then 0 else v.setWidth 64) ∧
     (∀ r, (c.write (.s r) v).sVal r = if r = 0 then 0 else v.setWidth 32) ∧
     (∀ r, (c.write (.k r) v).kVal r = if r = 0 then BitVec.allOnes 2048 else v.setWidth 2048) ∧
     (∀ r, (c.write (.v r) v).v[r.toNat] = v) ∧
     (∀ r, ∃ a, c.write (.a r) v = { c with a := a } ∧ ∀ q : BitVec 6, q ≠ r → a[q.toNat] = c.a[q.toNat]) ∧
     (∀ r, ∃ x, c.write (.s r) v = { c with s := x } ∧ ∀ q : BitVec 5, q ≠ r → x[q.toNat] = c.s[q.toNat]) ∧
     (∀ r, ∃ k, c.write (.k r) v = { c with k := k } ∧ ∀ q : BitVec 3, q ≠ r → k[q.toNat] = c.k[q.toNat]) ∧
     (∀ r, ∃ x, c.write (.v r) v = { c with v := x } ∧ ∀ q : BitVec 5, q ≠ r → x[q.toNat] = c.v[q.toNat])) ∧
  (∀ (c : Ctx),
     (∀ r, (readyA c r → c.rdA r = .ok (c.aVal r)) ∧ (¬ readyA c r → c.rdA r = .error (.wait .reg))) ∧
     (∀ r, (readyS c r → c.rdS r = .ok (c.sVal (r.setWidth 5))) ∧ (¬ readyS c r → c.rdS r = .error (.wait .reg))) ∧
     (∀ r, (readyK c r → c.rdK r = .ok (c.kVal r)) ∧ (¬ readyK c r → c.rdK r = .error (.wait .reg))))

/-- R34: an instruction's token bits take what is there, and hold its engine at issue exactly when a token or a place is lacking.

R36, R350: landing takes from those in flight exactly the engine's results that are due and have their data, and leaves in every
a-register the value of the last of them that is bound for it.

The model's own choices and readings that it rests on: logs 24, 33. -/
def Obligations.TokensAndLanding : Prop :=
  (∀ (c : Ctx) (e : Eng) (t : Tok),
     (tokensThere c e t → c.tokens e t = .ok (tokensTaken c e t)) ∧
     (¬ tokensThere c e t → ∃ w, c.tokens e t = .error (.wait w) ∧ (w = .token ∨ w = .tokenRoom))) ∧
  (∀ (c : Ctx) (e : Eng),
     let ripe := c.inFlight.filter (fun r => decide (r.eng = e ∧ r.awaiting = none ∧ r.due ≤ (c.eng e).cyc + 1))
     (c.land e).inFlight = c.inFlight.filter (fun r => !decide (r.eng = e ∧ r.awaiting = none ∧ r.due ≤ (c.eng e).cyc + 1)) ∧
     (∀ q : BitVec 6, (c.land e).aVal q =
       if q = 0 then 0 else ((ripe.filter (fun r => r.dest == .a q)).getLast?.map (fun r => r.value.setWidth 64)).getD (c.aVal q)) ∧
     (c.land e).flags = ripe.foldl (fun f r => f ||| r.flags) c.flags ∧
     (c.land e).pickFlags = ripe.foldl (fun f r => f ||| r.flags) c.pickFlags)

/-- R151: BR and the six comparisons. A branch whose tokens and sources are there issues; a taken one names its target, and one that is
not taken changes nothing but the tokens.

R152, R153: CALL links a63 and sends a redirect, JR sends a redirect to an aligned line of space 0x0, BQP sends an outcome.

R229, R230: BRQ pops an outcome, BRK tests the first E bits of a mask, BRX an s-register.

The model's own choices and readings that it rests on: log 33. -/
def Obligations.BranchesAndCalls : Prop :=
  (∀ (s : State) (c : Ctx) (i : Instr) (t : Tok) (srcs : List (BitVec 6)) (off : Int) (taken : Bool),
     branchForm c i = some (t, srcs, off, taken) → s.ctx.tokens .A t = .ok c → (∀ r ∈ srcs, readyA c r) →
     exec i s = issued (s.setCtx ((if taken then Ctx.goTo c .A (lineFrom c.ea off) else c).postNow .A t))) ∧
  ((∀ (s : State) (c : Ctx) (t : Tok) (off : BitVec 24),
     s.ctx.tokens .A t = .ok c → c.bq.length < 64 → c.inFlight.length < 32 →
     exec (.call t off) s = issued (s.setCtx (Ctx.goTo
       { c with bq := c.bq ++ [.redirect (lineFrom c.ea off.toInt)], inFlight := c.inFlight ++ [resultA c 63 (c.ea.pc.toNat + 32) 1 t] }
       .A (lineFrom c.ea off.toInt)))) ∧
   (∀ (s : State) (c : Ctx) (t : Tok) (x : BitVec 6) (imm : BitVec 12),
     let dest := BitVec.ofInt 64 (av c x + 32 * imm.toInt)
     s.ctx.tokens .A t = .ok c → readyA c x → c.bq.length < 64 → dest.toNat % 32 = 0 → dest.toNat < 2 ^ 48 →
     exec (.jr t x imm) s = issued (s.setCtx ((Ctx.goTo { c with bq := c.bq ++ [.redirect dest] } .A dest).postNow .A t))) ∧
   (∀ (s : State) (c : Ctx) (t : Tok) (x : BitVec 6),
     s.ctx.tokens .A t = .ok c → readyA c x → c.bq.length < 64 →
     exec (.bqp t x) s = issued (s.setCtx ({ c with bq := c.bq ++ [BqEntry.outcome (decide (av c x ≠ 0))] }.postNow .A t)))) ∧
  ((∀ (s : State) (c : Ctx) (t : Tok) (off : BitVec 24) (b : Bool) (r : List BqEntry),
     s.ctx.tokens .X t = .ok c → c.bq = .outcome b :: r →
     exec (.brq t off) s = issued (s.setCtx
       ((if b then Ctx.goTo { c with bq := r } .X (lineFrom c.ex off.toInt) else { c with bq := r }).postNow .X t))) ∧
   (∀ (s : State) (c : Ctx) (t : Tok) (k cond : BitVec 6) (off : BitVec 12),
     s.ctx.tokens .X t = .ok c → readyK c (k.setWidth 3) →
     (brkHolds cond.toNat c.elems (c.kVal (k.setWidth 3)) →
       exec (.brk t k cond off) s = issued (s.setCtx ((Ctx.goTo c .X (lineFrom c.ex off.toInt)).postNow .X t))) ∧
     (¬ brkHolds cond.toNat c.elems (c.kVal (k.setWidth 3)) →
       exec (.brk t k cond off) s = issued (s.setCtx (c.postNow .X t)))) ∧
   (∀ (s : State) (c : Ctx) (t : Tok) (r cond : BitVec 6) (off : BitVec 12),
     s.ctx.tokens .X t = .ok c → readyS c r →
     exec (.brx t r cond off) s = issued (s.setCtx
       ((if brxHolds cond.toNat (c.sVal (r.setWidth 5)) then Ctx.goTo c .X (lineFrom c.ex off.toInt) else c).postNow .X t))))

/-- R38, R39: LOOP and LOOPR with fewer than three levels open and a body of at most 256 words enter their body, or skip it for a count
of zero; LOOPR takes its count from a register and sends it, or takes it from bq.

R362: a loop instruction whose nesting, body or count is past its bound raises its precise fault, and changes nothing else.

The model's own choices and readings that it rests on: logs 19, 134. -/
def Obligations.Loops : Prop :=
  ((∀ (s : State) (body : BitVec 6) (count : BitVec 16) (w : Nat),
     let e := s.cur.eng
     let c := s.ctx
     (c.eng e).depth < 3 → bodyHolds s ((c.eng e).pc.toNat + 32) (body.toNat + 1) w → w ≤ 256 →
     exec (.loop body count) s = issued (s.setCtx (c.setEng e (loopEntered (c.eng e) (body.toNat + 1) count.toNat)))) ∧
   (∀ (s : State) (body ra : BitVec 6) (w : Nat),
     let c := s.ctx
     s.cur.eng = .A → c.ea.depth < 3 → readyA c ra → av c ra < 2 ^ 32 →
     bodyHolds s (c.ea.pc.toNat + 32) (body.toNat + 1) w → w ≤ 256 → c.bq.length < 64 →
     exec (.loopr body ra) s = issued (s.setCtx
       ({ c with bq := c.bq ++ [.count (av c ra).toNat], ea := loopEntered c.ea (body.toNat + 1) (av c ra).toNat }))) ∧
   (∀ (s : State) (body ra : BitVec 6) (w n : Nat) (r : List BqEntry),
     let c := s.ctx
     s.cur.eng = .X → c.ex.depth < 3 → bodyHolds s (c.ex.pc.toNat + 32) (body.toNat + 1) w → w ≤ 256 →
     c.bq = .count n :: r →
     exec (.loopr body ra) s = issued (s.setCtx ({ c with bq := r, ex := loopEntered c.ex (body.toNat + 1) n })))) ∧
  ((∀ (s : State) (body : BitVec 6) (count : BitVec 16),
     3 ≤ (s.ctx.eng s.cur.eng).depth →
     exec (.loop body count) s = .next { s with disp := .faults { cls := 5, cause := 6 } }) ∧
   (∀ (s : State) (body : BitVec 6) (count : BitVec 16) (w : Nat),
     (s.ctx.eng s.cur.eng).depth < 3 →
     bodyHolds s ((s.ctx.eng s.cur.eng).pc.toNat + 32) (body.toNat + 1) w → 256 < w →
     exec (.loop body count) s = .next { s with disp := .faults { cls := 5, cause := 7, d1 := w } }) ∧
   (∀ (s : State) (body ra : BitVec 6),
     s.cur.eng = .A → s.ctx.ea.depth < 3 → readyA s.ctx ra → 2 ^ 32 ≤ av s.ctx ra →
     exec (.loopr body ra) s = .next { s with disp := .faults { cls := 5, cause := 8, d1 := (av s.ctx ra).toNat } }))

namespace Sys2Proof.Claims

open Sys2Proof Sys2Proof.Machine

/-- The value of a control register (R26 to R30, R126, R128, R304). -/
def controlRegister (s : State) (c : Ctx) : Nat → Nat
  | 0x00 => c.picktag.toNat
  | 0x01 => c.pass.toNat
  | 0x02 => c.wver.toNat
  | 0x03 => c.gangid.toNat
  | 0x04 => s.cur.loom % 2 ^ 64
  | 0x05 => 4 * s.cur.ev.toNat + 2 * (s.fullService s.cur.loom).toNat + (s.determinate c).toNat
  | 0x08 => c.slipw.toNat
  | 0x10 => c.ftbase.toNat
  | 0x20 => (c.outs.filter (fun o => o.ctr == .ldc)).length % 2 ^ 64
  | 0x21 => (c.outs.filter (fun o => o.ctr == .stc)).length % 2 ^ 64
  | 0x22 => (c.outs.filter (fun o => o.ctr == .cpc)).length % 2 ^ 64
  | 0x23 => (c.outs.filter (fun o => o.ctr == .tkc)).length % 2 ^ 64
  | 0x30 => c.ea.lc[0].toNat
  | 0x31 => c.ea.lc[1].toNat
  | 0x32 => c.ea.lc[2].toNat
  | 0x34 => c.ea.ln[0].toNat
  | 0x35 => c.ea.ln[1].toNat
  | 0x36 => c.ea.ln[2].toNat
  | 0x80 => c.tvec.toNat
  | 0x81 => c.tframe.toNat
  | 0x82 => c.tcause.toNat
  | 0x83 => s.ctxBase s.cur.loom s.cur.ev % 2 ^ 64
  | 0x84 => c.peer % 2 ^ 64
  | 0x85 => ((s.part? c.peer).map (fun p => p.panels.toNat)).getD 0
  | _ => 0

/-- A context after a write of a control register: SLIPW, FTBASE and TVEC take their writable fields, and every other is read-only. -/
def controlWritten (c : Ctx) (n : Nat) (x : W64) : Ctx :=
  if n = 0x08 then { c with slipw := BitVec.ofNat 8 x.toNat }
  else if n = 0x10 then { c with ftbase := BitVec.ofNat 8 x.toNat }
  else if n = 0x80 then { c with tvec := BitVec.ofNat 64 (x.toNat / 32 * 32 + x.toNat % 2) }
  else c

/-- The value of an s-register that a 6-bit field names, as a natural and as a signed number. -/
def sv (c : Ctx) (r : BitVec 6) : Int := (c.sVal (r.setWidth 5)).toNat
/-- As a signed number. -/
def svs (c : Ctx) (r : BitVec 6) : Int := (c.sVal (r.setWidth 5)).toInt
/-- As an FP32 number (R74). -/
def sf (c : Ctx) (r : BitVec 6) : Machine.Num := Fmt.fp32.decode (c.sVal (r.setWidth 5)).toNat

/-- A result of the X-engine on its way to an s-register: v modulo 2^32, with its flags. -/
def resultS (c : Ctx) (rd : BitVec 6) (v : Int) (lat : Nat) (t : Tok) (fl : Flags) : Result :=
  { eng := .X, dest := .s (rd.setWidth 5), value := BitVec.ofNat 16384 (v % 2 ^ 32).toNat, due := c.ex.cyc + 1 + lat, flags := fl,
    post := t.ps }

/-- What a scalar instruction needs and gives: its token bits, destination, sources, latency, value and flags (R210 to R213). -/
structure ScalarForm where
  tok : Tok
  rd : BitVec 6
  srcs : List (BitVec 6)
  lat : Nat
  value : Int
  flags : Flags

/-- A scalar form from an encoded number and its flags. -/
def fpForm (t : Tok) (d : BitVec 6) (srcs : List (BitVec 6)) (lat : Nat) (r : Nat × Flags) : ScalarForm :=
  ⟨t, d, srcs, lat, r.1, r.2⟩

/-- The scalar instructions with the values that R210 to R213 give them. -/
def scalarForm (c : Ctx) : Instr → Option ScalarForm
  | .sadd t d x y => some ⟨t, d, [x, y], 1, sv c x + sv c y, 0⟩
  | .ssub t d x y => some ⟨t, d, [x, y], 1, sv c x - sv c y, 0⟩
  | .smul t d x y => some ⟨t, d, [x, y], 1, sv c x * sv c y, 0⟩
  | .smin t d x y => some ⟨t, d, [x, y], 1, if svs c x < svs c y then svs c x else svs c y, 0⟩
  | .smax t d x y => some ⟨t, d, [x, y], 1, if svs c x < svs c y then svs c y else svs c x, 0⟩
  | .sand t d x y => some ⟨t, d, [x, y], 1, ((sv c x).toNat &&& (sv c y).toNat : Nat), 0⟩
  | .sor t d x y => some ⟨t, d, [x, y], 1, ((sv c x).toNat ||| (sv c y).toNat : Nat), 0⟩
  | .sxor t d x y => some ⟨t, d, [x, y], 1, ((sv c x).toNat ^^^ (sv c y).toNat : Nat), 0⟩
  | .sshl t d x y => some ⟨t, d, [x, y], 1, if sv c y < 32 then sv c x * 2 ^ (sv c y).toNat else 0, 0⟩
  | .sshr t d x y => some ⟨t, d, [x, y], 1, if sv c y < 32 then sv c x / 2 ^ (sv c y).toNat else 0, 0⟩
  | .fadd t d x y => some (fpForm t d [x, y] 4 (fAdd .fp32 (sf c x) (sf c y)))
  | .fsub t d x y => some (fpForm t d [x, y] 4 (fAdd .fp32 (sf c x) (sf c y).neg))
  | .fmul t d x y => some (fpForm t d [x, y] 4 (fMul .fp32 (sf c x) (sf c y)))
  | .fmin t d x y => some (fpForm t d [x, y] 4 (fMinMax .fp32 false (sv c x).toNat (sv c y).toNat, 0))
  | .fmax t d x y => some (fpForm t d [x, y] 4 (fMinMax .fp32 true (sv c x).toNat (sv c y).toNat, 0))
  | .fcmp t d x y => some (fpForm t d [x, y] 4
      (if (sf c x).isNan ∨ (sf c y).isNan then 8 else if Machine.Num.lt (sf c x) (sf c y) then 1 else if Machine.Num.lt (sf c y) (sf c x) then 4
        else 2, 0))
  | .sfma t d x y z => some (fpForm t d [x, y, z] 6 (fFma .fp32 (sf c x) (sf c y) (sf c z)))
  | .scvt t d x code => some (fpForm t d [x] 4
      (match code.toNat with
        | 0 => Fmt.fp32.encode .rne (Fmt.int32.decode (sv c x).toNat)
        | 1 => Fmt.int32.encode .rne (sf c x)
        | 2 => Fmt.int32.encode .rtz (sf c x)
        | 3 => Fmt.bf16.encode .rne (sf c x)
        | 4 => Fmt.fp32.encode .rne (Fmt.bf16.decode ((sv c x).toNat % 2 ^ 16))
        | 5 => Fmt.fp16.encode .rne (sf c x)
        | _ => Fmt.fp32.encode .rne (Fmt.fp16.decode ((sv c x).toNat % 2 ^ 16))))
  | .sli t d i => some ⟨t, d, [], 1, i.toInt, 0⟩
  | _ => none

/-- A queue entry that is filled, with its bytes. -/
def filled (q : QEntry) : Prop := q.pending = false

/-- A context without the head of a load queue. -/
def lqPopped (c : Ctx) (q : BitVec 2) : Ctx := { c with lq := c.lq.set q.toNat (c.lq[q.toNat].drop 1) q.isLt }

/-- A context with a filled entry of n bytes at the tail of a store queue. -/
def sqPushed (c : Ctx) (q : BitVec 1) (v : VReg) (n : Nat) : Ctx :=
  { c with sq := c.sq.set q.toNat (c.sq[q.toNat] ++ [{ data := v, len := n, pending := false }]) q.isLt }

/-- A result of the X-engine on its way to a mask register. -/
def resultK (c : Ctx) (kd : BitVec 3) (m : KReg) (lat : Nat) (t : Tok) : Result :=
  { eng := .X, dest := .k kd, value := BitVec.ofNat 16384 m.toNat, due := c.ex.cyc + 1 + lat, flags := 0, post := t.ps }

/-- Room in flight for a result that needs a value slot (R350). -/
def wideRoom (c : Ctx) : Prop := c.inFlight.length < 32 ∧ (c.inFlight.filter (fun r => r.dest.wide)).length < 30

/-- The three mask instructions of two sources and the one of one (R228). -/
def maskForm : Instr → Option (Tok × BitVec 6 × BitVec 6 × BitVec 6 × (Bool → Bool → Bool))
  | .kand t d x y => some (t, d, x, y, and)
  | .kor t d x y => some (t, d, x, y, or)
  | .kxor t d x y => some (t, d, x, y, xor)
  | .knot t d x => some (t, d, x, x, fun p _ => !p)
  | _ => none

end Sys2Proof.Claims

open Sys2Proof Sys2Proof.Machine Sys2Proof.Claims

/-- R303 with R126 and R304: CSRR reads every control register as its map gives, with latency 1, and CSRW writes SLIPW, FTBASE and the
writable fields of TVEC, and leaves the registers that are read-only as they are. -/
def Obligations.ControlRegisters : Prop :=
  (∀ (s : State) (c : Ctx) (t : Tok) (rd : BitVec 6) (n : BitVec 8),
    s.ctx.tokens .A t = .ok c → c.inFlight.length < 32 →
    exec (.csrr t rd n) s =
      issued (s.setCtx { c with inFlight := c.inFlight ++ [resultA c rd (controlRegister s c n.toNat) 1 t] })) ∧
  (∀ (s : State) (c : Ctx) (t : Tok) (x : BitVec 6) (n : BitVec 8),
    s.ctx.tokens .A t = .ok c → readyA c x →
    exec (.csrw t x n) s = issued (s.setCtx ((controlWritten c n.toNat (c.aVal x)).postNow .A t)))

/-- R43 to R48: SAFEPT counts and starts the line count again, and stops its engine when it is the one that a request names; in a handler
and in the evaluator context it has no effect. PICK.END ends the engine's stream, with its loops. SLIP writes the window of the
A-engine, and has no effect in the X-engine.

R305, R307: TRAP raises the software fault of its code; YIELD 0 has no effect, and another YIELD holds its engine, which starts to
count, until YIELD_EXPIRY has come.

The model's own choices and readings that it rests on: logs 20, 51, 138. -/
def Obligations.PickControlAndTraps : Prop :=
  ((∀ (s : State) (id : BitVec 12) (km : BitVec 8) (am : BitVec 64) (sm vm : BitVec 32),
     let c := s.ctx
     let e := s.cur.eng
     let g := c.eng e
     let due := c.req.any (fun r => decide (r.k ≤ g.safepts + 1))
     (s.cur.ev = true ∨ c.tframe ≠ 0 → exec (.safept id km am sm vm) s = issued (s.setCtx c)) ∧
     (s.cur.ev = false → c.tframe = 0 → exec (.safept id km am sm vm) s = issued (s.setCtx
       (({ c with safept := if due then (id.toNat, am, sm, vm, km) else c.safept }).setEng e
         { g with safepts := g.safepts + 1, lineCount := 0, safeptLine := true, stoppedSafept := due })))) ∧
   (∀ (s : State), exec .pickEnd s = issued (s.setCtx
     (s.ctx.setEng s.cur.eng { s.ctx.eng s.cur.eng with ended := true, depth := 0, bodies := [] }))) ∧
   (∀ (s : State) (w : BitVec 8), exec (.slip w) s = issued (s.setCtx
     (match s.cur.eng with | .A => { s.ctx with slipw := w } | .X => s.ctx)))) ∧
  ((∀ (s : State) (c : Ctx) (t : Tok) (code : BitVec 8), s.ctx.tokens .A t = .ok c →
     exec (.trap t code) s = .next { s with disp := .faults { cls := 8, cause := code.toNat } }) ∧
   (∀ (s : State) (c : Ctx) (t : Tok) (n : BitVec 8), s.ctx.tokens .A t = .ok c →
     (n = 0 → exec (.yield t n) s = issued (s.setCtx (c.postNow .A t))) ∧
     (n ≠ 0 → c.yielding = some true →
       exec (.yield t n) s = issued (s.setCtx ({ c with yielding := none }.postNow .A t))) ∧
     (n ≠ 0 → c.yielding ≠ some true → exec (.yield t n) s = .next { s with disp := .waits .yielding })) ∧
   (∀ (s : State) (loom : Nat) (ev : Bool), (s.ctxAt loom ev).yielding = some false →
     exec (.yieldExpiry loom ev) s = issued (s.setCtxAt loom ev { s.ctxAt loom ev with yielding := some true })))

/-- R210 to R213: a scalar instruction of the X-engine whose tokens, sources and destination are there issues, and puts its value and
flags in flight. SCVT to or from FP16 needs full service.

The model's own choices and readings that it rests on: logs 33, 155. -/
def Obligations.ScalarResults : Prop :=
  ∀ (s : State) (c : Ctx) (i : Instr) (f : ScalarForm),
    scalarForm c i = some f → s.ctx.tokens .X f.tok = .ok c → (∀ r ∈ f.srcs, readyS c r) → readyS c f.rd →
    c.inFlight.length < 32 →
    (∀ t d x code, i = .scvt t d x code → 5 ≤ code.toNat → s.fullService s.cur.loom = true) →
    exec i s = issued (s.setCtx { c with inFlight := c.inFlight ++ [resultS c f.rd f.value f.lat f.tok f.flags] })

/-- R214: the four forms of SMOVQ: between s-registers, from a load queue, to a store queue, and from one queue to the other.

R124, R127, R215, R232 to R235: SHAPE, FTSEL and VSEED write VSHAPE, FTX and g; SFLAGS reads the sticky flags, and clears them if
it is asked to; QSKIP drops entries of a load queue that are there and filled.

R227, R228: KSET gives the first n bits, the first n columns or the first n rows of the tile, and the mask instructions act on all
2,048 bits. Each puts one mask in flight.

The model's own choices and readings that it rests on: logs 45, 46. -/
def Obligations.MovesSettingsAndMasks : Prop :=
  ((∀ (s : State) (c : Ctx) (t : Tok) (rd r idx : BitVec 6), s.ctx.tokens .X t = .ok c → rd.toNat < 32 → r.toNat < 32 →
     readyS c r → readyS c rd → c.inFlight.length < 32 →
     exec (.smovq t rd r idx) s =
       issued (s.setCtx { c with inFlight := c.inFlight ++ [resultS c rd (c.sVal (r.setWidth 5)).toNat 1 t 0] })) ∧
   (∀ (s : State) (c : Ctx) (t : Tok) (rd r idx : BitVec 6) (q : QEntry), s.ctx.tokens .X t = .ok c → rd.toNat < 32 →
     32 ≤ r.toNat → c.lq[(r.setWidth 2 : BitVec 2).toNat].head? = some q → filled q → readyS c rd → c.inFlight.length < 32 →
     exec (.smovq t rd r idx) s = issued (s.setCtx
       { lqPopped c (r.setWidth 2) with inFlight := c.inFlight ++ [resultS c rd (q.data.toNat / 2 ^ (32 * idx.toNat)) 1 t 0] })) ∧
   (∀ (s : State) (c : Ctx) (t : Tok) (rd r idx : BitVec 6), s.ctx.tokens .X t = .ok c → 32 ≤ rd.toNat → r.toNat < 32 →
     readyS c r → c.sq[(rd.setWidth 1 : BitVec 1).toNat].length < 8 →
     exec (.smovq t rd r idx) s =
       issued (s.setCtx ((sqPushed c (rd.setWidth 1) (BitVec.ofNat 16384 (c.sVal (r.setWidth 5)).toNat) 4).postNow .X t))) ∧
   (∀ (s : State) (c : Ctx) (t : Tok) (rd r idx : BitVec 6) (q : QEntry), s.ctx.tokens .X t = .ok c → 32 ≤ rd.toNat →
     32 ≤ r.toNat → c.lq[(r.setWidth 2 : BitVec 2).toNat].head? = some q → filled q →
     c.sq[(rd.setWidth 1 : BitVec 1).toNat].length < 8 →
     exec (.smovq t rd r idx) s = issued (s.setCtx ((sqPushed (lqPopped c (r.setWidth 2)) (rd.setWidth 1) q.data q.len).postNow .X t)))) ∧
  ((∀ (s : State) (c : Ctx) (t : Tok) (rlog : BitVec 3) (cols : BitVec 12), s.ctx.tokens .X t = .ok c →
     exec (.shape t rlog cols) s =
       issued (s.setCtx ({ c with vshape := BitVec.ofNat 32 (rlog.toNat * 4096 + cols.toNat) }.postNow .X t))) ∧
   (∀ (s : State) (c : Ctx) (t : Tok) (v : BitVec 8), s.ctx.tokens .X t = .ok c →
     exec (.ftsel t v) s = issued (s.setCtx ({ c with ftx := BitVec.ofNat 32 v.toNat }.postNow .X t))) ∧
   (∀ (s : State) (c : Ctx) (t : Tok) (x y : BitVec 6), s.ctx.tokens .X t = .ok c → readyS c x → readyS c y →
     exec (.vseed t x y) s = issued (s.setCtx
       ({ c with g := BitVec.ofNat 64 ((c.sVal (y.setWidth 5)).toNat * 2 ^ 32 + (c.sVal (x.setWidth 5)).toNat) }.postNow .X t))) ∧
   (∀ (s : State) (c : Ctx) (t : Tok) (rd : BitVec 6) (clr : BitVec 1), s.ctx.tokens .X t = .ok c →
     (c.exposed .X = true ∨ ∀ r ∈ c.inFlight, r.eng = .A) → readyS c rd → c.inFlight.length < 32 →
     exec (.sflags t rd clr) s = issued (s.setCtx
       { c with inFlight := c.inFlight ++ [resultS c rd c.flags.toNat 1 t 0], flags := if clr = 1 then 0 else c.flags })) ∧
   (∀ (s : State) (c : Ctx) (t : Tok) (q : BitVec 6) (n : BitVec 12), s.ctx.tokens .X t = .ok c →
     n.toNat ≤ c.lq[(q.setWidth 2 : BitVec 2).toNat].length →
     (∀ x ∈ c.lq[(q.setWidth 2 : BitVec 2).toNat].take n.toNat, filled x) →
     exec (.qskip t q n) s = issued (s.setCtx
       ({ c with lq := c.lq.set (q.setWidth 2 : BitVec 2).toNat (c.lq[(q.setWidth 2 : BitVec 2).toNat].drop n.toNat)
                         (q.setWidth 2 : BitVec 2).isLt }.postNow .X t)))) ∧
  ((∀ (s : State) (c : Ctx) (i : Instr) (t : Tok) (d x y : BitVec 6) (f : Bool → Bool → Bool),
     maskForm i = some (t, d, x, y, f) → s.ctx.tokens .X t = .ok c → readyK c (x.setWidth 3) → readyK c (y.setWidth 3) →
     readyK c (d.setWidth 3) → wideRoom c →
     ∃ m : KReg, (∀ j < 2048, m.getLsbD j = f ((c.kVal (x.setWidth 3)).getLsbD j) ((c.kVal (y.setWidth 3)).getLsbD j)) ∧
       exec i s = issued (s.setCtx { c with inFlight := c.inFlight ++ [resultK c (d.setWidth 3) m 1 t] })) ∧
   (∀ (s : State) (c : Ctx) (t : Tok) (d x pat : BitVec 6), s.ctx.tokens .X t = .ok c → readyS c x → readyK c (d.setWidth 3) →
     wideRoom c →
     ∃ m : KReg, (∀ j < 2048, m.getLsbD j = match pat.toNat with
         | 0 => decide ((j : Int) < sv c x)
         | 1 => decide (j < c.rows * c.cols) && decide (((j % c.cols : Nat) : Int) < sv c x)
         | _ => decide (j < c.rows * c.cols) && decide (((j / c.cols : Nat) : Int) < sv c x)) ∧
       exec (.kset t d x pat) s = issued (s.setCtx { c with inFlight := c.inFlight ++ [resultK c (d.setWidth 3) m 1 t] })))

namespace Sys2Proof.Claims

open Sys2Proof Sys2Proof.Machine

/-- Element i of w bytes of a vector register (R123). -/
def el (v : VReg) (w i : Nat) : Nat := v.toNat / 2 ^ (8 * w * i) % 2 ^ (8 * w)

/-- Vector sources in order: a register's contents, or a load queue's filled head, which leaves the queue (R120, R121). -/
def vTake (c : Ctx) : List (BitVec 6) → Option (Ctx × List VReg)
  | [] => some (c, [])
  | r :: rs =>
    if r.toNat < 32 then (vTake c rs).map (fun p => (p.1, c.v[(r.setWidth 5 : BitVec 5).toNat] :: p.2))
    else match c.lq[(r.setWidth 2 : BitVec 2).toNat].head? with
      | none => none
      | some q => if q.pending then none else (vTake (lqPopped c (r.setWidth 2)) rs).map (fun p => (p.1, q.data :: p.2))

/-- The sources that are registers can be read. -/
def readySrcs (c : Ctx) (srcs : List (BitVec 6)) : Prop := ∀ r ∈ srcs, r.toNat < 32 → readyV c (r.setWidth 5)

/-- A vector destination can be taken: a register that can be read, or a store queue with room (R206, R207). -/
def vRoom (c : Ctx) (vd : BitVec 6) : Prop :=
  wideRoom c ∧ if vd.toNat < 32 then readyV c (vd.setWidth 5) else c.sq[(vd.setWidth 1 : BitVec 1).toNat].length < 8

/-- What a vector destination holds before: a register's contents, or zeros for an entry of a store queue. -/
def vBefore (c : Ctx) (vd : BitVec 6) : VReg := if vd.toNat < 32 then c.v[(vd.setWidth 5 : BitVec 5).toNat] else 0

/-- A context with a result of n bytes on its way to a vector destination: for a store queue an entry is reserved at its tail,
which the result names by its number. -/
def vPut (c : Ctx) (vd : BitVec 6) (n : Nat) (x : VReg) (lat : Nat) (t : Tok) (fl : Flags) : Ctx :=
  if vd.toNat < 32 then
    { c with inFlight := c.inFlight ++
      [{ eng := .X, dest := .v (vd.setWidth 5), value := x, due := c.ex.cyc + 1 + lat, flags := fl, post := t.ps }] }
  else
    { c with
      sq := c.sq.set (vd.setWidth 1 : BitVec 1).toNat
        (c.sq[(vd.setWidth 1 : BitVec 1).toNat] ++ [{ data := 0, len := 0, pending := true, filler := some c.nextId }])
        (vd.setWidth 1 : BitVec 1).isLt,
      nextId := c.nextId + 1,
      inFlight := c.inFlight ++
        [{ eng := .X, dest := .sq (vd.setWidth 1) n (some c.nextId), value := x, due := c.ex.cyc + 1 + lat, flags := fl, post := t.ps }] }

/-- The flags of all the results that a predicate picks. -/
def flagsOf (n : Nat) (p : Nat → Bool) (f : Nat → Flags) : Flags :=
  (List.range n).foldl (fun a i => if p i then a ||| f i else a) 0

/-- A value whose first n elements of w bytes are x 0, x 1, … and whose bytes from there on are those of another value. -/
def elementsAre (v old : VReg) (w n : Nat) (x : Nat → Nat) : Prop :=
  (∀ i < n, el v w i = x i % 2 ^ (8 * w)) ∧ v.toNat / 2 ^ (8 * w * n) = old.toNat / 2 ^ (8 * w * n)

/-- An integer element as a number: signed but for .UI8. -/
def elNum (T : Fmt) (x : Nat) : Int := if T = .uint8 then x else (BitVec.ofNat (8 * T.bytes) x).toInt

/-- An exact integer as an element: wrapped, or with SAT held to the type's range, which sets SAT (R216). -/
def elOf (T : Fmt) (sat : BitVec 1) (x : Int) : Nat × Flags :=
  let w := 8 * T.bytes
  let lo : Int := if T = .uint8 then 0 else -(2 ^ (w - 1))
  let hi : Int := if T = .uint8 then 2 ^ w - 1 else 2 ^ (w - 1) - 1
  if sat = 1 ∧ (x < lo ∨ hi < x) then (((if x < lo then lo else hi) % 2 ^ w).toNat, fSAT) else ((x % 2 ^ w).toNat, 0)

/-- An operation on two elements: on the numbers they stand for, floating or integer. -/
def byType (T : Fmt) (sat : BitVec 1) (g : Machine.Num → Machine.Num → Nat × Flags) (f : Int → Int → Int) (x y : Nat) : Nat × Flags :=
  if T.float then g (T.decode x) (T.decode y) else elOf T sat (f (elNum T x) (elNum T y))

/-- The lesser or greater of two elements. -/
def extreme (T : Fmt) (max : Bool) (x y : Nat) : Nat :=
  if T.float then fMinMax T max x y
  else if max then (if elNum T x < elNum T y then y else x) else if elNum T y < elNum T x then y else x

/-- The element types of vector instructions (R125). -/
def elementType : Nat → Option Fmt
  | 0 => some .fp32 | 1 => some .bf16 | 2 => some .fp16 | 6 => some .int8 | 7 => some .uint8 | 8 => some .int16 | 9 => some .int32
  | _ => none

/-- What an element-wise vector instruction needs and gives: its token bits, header, destination, vector sources, scalar sources, mask
source, latency, and each element's result and flags from its sources' elements. -/
structure VecForm where
  tok : Tok
  hdr : VHdr
  vd : BitVec 6
  srcs : List (BitVec 6)
  scalars : List (BitVec 6) := []
  mask : BitVec 3 := 0
  lat : Nat := 4
  elem : Nat → (Nat → Nat) → Nat × Flags

/-- A form of two vectors, or of a vector and a scalar broadcast over it. -/
def two (t : Tok) (h : VHdr) (vd x y : BitVec 6) (f : Nat → Nat → Nat × Flags) : VecForm :=
  { tok := t, hdr := h, vd := vd, srcs := [x, y], elem := fun _ e => f (e 0) (e 1) }
/-- A form of one vector. -/
def oneOf (t : Tok) (h : VHdr) (vd x : BitVec 6) (f : Nat → Nat × Flags) (lat : Nat := 4) : VecForm :=
  { tok := t, hdr := h, vd := vd, srcs := [x], lat := lat, elem := fun _ e => f (e 0) }
/-- A form of a vector and a scalar. -/
def withS (c : Ctx) (T : Fmt) (t : Tok) (h : VHdr) (vd x sb : BitVec 6) (f : Nat → Nat → Nat × Flags) : VecForm :=
  { tok := t, hdr := h, vd := vd, srcs := [x], scalars := [sb], elem := (
      fun _ e => f (e 0) ((sv c sb).toNat % 2 ^ (8 * T.bytes))) }

/-- The shifts of elements: by the width or more they give 0, or for VSAR the sign. -/
def shl (T : Fmt) (x n : Nat) : Nat × Flags := (if n < 8 * T.bytes then x * 2 ^ n % 2 ^ (8 * T.bytes) else 0, 0)
/-- Logical to the right. -/
def shr (T : Fmt) (x n : Nat) : Nat × Flags := (if n < 8 * T.bytes then x / 2 ^ n else 0, 0)
/-- Arithmetic to the right. -/
def sar (T : Fmt) (x n : Nat) : Nat × Flags :=
  ((elNum T x / 2 ^ (if n < 8 * T.bytes then n else 8 * T.bytes) % 2 ^ (8 * T.bytes)).toNat, 0)

/-- The element-wise instructions with the results that R216, R217, R219, R220 and R226 give them. -/
def vecForm (c : Ctx) (T : Fmt) : Instr → Option VecForm
  | .vadd t h d x y sat => some (two t h d x y (byType T sat (fAdd T) (· + ·)))
  | .vsub t h d x y sat => some (two t h d x y (byType T sat (fun p q => fAdd T p q.neg) (· - ·)))
  | .vmul t h d x y sat => some (two t h d x y (byType T sat (fMul T) (· * ·)))
  | .vmin t h d x y => some (two t h d x y (fun p q => (extreme T false p q, 0)))
  | .vmax t h d x y => some (two t h d x y (fun p q => (extreme T true p q, 0)))
  | .vand t h d x y => some (two t h d x y (fun p q => (p &&& q, 0)))
  | .vor t h d x y => some (two t h d x y (fun p q => (p ||| q, 0)))
  | .vxor t h d x y => some (two t h d x y (fun p q => (p ^^^ q, 0)))
  | .vshl t h d x y => some (two t h d x y (shl T))
  | .vshr t h d x y => some (two t h d x y (shr T))
  | .vsar t h d x y => some (two t h d x y (sar T))
  | .vaddVs t h d x y sat => some (withS c T t h d x y (byType T sat (fAdd T) (· + ·)))
  | .vsubVs t h d x y sat => some (withS c T t h d x y (byType T sat (fun p q => fAdd T p q.neg) (· - ·)))
  | .vmulVs t h d x y sat => some (withS c T t h d x y (byType T sat (fMul T) (· * ·)))
  | .vminVs t h d x y => some (withS c T t h d x y (fun p q => (extreme T false p q, 0)))
  | .vmaxVs t h d x y => some (withS c T t h d x y (fun p q => (extreme T true p q, 0)))
  | .vandVs t h d x y => some (withS c T t h d x y (fun p q => (p &&& q, 0)))
  | .vorVs t h d x y => some (withS c T t h d x y (fun p q => (p ||| q, 0)))
  | .vxorVs t h d x y => some (withS c T t h d x y (fun p q => (p ^^^ q, 0)))
  | .vshlVs t h d x y => some (withS c T t h d x y (shl T))
  | .vshrVs t h d x y => some (withS c T t h d x y (shr T))
  | .vsarVs t h d x y => some (withS c T t h d x y (sar T))
  | .vabs t h d x sat => some (oneOf t h d x (fun p =>
      if T.float then (if (T.decode p).isNan then T.nan else p % 2 ^ (8 * T.bytes - 1), 0) else elOf T sat (elNum T p).natAbs))
  | .vneg t h d x sat => some (oneOf t h d x (fun p =>
      if T.float then (if (T.decode p).isNan then T.nan else p ^^^ 2 ^ (8 * T.bytes - 1), 0) else elOf T sat (-elNum T p)))
  | .vmov t h d x => some (oneOf t h d x (fun p => (p, 0)))
  | .vmovVs t h d sb =>
    some { tok := t, hdr := h, vd := d, srcs := [], scalars := [sb], elem := fun _ _ => ((sv c sb).toNat % 2 ^ (8 * T.bytes), 0) }
  | .vfma t h d x y z => some { tok := t, hdr := h, vd := d, srcs := [x, y, z], lat := 6, elem := (
      fun _ e => fFma T (T.decode (e 0)) (T.decode (e 1)) (T.decode (e 2))) }
  | .vfms t h d x y z => some { tok := t, hdr := h, vd := d, srcs := [x, y, z], lat := 6, elem := (
      fun _ e => fFma T (T.decode (e 0)) (T.decode (e 1)) (T.decode (e 2)).neg) }
  | .vsel t h d x y ks => some { tok := t, hdr := h, vd := d, srcs := [x, y], mask := ks, elem := (
      fun i e => (if (c.kVal ks).getLsbD i then e 0 else e 1, 0)) }
  | .vclamp t h d x sb => some { tok := t, hdr := h, vd := d, srcs := [x], scalars := [sb, sb + 1], elem := (fun _ e =>
        let lo := (sv c sb).toNat % 2 ^ (8 * T.bytes)
        let hi := (sv c (sb + 1)).toNat % 2 ^ (8 * T.bytes)
        if T.float then
          let x := if (T.decode lo).isNan then e 0 else extreme T true (e 0) lo
          (if (T.decode (e 0)).isNan then T.nan else if (T.decode hi).isNan then x else extreme T false x hi, 0)
        else (extreme T false (extreme T true (e 0) lo) hi, 0)) }
  | .vexp2 t h d x => some (oneOf t h d x (SFun.exp2.apply T) 12)
  | .vlog2 t h d x => some (oneOf t h d x (SFun.log2.apply T) 12)
  | .vrcp t h d x => some (oneOf t h d x (SFun.rcp.apply T) 10)
  | .vrsq t h d x => some (oneOf t h d x (SFun.rsq.apply T) 10)
  | .vtanh t h d x => some (oneOf t h d x (SFun.tanh.apply T) 14)
  | .vsigm t h d x => some (oneOf t h d x (SFun.sigm.apply T) 14)
  | _ => none

end Sys2Proof.Claims

open Sys2Proof Sys2Proof.Machine Sys2Proof.Claims

/-- R206, R207, R216, R217, R219, R220, R226. A well-formed element-wise vector instruction whose tokens, operands and destination are there, in
a tile that fits a register, issues. It puts one value in flight: each active element is the instruction's result of the sources'
elements; an element that is not active is zero under MZ and in a store queue, and else keeps its bits; the bytes past the tile stay.
Load-queue sources leave their queues, and nothing else of the machine changes but the tokens. .F16 needs full service.

The model's own choices and readings that it rests on: logs 23, 44, 155. -/
def Obligations.ElementWise : Prop :=
  ∀ (s : State) (c c' : Ctx) (i : Instr) (T : Fmt) (f : VecForm) (vs : List VReg),
    i.WellFormed = true → vecForm c T i = some f → elementType f.hdr.ty.toNat = some T → (s.fullService s.cur.loom = true ∨ T ≠ .fp16) →
    s.ctx.tokens .X f.tok = .ok c → c.rows * c.cols * T.bytes ≤ 2048 → readyK c f.hdr.mask → readyK c f.mask →
    (∀ r ∈ f.scalars, readyS c r) → readySrcs c f.srcs → vTake c f.srcs = some (c', vs) → vRoom c f.vd →
    ∃ v : VReg,
      elementsAre v (vBefore c f.vd) T.bytes (c.rows * c.cols) (fun j =>
        if (c.kVal f.hdr.mask).getLsbD j then (f.elem j (fun k => el (vs.getD k 0) T.bytes j)).1
        else if f.hdr.mz = 1 ∨ 32 ≤ f.vd.toNat then 0 else el (vBefore c f.vd) T.bytes j) ∧
      exec i s = issued (s.setCtx (vPut c' f.vd (c.rows * c.cols * T.bytes) v f.lat f.tok
        (flagsOf (c.rows * c.cols) (fun j => (c.kVal f.hdr.mask).getLsbD j)
          (fun j => (f.elem j (fun k => el (vs.getD k 0) T.bytes j)).2))))

namespace Sys2Proof.Claims

open Sys2Proof Sys2Proof.Machine

/-- The condition codes of VCMP over two elements' numbers (R218). -/
def compares (T : Fmt) (cond x y : Nat) : Bool :=
  let p := T.decode x
  let q := T.decode y
  let ordered := !p.isNan && !q.isNan
  match cond with
  | 0 => Machine.Num.eq p q
  | 1 => !ordered || !Machine.Num.eq p q
  | 2 => Machine.Num.lt p q
  | 3 => ordered && !Machine.Num.lt q p
  | 4 => Machine.Num.lt q p
  | 5 => ordered && !Machine.Num.lt p q
  | _ => !ordered

/-- The fields of a format-table entry (R31): AFMT, SCL, OFMT and RND. -/
def entryA (e : BitVec 16) : Nat := e.toNat / 4096
/-- SCL. -/
def entryS (e : BitVec 16) : Bool := e.toNat.testBit 7
/-- OFMT. -/
def entryO (e : BitVec 16) : Nat := e.toNat / 8 % 16
/-- RND. -/
def entryR (e : BitVec 16) : Nat := e.toNat % 8

/-- The generator of R83: one step. -/
def genStep (g : W64) : W64 :=
  let x := if g = 0 then 0x9E3779B97F4A7C15 else g
  let x := x ^^^ (x <<< 13)
  let x := x ^^^ (x >>> 7)
  x ^^^ (x <<< 17)
/-- The generator after n steps. -/
def genAfter (g : W64) : Nat → W64
  | 0 => g
  | n + 1 => genStep (genAfter g n)
/-- Element i's rounding mode: SR takes the 16-bit piece i mod 4 of the step i / 4 (R83). -/
def modeOf (g : W64) (rnd i : Nat) : RMode :=
  (RMode.ofCode rnd ((genAfter g (i / 4 + 1)).toNat / 2 ^ (16 * (i % 4)) % 2 ^ 16)).getD .rne
/-- The generator after an instruction over n elements: only SR steps it. -/
def genEnd (g : W64) (rnd n : Nat) : W64 := if rnd = 4 then genAfter g ((n + 3) / 4) else g

/-- A vector destination can be taken beside n other results for the same store queue. -/
def vDest (c : Ctx) (vd : BitVec 6) (n : Nat) : Prop :=
  if vd.toNat < 32 then readyV c (vd.setWidth 5) else c.sq[(vd.setWidth 1 : BitVec 1).toNat].length + n < 8

/-- The reductions, with their result type's width and each group's result and flags (R224). -/
def redForm : Instr → Option (Tok × VHdr × BitVec 6 × BitVec 6 × BitVec 1 × BitVec 1 × RedOp × Bool)
  | .vredSumRow t h d x w st => some (t, h, d, x, w, st, .sum, true)
  | .vredSumCol t h d x w st => some (t, h, d, x, w, st, .sum, false)
  | .vredMaxRow t h d x w st => some (t, h, d, x, w, st, .max, true)
  | .vredMaxCol t h d x w st => some (t, h, d, x, w, st, .max, false)
  | .vredMinRow t h d x w st => some (t, h, d, x, w, st, .min, true)
  | .vredMinCol t h d x w st => some (t, h, d, x, w, st, .min, false)
  | _ => none

/-- The result type of a reduction: with WIDE the 32-bit type of its kind. -/
def wideType (T : Fmt) (wide : BitVec 1) : Fmt := if wide = 0 then T else if T.float then .fp32 else .int32

/-- A group's result: a sum, a maximum or a minimum of its active elements in order; the maximum of none is the type's least value,
the minimum of none its greatest. -/
def groupValue (T : Fmt) (wide sat : BitVec 1) (op : RedOp) (xs : List Nat) : Nat × Flags :=
  let D := wideType T wide
  if T.float then match op with
    | .sum => fSum T D xs
    | .max => (fExtreme T D true xs, 0)
    | .min => (fExtreme T D false xs, 0)
  else
    let lo : Int := if D = .uint8 then 0 else -(2 ^ (8 * D.bytes - 1))
    let hi : Int := if D = .uint8 then 255 else 2 ^ (8 * D.bytes - 1) - 1
    let ns := xs.map (elNum T)
    match op with
    | .sum => elOf D sat ns.sum
    | .max => ((ns.max?.getD lo % 2 ^ (8 * D.bytes)).toNat, 0)
    | .min => ((ns.min?.getD hi % 2 ^ (8 * D.bytes)).toNat, 0)

/-- The elements of a group in order: a row's or a column's, those that are active. -/
def groupOf (c : Ctx) (m : KReg) (row : Bool) (v : VReg) (w g : Nat) : List Nat :=
  (((List.range (c.rows * c.cols)).filter (fun i => (if row then i / c.cols else i % c.cols) == g && m.getLsbD i))).map (el v w)

/-- The cross-lane moves: the greatest element count, and the source element of each destination element (R225). -/
def moveForm (R C : Nat) : Instr → Option (Tok × VHdr × BitVec 6 × List (BitVec 6) × Nat × (List VReg → Nat → Nat))
  | .vshuf t h d x y => some (t, h, d, [x, y], 1024, fun vs i => el (vs.getD 1 0) 2 i)
  | .vrotRow t h d x n => some (t, h, d, [x], 2048, fun _ i => i / C * C + (i % C + n.toNat) % C)
  | .vrotCol t h d x n => some (t, h, d, [x], 2048, fun _ i => (i / C + n.toNat) % R * C + i % C)
  | .vtran t h d x => some (t, h, d, [x], 2048, fun _ i => i % R * C + i / R)
  | .vbcRow t h d x => some (t, h, d, [x], 2048, fun _ i => i % C)
  | .vbcCol t h d x => some (t, h, d, [x], 2048, fun _ i => i / C)
  | _ => none

end Sys2Proof.Claims

open Sys2Proof Sys2Proof.Machine Sys2Proof.Claims

/-- R218. VCMP puts one mask in flight: each active element's bit is the comparison's truth, a bit of an element that is not active is
zero under MZ and else stays, and the bits from E on stay.

R83, R221. VCVT converts each active element from its type to the format of the entry that FTX selects, in the entry's rounding
mode; stochastic rounding steps the generator once for four elements.

The model's own choices and readings that it rests on: logs 21, 156. -/
def Obligations.VectorCompareAndConvert : Prop :=
  (∀ (s : State) (c c' : Ctx) (T : Fmt) (t : Tok) (h : VHdr) (kd x y cond : BitVec 6) (u w : VReg),
     elementType h.ty.toNat = some T → (s.fullService s.cur.loom = true ∨ T ≠ .fp16) → s.ctx.tokens .X t = .ok c →
     c.rows * c.cols * T.bytes ≤ 2048 → readyK c h.mask → readyK c (kd.setWidth 3) → readySrcs c [x, y] →
     vTake c [x, y] = some (c', [u, w]) → wideRoom c →
     ∃ m : KReg,
       (∀ j < 2048, m.getLsbD j =
         if c.rows * c.cols ≤ j then (c.kVal (kd.setWidth 3)).getLsbD j
         else if (c.kVal h.mask).getLsbD j then compares T cond.toNat (el u T.bytes j) (el w T.bytes j)
         else if h.mz = 1 then false else (c.kVal (kd.setWidth 3)).getLsbD j) ∧
       exec (.vcmp t h kd x y cond) s =
         issued (s.setCtx { c' with inFlight := c'.inFlight ++ [resultK c (kd.setWidth 3) m 4 t] })) ∧
  (∀ (s : State) (c c' : Ctx) (T D : Fmt) (t : Tok) (h : VHdr) (vd va : BitVec 6) (u : VReg),
     elementType h.ty.toNat = some T → s.ctx.tokens .X t = .ok c →
     Fmt.ofCode (entryO (s.ftxEntry c)) = some D → D ≠ .e2m1 → entryR (s.ftxEntry c) ≤ 5 →
     (s.fullService s.cur.loom = true ∨ (T ≠ .fp16 ∧ (D = .fp32 ∨ D = .bf16))) →
     c.rows * c.cols * T.bytes ≤ 2048 → c.rows * c.cols * D.bytes ≤ 2048 → readyK c h.mask → readySrcs c [va] →
     vTake c [va] = some (c', [u]) → vRoom c vd →
     ∃ v : VReg,
       elementsAre v (vBefore c vd) D.bytes (c.rows * c.cols) (fun j =>
         if (c.kVal h.mask).getLsbD j then (D.encode (modeOf c.g (entryR (s.ftxEntry c)) j) (T.decode (el u T.bytes j))).1
         else if h.mz = 1 ∨ 32 ≤ vd.toNat then 0 else el (vBefore c vd) D.bytes j) ∧
       exec (.vcvt t h vd va) s = issued (s.setCtx
         { vPut c' vd (c.rows * c.cols * D.bytes) v 4 t (flagsOf (c.rows * c.cols) (fun j => (c.kVal h.mask).getLsbD j)
             (fun j => (D.encode (modeOf c.g (entryR (s.ftxEntry c)) j) (T.decode (el u T.bytes j))).2)) with
           g := genEnd c.g (entryR (s.ftxEntry c)) (c.rows * c.cols) }))

/-- R222. VQUANT quantises each block of 32 elements into E2M1: the codes of the block go to the first destination, four bits each, and
its scale and extra byte to the second.

R223. VDEQ gives each element the value of its E2M1 code times its block's scale, rounded to nearest even.

The model's own choices and readings that it rests on: log 21. -/
def Obligations.BlockFormats : Prop :=
  (∀ (s : State) (c c' : Ctx) (T : Fmt) (t : Tok) (h : VHdr) (vd va vs : BitVec 6) (u : VReg),
     elementType h.ty.toNat = some T → s.ctx.tokens .X t = .ok c → s.fullService s.cur.loom = true →
     entryO (s.ftxEntry c) = 5 → entryS (s.ftxEntry c) = true → entryR (s.ftxEntry c) ≤ 5 →
     c.rows * c.cols * T.bytes ≤ 2048 → c.cols % 32 = 0 → readySrcs c [va] → vTake c [va] = some (c', [u]) →
     c.inFlight.length < 31 → (c.inFlight.filter (fun r => r.dest.wide)).length < 29 →
     vDest c vd 0 → vDest c vs (if 32 ≤ vd.toNat ∧ (vd.setWidth 1 : BitVec 1) = vs.setWidth 1 then 1 else 0) →
     ∃ (v w : VReg) (fl : Flags),
       (∀ b < c.rows * c.cols / 32,
         let r := e2m1Block ((List.range 32).map (fun j => modeOf c.g (entryR (s.ftxEntry c)) (32 * b + j)))
           ((List.range 32).map (fun j => T.decode (el u T.bytes (32 * b + j))))
         (∀ j < 32, v.toNat / 16 ^ (32 * b + j) % 16 = r.1.getD j 0 % 16) ∧
           el w 1 (2 * b) = r.2.1 % 256 ∧ el w 1 (2 * b + 1) = r.2.2.1 % 256) ∧
       v.toNat / 2 ^ (4 * (c.rows * c.cols)) = (vBefore c vd).toNat / 2 ^ (4 * (c.rows * c.cols)) ∧
       w.toNat / 2 ^ (c.rows * c.cols / 2) = (vBefore c vs).toNat / 2 ^ (c.rows * c.cols / 2) ∧
       exec (.vquant t h vd va vs) s = issued (s.setCtx
         { vPut (vPut c' vd (c.rows * c.cols / 2) v 8 { wt := false, ps := false } fl) vs (c.rows * c.cols / 16) w 8 t 0 with
           g := genEnd c.g (entryR (s.ftxEntry c)) (c.rows * c.cols) })) ∧
  (∀ (s : State) (c c' : Ctx) (T : Fmt) (t : Tok) (h : VHdr) (vd va vb : BitVec 6) (u w : VReg),
     elementType h.ty.toNat = some T → s.ctx.tokens .X t = .ok c → s.fullService s.cur.loom = true →
     entryA (s.ftxEntry c) = 5 → entryS (s.ftxEntry c) = true → c.rows * c.cols * T.bytes ≤ 2048 → c.cols % 32 = 0 →
     readySrcs c [va, vb] → vTake c [va, vb] = some (c', [u, w]) → vRoom c vd →
     let one : Nat → Nat × Flags := fun j =>
       T.encode .rne (e2m1Value (u.toNat / 16 ^ j % 16) (el w 1 (2 * (j / 32) + 1)) (el w 1 (2 * (j / 32))))
     ∃ v : VReg, elementsAre v (vBefore c vd) T.bytes (c.rows * c.cols) (fun j => (one j).1) ∧
       exec (.vdeq t h vd va vb) s = issued (s.setCtx (vPut c' vd (c.rows * c.cols * T.bytes) v 4 t
         (flagsOf (c.rows * c.cols) (fun _ => true) (fun j => (one j).2)))))

/-- R224. A reduction gives, in the first places of its destination, one result for each row or column of the tile: of the group's
active elements.

R225. A cross-lane move gives every element of the tile the source element that the move names, or zero where that element is
outside the tile or not active. -/
def Obligations.ReductionsAndLaneMoves : Prop :=
  (∀ (s : State) (c c' : Ctx) (i : Instr) (T : Fmt) (t : Tok) (h : VHdr) (vd va : BitVec 6) (wide sat : BitVec 1) (op : RedOp)
     (row : Bool) (u : VReg),
     redForm i = some (t, h, vd, va, wide, sat, op, row) → elementType h.ty.toNat = some T →
     (s.fullService s.cur.loom = true ∨ T ≠ .fp16) → s.ctx.tokens .X t = .ok c →
     c.rows * c.cols * T.bytes ≤ 2048 → (if row then c.rows else c.cols) * (wideType T wide).bytes ≤ 2048 →
     readyK c h.mask → readySrcs c [va] → vTake c [va] = some (c', [u]) → vRoom c vd →
     let n := if row then c.rows else c.cols
     let one : Nat → Nat × Flags := fun g => groupValue T wide sat op (groupOf c (c.kVal h.mask) row u T.bytes g)
     ∃ v : VReg, elementsAre v (vBefore c vd) (wideType T wide).bytes n (fun g => (one g).1) ∧
       exec i s = issued (s.setCtx (vPut c' vd (n * (wideType T wide).bytes) v 8 t
         (flagsOf n (fun _ => true) (fun g => (one g).2))))) ∧
  (∀ (s : State) (c c' : Ctx) (i : Instr) (T : Fmt) (t : Tok) (h : VHdr) (vd : BitVec 6) (srcs : List (BitVec 6)) (limit : Nat)
     (src : List VReg → Nat → Nat) (vs : List VReg),
     moveForm c.rows c.cols i = some (t, h, vd, srcs, limit, src) → elementType h.ty.toNat = some T →
     (s.fullService s.cur.loom = true ∨ T ≠ .fp16) → s.ctx.tokens .X t = .ok c →
     c.rows * c.cols * T.bytes ≤ 2048 → c.rows * c.cols ≤ limit → readyK c h.mask → readySrcs c srcs →
     vTake c srcs = some (c', vs) → vRoom c vd →
     ∃ v : VReg,
       elementsAre v (vBefore c vd) T.bytes (c.rows * c.cols) (fun j =>
         if src vs j < c.rows * c.cols ∧ (c.kVal h.mask).getLsbD (src vs j) = true then el (vs.getD 0 0) T.bytes (src vs j) else 0) ∧
       exec i s = issued (s.setCtx (vPut c' vd (c.rows * c.cols * T.bytes) v 8 t 0)))

namespace Sys2Proof.Claims

open Sys2Proof Sys2Proof.Machine

/-- No fence in force holds an access of a stream (R97). -/
def fenceFree (c : Ctx) (st : BitVec 4) : Prop := ∀ f ∈ c.fences, f.mask.getLsbD st.toNat = true → c.waitsOn f.ids = false

/-- A counter has room for one operation more (R169). -/
def counterFree (c : Ctx) (k : Option Counter) : Prop :=
  ∀ x, k = some x → (c.outs.filter (fun o => o.ctr == x)).length < 65535

/-- No channel or slice that an access meets has 64 requests of the context unanswered (R375). -/
def channelFree (c : Ctx) (sps : List Span) : Prop :=
  ∀ sp ∈ sps, offChip sp.pa = true →
    (c.accs.filter (fun a => a.undone.any (fun x => offChip x.pa && x.serving == sp.serving))).length < 64

/-- There is room where the data of an access go (R159, R160, R350). -/
def dataRoom (c : Ctx) : AccDest → Prop
  | .reg _ => (c.inFlight.filter (fun r => r.awaiting.isSome)).length < 16 ∧ c.inFlight.length < 32
  | .lq q => c.lq[q.toNat].length < 8
  | _ => True

/-- A context in which the place of an access's data is taken: a result that awaits it, or an entry at a load queue's tail. -/
def dataPlace (c : Ctx) (a : Access) (lat : Nat) : Ctx :=
  match a.dest with
  | .reg r =>
    { c with inFlight := c.inFlight ++
        [{ eng := .A, dest := .a r, value := 0, due := if c.exposed .A then c.ea.cyc + 1 + lat else 0, awaiting := some a.id }] }
  | .lq q =>
    { c with lq := c.lq.set q.toNat (c.lq[q.toNat] ++ [{ data := 0, len := a.len, pending := true, filler := some a.id }]) q.isLt }
  | _ => c

/-- The state in which an access has been handed to memory: it is counted, its data have a place, and it joins the outstanding accesses
of its context (R156, R169). -/
def handed (s : State) (t : Tok) (c : Ctx) (a : Access) (k : Option Counter) (lat : Nat) (base : Nat := 0) : State :=
  s.joinAccess t (dataPlace (s.counted c a k lat base) (s.numbered c a) lat) (s.numbered c a)

/-- What an instruction that accesses memory needs and hands over: its token bits, the registers that it reads, its context after
queue entries are popped, the access, the counter that counts it, its declared latency, and the cycle before which the latency does not
begin. -/
structure MemForm where
  tok : Tok
  srcs : List (BitVec 6)
  ctx : Ctx
  acc : Access
  ctr : Option Counter
  lat : Nat
  base : Nat := 0

/-- A store queue's head, filled, and the context without it. -/
def sqTake (c : Ctx) (q : BitVec 1) : Option (Ctx × QEntry) :=
  match c.sq[q.toNat].head? with
  | none => none
  | some e => if e.pending then none else some ({ c with sq := c.sq.set q.toNat (c.sq[q.toNat].drop 1) q.isLt }, e)

/-- The address of format M: the base moved by the scaled offset within its low 48 bits (R155). -/
def address (c : Ctx) (base : BitVec 6) (off : BitVec 8) (u : Nat) : W64 :=
  BitVec.ofInt 64 (inOffset (av c base) (off.toInt * u))

/-- The LEN of a queue access: bits 11 to 0 of the register after the base, with 0 for 2,048 (R155). -/
def length12 (c : Ctx) (base : BitVec 6) : Nat :=
  let n := (av c (base + 1)).toNat % 4096
  if n = 0 then 2048 else n

/-- Bytes of a queue entry from its start, with zeros past its length (R160). -/
def entryBytes (e : QEntry) (n : Nat) : List Byte :=
  (List.range n).map (fun i => if i < e.len then BitVec.ofNat 8 (e.data.toNat / 2 ^ (8 * i)) else 0)

/-- Index i of a gather's or scatter's index entry: past the entry's end the index that skips (R162). -/
def index (e : QEntry) (i : Nat) : W32 :=
  if 4 * i + 4 ≤ e.len then BitVec.ofNat 32 (e.data.toNat / 2 ^ (32 * i)) else 0x80000000

/-- The elements of a gather or scatter that are not skipped: their places in the data, their addresses and their width. -/
def elements (e : QEntry) (ea : W64) (shift w n : Nat) : List (Nat × W64 × Nat) :=
  ((List.range n).filter (fun i => index e i ≠ 0x80000000)).map (fun i =>
    (w * i, BitVec.ofInt 64 (inOffset ea.toNat ((index e i).toInt * 2 ^ shift)), w))

/-- The rows of a 2-D access: their places in the data, their addresses and their width (R161). -/
def rowsOf (ea : W64) (pitch : W64) (rows bytes : Nat) : List (Nat × W64 × Nat) :=
  (List.range rows).map (fun k => (k * bytes, BitVec.ofInt 64 (inOffset ea.toNat ((k : Int) * pitch.toInt)), bytes))

/-- The spans that runs of bytes have where every one of them is in place. -/
def placed (s : State) (c : Ctx) (op : MemOp) (maj : Nat) (runs : List (Nat × W64 × Nat)) : Option (List Span) :=
  (s.checkRuns s.cur.who s.cur.loom c.peer op maj runs).toOption

/-- The same for one run. -/
def placedOne (s : State) (c : Ctx) (op : MemOp) (maj : Nat) (a : W64) (len : Nat) : Option (List Span) :=
  (s.checkRun s.cur.who s.cur.loom c.peer op maj 0 a len).toOption

/-- A load form. -/
def loadForm (s : State) (t : Tok) (srcs : List (BitVec 6)) (c : Ctx) (st : BitVec 4) (a : W64) (sps : List Span) (d : AccDest)
    (n : Nat) : MemForm :=
  { tok := t, srcs := srcs, ctx := c, ctr := some .ldc, lat := s.latencyOf c a sps,
    acc := { id := 0, kind := .load, stream := st, spans := sps, dest := d, len := n } }

/-- A store form. -/
def storeForm (s : State) (t : Tok) (srcs : List (BitVec 6)) (c : Ctx) (st : BitVec 4) (a : W64) (sps : List Span) (data : List Byte)
    (n : Nat) : MemForm :=
  { tok := t, srcs := srcs, ctx := c, ctr := some .stc, lat := s.latencyOf c a sps,
    acc := { id := 0, kind := .store data (a.toNat / 2 ^ 60 == 3), stream := st, spans := sps, dest := .none, len := n } }

/-- The loads and stores of R157 and R160 to R162, where their operands are aligned and their bytes in place. -/
def memForm (s : State) (c : Ctx) : Instr → Option MemForm
  | .lda t r b st off =>
    let a := address c b off 8
    if a.toNat % 8 ≠ 0 then none
    else (placedOne s c .load 0x1A a 8).map (fun sps => loadForm s t [b] c st a sps (.reg r) 8)
  | .sta t r b st off =>
    let a := address c b off 8
    if a.toNat % 8 ≠ 0 then none
    else (placedOne s c .store 0x1B a 8).map (fun sps => storeForm s t [b, r] c st a sps (leBytes 8 (av c r).toNat) 8)
  | .ldq t q b st off =>
    let a := address c b off 32
    let n := length12 c b
    if a.toNat % 4 ≠ 0 ∨ n % 4 ≠ 0 ∨ 2048 < n then none
    else (placedOne s c .load 0x1C a n).map (fun sps => loadForm s t [b, b + 1] c st a sps (.lq (q.setWidth 2)) n)
  | .stq t q b st off =>
    let a := address c b off 32
    let n := length12 c b
    if a.toNat % 4 ≠ 0 ∨ n % 4 ≠ 0 ∨ 2048 < n then none
    else (sqTake c (q.setWidth 1)).bind (fun x =>
      (placedOne s x.1 .store 0x1E a n).map (fun sps => storeForm s t [b, b + 1] x.1 st a sps (entryBytes x.2 n) n))
  | .ldq2d t q b st off rows bytes =>
    let a := address c b off 32
    let p := c.aVal (b + 1)
    let n := (rows.toNat + 1) * (bytes.toNat + 1)
    if 2048 < n ∨ a.toNat % 4 ≠ 0 ∨ p.toNat % 4 ≠ 0 ∨ (bytes.toNat + 1) % 4 ≠ 0 then none
    else (placed s c .load 0x1D (rowsOf a p (rows.toNat + 1) (bytes.toNat + 1))).map (fun sps =>
      loadForm s t [b, b + 1] c st a sps (.lq (q.setWidth 2)) n)
  | .stq2d t q b st off rows bytes =>
    let a := address c b off 32
    let p := c.aVal (b + 1)
    let n := (rows.toNat + 1) * (bytes.toNat + 1)
    if 2048 < n ∨ a.toNat % 4 ≠ 0 ∨ p.toNat % 4 ≠ 0 ∨ (bytes.toNat + 1) % 4 ≠ 0 then none
    else (sqTake c (q.setWidth 1)).bind (fun x =>
      (placed s x.1 .store 0x1F (rowsOf a p (rows.toNat + 1) (bytes.toNat + 1))).map (fun sps =>
        storeForm s t [b, b + 1] x.1 st a sps (entryBytes x.2 n) n))
  | .gathq t q b st off esz isq shift =>
    let a := address c b off 8
    let n := length12 c b
    let w := 2 ^ esz.toNat
    (sqTake c isq).bind (fun x =>
      let es := elements x.2 a shift.toNat w (n / w)
      if n % w ≠ 0 ∨ 2048 < n ∨ es.any (fun e => e.2.1.toNat % w != 0) then none
      else (placed s x.1 .load 0x20 es).map (fun sps => loadForm s t [b, b + 1] x.1 st a sps (.lq (q.setWidth 2)) n))
  | .scatq t q b st off esz isq shift =>
    let a := address c b off 8
    let n := length12 c b
    let w := 2 ^ esz.toNat
    (sqTake c isq).bind (fun x => (sqTake x.1 (q.setWidth 1)).bind (fun y =>
      let es := elements x.2 a shift.toNat w (n / w)
      if n % w ≠ 0 ∨ 2048 < n ∨ es.any (fun e => e.2.1.toNat % w != 0) then none
      else (placed s y.1 .store 0x21 es).map (fun sps => storeForm s t [b, b + 1] y.1 st a sps (entryBytes y.2 n) n)))
  | _ => none

/-- An atomic form: the word's old value goes to a register, or nowhere (R164, R165). -/
def amo (s : State) (c : Ctx) (t : Tok) (ra : Option (BitVec 6)) (rb : BitVec 6) (st : BitVec 4) (maj : Nat) (op : AtomicOp)
    (ao : BitVec 6) (more : List (BitVec 6) := []) : Option MemForm :=
  let a := c.aVal rb
  if a.toNat % 8 ≠ 0 then none
  else (placedOne s c (if maj = 0x25 then .faa else .atomic) maj a 8).map (fun sps =>
    { tok := t, srcs := rb :: ao :: more, ctx := c, ctr := some (if ra.isSome then .ldc else .stc), lat := s.latencyOf c a sps,
      acc := { id := 0, kind := .atomic op (c.aVal ao), stream := st, spans := sps, len := 8,
               dest := ra.elim .none (fun r => .reg r) } })

/-- The atomics. -/
def atomicForm (s : State) (c : Ctx) : Instr → Option MemForm
  | .amoAdd t r b st o => amo s c t (some r) b st 0x23 .add o
  | .amoAddN t b st o => amo s c t none b st 0x23 .add o
  | .amoAnd t r b st o => amo s c t (some r) b st 0x23 .and o
  | .amoAndN t b st o => amo s c t none b st 0x23 .and o
  | .amoOr t r b st o => amo s c t (some r) b st 0x23 .or o
  | .amoOrN t b st o => amo s c t none b st 0x23 .or o
  | .amoXor t r b st o => amo s c t (some r) b st 0x23 .xor o
  | .amoXorN t b st o => amo s c t none b st 0x23 .xor o
  | .amoMin t r b st o => amo s c t (some r) b st 0x23 .min o
  | .amoMinN t b st o => amo s c t none b st 0x23 .min o
  | .amoMax t r b st o => amo s c t (some r) b st 0x23 .max o
  | .amoMaxN t b st o => amo s c t none b st 0x23 .max o
  | .amoMinu t r b st o => amo s c t (some r) b st 0x23 .minu o
  | .amoMinuN t b st o => amo s c t none b st 0x23 .minu o
  | .amoMaxu t r b st o => amo s c t (some r) b st 0x23 .maxu o
  | .amoMaxuN t b st o => amo s c t none b st 0x23 .maxu o
  | .amoSwap t r b st o => amo s c t (some r) b st 0x23 .swap o
  | .amoSwapN t b st o => amo s c t none b st 0x23 .swap o
  | .cas t r b st x y => amo s c t (some r) b st 0x24 (.cas (c.aVal y)) x [y]
  | .faaC t r b st o => amo s c t (some r) b st 0x25 .faaC o
  | _ => none

/-- A barrier form at an aligned address of a place that admits barriers (R179). -/
def barForm (s : State) (c : Ctx) (t : Tok) (srcs : List (BitVec 6)) (rb : BitVec 6) (st : BitVec 4) (k : AccKind) (d : AccDest)
    (after : List Nat := []) : Option MemForm :=
  let a := c.aVal rb
  if a.toNat / 2 ^ 60 = 15 ∨ a.toNat % 32 ≠ 0 then none
  else (placedOne s c .object 0x2C a 32).map (fun sps =>
    { tok := t, srcs := rb :: srcs, ctx := c, ctr := none, lat := s.latencyOf c a sps,
      acc := { id := 0, kind := k, stream := st, spans := sps, dest := d, len := 8, after := after, obj := some a.toNat } })

/-- The barrier forms that are handed to memory, and REL.ST (R176, R177, R179, R181). -/
def objectForm (s : State) (c : Ctx) : Instr → Option MemForm
  | .barInit t ra rb st ab =>
    barForm s c t [ra, ab] rb st (.barInit ((c.aVal ra).toNat % 2 ^ 32) ((c.aVal ab).toNat % 2 ^ 48)) .none
  | .barExpect t ra rb st => barForm s c t [ra] rb st (.barExpect ((c.aVal ra).toNat % 2 ^ 48)) .none
  | .barArrive t ra rb st scope =>
    barForm s c t [] rb st .barArrive (.reg ra) (c.covers (c.aVal rb).toNat st scope.toNat)
  | .barTest t ra rb st => barForm s c t [] rb st .barTest (.reg ra)
  | .barFlags t ra rb st => barForm s c t [] rb st .barFlags (.reg ra)
  | .relSt t ra rb st scope =>
    let a := c.aVal rb
    if a.toNat / 2 ^ 60 = 15 ∨ a.toNat % 8 ≠ 0 then none
    else match place a with
      | some (.multicast _) | some (.striped _) | none => none
      | _ => (placedOne s c .store 0x29 a 8).map (fun sps =>
        { tok := t, srcs := [rb, ra], ctx := c, ctr := some .stc, lat := s.latencyOf c a sps,
          base := c.relStBase a.toNat st scope.toNat,
          acc := { id := 0, kind := .relSt (c.aVal ra), stream := st, spans := sps, dest := .none, len := 8,
                   after := c.covers a.toNat st scope.toNat ++ c.peerStores st scope.toNat, obj := some a.toNat } })
  | _ => none

/-- What every instruction of a table of memory forms does where nothing holds it. -/
def Issues (form : State → Ctx → Instr → Option MemForm) : Prop :=
  ∀ (s : State) (c : Ctx) (i : Instr) (f : MemForm),
    form s c i = some f → s.ctx.tokens .A f.tok = .ok c → (∀ r ∈ f.srcs, readyA c r) → fenceFree f.ctx f.acc.stream →
    counterFree f.ctx f.ctr → channelFree f.ctx f.acc.spans → dataRoom f.ctx f.acc.dest →
    exec i s = issued (handed s f.tok f.ctx f.acc f.ctr f.lat f.base)

/-- A handle: the mark, and zero in its reserved bits (R2, R172). -/
def handleOk (h : W64) : Prop := h.toNat / 2 ^ 60 = 15 ∧ h.toNat / 2 ^ 17 % 2 ^ 15 = 0 ∧ h.toNat / 2 ^ 14 % 2 ^ 2 = 0

/-- What may name an object of ACQ and REL: a handle or an address. -/
def objectOk (a : W64) : Prop := handleOk a ∨ (a.toNat / 2 ^ 60 ≠ 15 ∧ (place a).isSome = true)

/-- A context in which a fence over the streams of a mask is in force, as long as an access of those streams is outstanding. -/
def fenced (c : Ctx) (mask : BitVec 16) : Ctx :=
  let held := (c.accs.filter (fun a => mask.getLsbD a.stream.toNat)).map (fun a => a.id)
  { c with fences := c.fences.filter (fun f => c.waitsOn f.ids) ++ (if held = [] then [] else [{ mask := mask, ids := held }]) }

/-- The translation that the buffer of the moving context's bolt holds for a virtual address (R65). -/
def held (s : State) (c : Ctx) (va : Nat) : Option TlbEntry := (s.bolt (boltOf s.cur.loom)).lookup c.peer va

/-- An address of 8 bytes, or of the start of 8, that lies in a scratchpad. -/
def inPad (a : W64) : Prop :=
  (∃ o, place a = some (.loom o) ∧ o + 8 ≤ 2 ^ 20) ∨ (∃ o, place a = some (.bolt o) ∧ o + 8 ≤ 2 ^ 23)

/-- An object that agrees with its kind and lies in the partition (R178): a barrier on 32 bytes, in a scratchpad or a memory-side page;
a bobbin of the partition; a flag word on 8 bytes, in a scratchpad or a writable page that is no accumulator; a counter of the
partition's table. -/
def bindObject (s : State) (p : Partition) (c : Ctx) (kind : Nat) (a : W64) : Prop :=
  let page : (TlbEntry → Prop) → Prop := fun f => ∃ va e, place a = some (.virt va) ∧ held s c va = some e ∧ f e
  match kind with
  | 0 => a.toNat % 32 = 0 ∧ (inPad a ∨ page (fun e => e.attrs.getLsbD attrMS = true))
  | 1 => handleOk a ∧ a.toNat / 2 ^ 48 % 2 ^ 12 = c.peer ∧ p.hasBobbin a = true
  | 2 => a.toNat % 8 = 0 ∧ (inPad a ∨ page (fun e => e.attrs.getLsbD attrW = true ∧ e.attrs.getLsbD attrAW = false))
  | 3 => page (fun e => (p.counterAt (e.pa + (a.toNat - e.va)) 1).isSome = true ∧ (e.pa + (a.toNat - e.va)) % 16 = 0)
  | _ => False

/-- A counter's outstanding operations. -/
def outstanding (c : Ctx) (k : Counter) : Nat := (c.outs.filter (fun o => o.ctr == k)).length

end Sys2Proof.Claims

open Sys2Proof Sys2Proof.Machine Sys2Proof.Claims

/-- R155 to R157, R159 to R162, R169. A load, store, gather or scatter whose operands are there, aligned and in place, and which no
fence, full counter or full queue holds, is handed to memory.

R164, R165. The same for the atomics: AMO, CAS and FAA.C, with and without a returned value.

R176, R177, R179, R181. The same for REL.ST and the barrier forms but BAR.WAIT.

The model's own choices and readings that it rests on: logs 57, 107, 141, 145, 146, 147. -/
def Obligations.AccessesIssue : Prop :=
  (Issues memForm) ∧
  (Issues atomicForm) ∧
  (Issues objectForm)

/-- R156. Handing an access over changes no byte of memory, no register, no flag and no control register of its context but those
that its result will go to. -/
def Obligations.AccessFrame : Prop :=
  ∀ (s : State) (t : Tok) (c : Ctx) (a : Access) (k : Option Counter) (lat : Nat),
    let u := handed s t c a k lat
    let d := u.ctxAt s.cur.loom s.cur.ev
    u.mem = s.mem ∧ d.a = c.a ∧ d.s = c.s ∧ d.v = c.v ∧ d.k = c.k ∧ d.flags = c.flags ∧ d.g = c.g ∧ d.vshape = c.vshape ∧
      d.ftx = c.ftx ∧ d.sq = c.sq ∧ d.bq = c.bq ∧ d.tvec = c.tvec ∧ d.tframe = c.tframe ∧ d.tcause = c.tcause ∧ d.ea = c.ea ∧
      d.ex = c.ex ∧ u.lineMeta = s.lineMeta ∧ u.parts = s.parts

/-- R97, R174. FENCE.S, FENCE.X and FENCE.D put a fence in force over one stream, over the streams of a mask, and over all of them;
FENCE.D also empties the loom's L1.

R101, R104, R175, R176. ACQ issues once no read of the object by the streams that it covers is outstanding, and acquires each
update of it that such a read has returned, which drops the L1 lines of the object's regions. REL marks a release pending, of which a
context holds four.

R171. WAIT.C issues once every counter is at most its limit, where a limit of 63 asks for nothing, and waits until then. -/
def Obligations.FencesAndReleases : Prop :=
  (∀ (s : State) (c : Ctx) (t : Tok), s.ctx.tokens .A t = .ok c →
     (∀ st : BitVec 4, exec (.fenceS t st) s = issued (s.setCtx ((fenced c (BitVec.ofNat 16 (2 ^ st.toNat))).postNow .A t))) ∧
     (∀ mask : BitVec 16, exec (.fenceX t mask) s = issued (s.setCtx ((fenced c mask).postNow .A t))) ∧
     exec (.fenceD t) s = issued ((s.setCtx ((fenced c 0xFFFF).postNow .A t)).l1Clear s.cur.loom)) ∧
  (∀ (s : State) (c : Ctx) (t : Tok) (rb : BitVec 6) (st : BitVec 4) (scope : BitVec 5),
     s.ctx.tokens .A t = .ok c → readyA c rb → objectOk (c.aVal rb) →
     let a := (c.aVal rb).toNat
     let covered : Nat → Bool := fun n => decide (scope ≠ 0) || decide (n = st.toNat)
     ((∀ x ∈ c.accs, covered x.stream.toNat = true → s.readsObject c.peer x a = false) →
       exec (.acq t rb st scope) s = issued (
         (c.seen.filter (fun x => x.obj == ownAddr c.peer a && covered x.stream)).foldl
           (fun u x => u.acquireSeen s.cur.loom c.peer x) (s.setCtx (c.postNow .A t)))) ∧
     (c.rels.length < 4 →
       exec (.rel t rb st scope) s = issued (s.setCtx
         ((({ c with rels := c.rels ++ [{ obj := a, mask := scopeMask st scope.toNat, covers := c.covers a st scope.toNat }] } : Ctx).postNow
           .A t))))) ∧
  (∀ (s : State) (c : Ctx) (t : Tok) (nl ns nc nt : BitVec 6), s.ctx.tokens .A t = .ok c →
     let met : BitVec 6 → Counter → Bool := fun n k => decide (n.toNat = 63) || decide (outstanding c k ≤ n.toNat)
     exec (.waitC t nl ns nc nt) s =
       if met nl .ldc && met ns .stc && met nc .cpc && met nt .tkc then issued (s.setCtx (c.postNow .A t))
       else .next { s with disp := .waits (.waitC nl.toNat ns.toNat nc.toNat nt.toNat) })

/-- R178, R283. BIND completes on a region of its partition on 128-byte lines that no other binding meets, for an object that agrees
with its kind: it writes the first free entry of the plane's binding section. UNBIND completes on the base of a region: it clears the
region's entry. Both empty the loom's L1, once nothing of the context is outstanding and no difference is applied.

R163. PREF completes at every address once no fence holds it. At a virtual address whose page the translation buffer holds, it
fills the line into the loom's L1 if its hint is 0 and a load of the line would neither fault nor suspend; at a page whose walk has
failed, and at any other place, it has no effect.

The model's own choices and readings that it rests on: logs 129, 142, 149. -/
def Obligations.BindingsAndPrefetch : Prop :=
  (∀ (s : State) (c : Ctx) (t : Tok) (p : Partition), s.ctx.tokens .A t = .ok c → s.part? c.peer = some p → c.accs = [] →
     p.diffing = false →
     (∀ (ra rb : BitVec 6) (st : BitVec 4) (kind : BitVec 5) (ao : BitVec 6) (pl : Place) (i : Nat),
       readyA c ra → readyA c rb → readyA c ao → (c.aVal ra).toNat % 128 = 0 → (c.aVal rb).toNat % 128 = 0 →
       place (c.aVal ra) = some pl → (match pl with | .virt _ | .loom _ | .bolt _ => True | _ => False) →
       pl.offset.1 + (c.aVal rb).toNat ≤ pl.offset.2 → bindObject s p c kind.toNat (c.aVal ao) →
       (∀ b ∈ p.bindings, overlapLen (c.aVal ra).toNat (c.aVal rb).toNat b.base b.len = 0) →
       i < 256 → (∀ b ∈ p.bindings, b.idx ≠ i) → (∀ j < i, ∃ b ∈ p.bindings, b.idx = j) →
       exec (.bind t ra rb st kind ao) s = issued (((s.setCtx (c.postNow .A t)).setPart c.peer
         (p.putBinding i (leBytes 8 (c.aVal ra).toNat ++ leBytes 8 (c.aVal rb).toNat ++ leBytes 8 (c.aVal ao).toNat
           ++ leBytes 8 (4 + kind.toNat)))).l1Clear s.cur.loom)) ∧
     (∀ (ra : BitVec 6) (st : BitVec 4) (b : Binding), readyA c ra → b ∈ p.bindings → b.base = (c.aVal ra).toNat →
       (∀ d ∈ p.bindings, d.base = b.base → d = b) →
       exec (.unbind t ra st) s =
         issued (((s.setCtx (c.postNow .A t)).setPart c.peer (p.putBinding b.idx (List.replicate 32 0))).l1Clear s.cur.loom))) ∧
  (∀ (s : State) (c : Ctx) (t : Tok) (hint base : BitVec 6) (st : BitVec 4) (off : BitVec 8),
     s.ctx.tokens .A t = .ok c → readyA c base → fenceFree c st →
     let ea := address c base off 128
     let u := s.setCtx (c.postNow .A t)
     ((∀ va, place ea ≠ some (.virt va)) → exec (.pref t hint base st off) s = issued u) ∧
     (∀ va e, place ea = some (.virt va) → held s c va = some e →
       let line := va / 128 * 128
       let sp : Span := { pa := e.pa + (line - e.va), va := line, len := 128, off := 0, attrs := e.attrs }
       exec (.pref t hint base st off) s = issued (
         if hint = 0 ∧ u.suspended sp.pa = false ∧
             (u.meetLine sp.pa line sp.attrs false (u.readMask sp.attrs ⟨sp.pa, line, 0, 128⟩)).2 = none then
           u.l1Fill s.cur.loom sp else u)) ∧
     (∀ va x, place ea = some (.virt va) → held s c va = none → x ∈ (s.bolt (boltOf s.cur.loom)).badWalks → x.who = s.cur.who →
       x.peer = c.peer → x.page = pageOf va → exec (.pref t hint base st off) s = issued (u.dropWalks s.cur.loom s.cur.ev)))

/-- R181. BAR.WAIT on a ready barrier of this device completes once the phase that it names has passed, and acquires the flip; it waits
until then, and on a barrier that is not ready it faults. BARRIER_TIMEOUT ends the wait with the fault TIMEOUT and marks the barrier.

The model's own choices and readings that it rests on: logs 17, 112, 143. -/
def Obligations.BarrierWaits : Prop :=
  (∀ (s : State) (c : Ctx) (t : Tok) (ra rb : BitVec 6) (st : BitVec 4) (scope : BitVec 2) (sp : Span),
    s.ctx.tokens .A t = .ok c → readyA c ra → readyA c rb → (c.aVal rb).toNat / 2 ^ 60 ≠ 15 → (c.aVal rb).toNat % 32 = 0 →
    placedOne s c .object 0x2C (c.aVal rb) 32 = some [sp] → sp.peer = none → fenceFree c st → c.unwritten st [sp] = false →
    (s.meetBarrier sp).2 = none →
    let phase := (c.aVal ra).toNat % 2 ^ 32
    let b := s.barrier sp.pa
    exec (.barWait t ra rb st scope) s =
      if b.state ≠ 1 then .next { s with disp := .faults (barrierFault (c.aVal rb).toNat b) }
      else if (b.phase + 2 ^ 32 - phase) % 2 ^ 32 = 0 ∨ 2 ^ 31 < (b.phase + 2 ^ 32 - phase) % 2 ^ 32 then
        .next { s with disp := .waits (.barrier sp.pa phase (c.aVal rb).toNat) }
      else issued ((s.setCtx ({ c with barSeen := none, barWait := none }.postNow .A t)).acquireFlip s.cur.loom c.peer
        (c.aVal rb).toNat sp.pa phase)) ∧
  (∀ (s : State) (loom : Nat) (ev : Bool) (pa phase raw : Nat) (sp : Span) (p : Partition),
    (s.ctxAt loom ev).barWait = some (pa, phase, raw) → (s.ctxAt loom ev).act = .running →
    s.barrierHere loom (s.ctxAt loom ev).peer (BitVec.ofNat 64 raw) = some sp →
    s.part? (s.ctxAt loom ev).peer = some p → p.barrierLimit ≠ 0 →
    exec (.barrierTimeout loom ev) s = issued ((s.setBarrier sp { s.barrier sp.pa with timedout := true }).raisePrecise ⟨loom, ev, .A⟩
      (s.ctxAt loom ev).ea.lane (s.ctxAt loom ev).ea.word 0 { cls := 0x13, cause := 2, addr := raw, d0 := raw, d1 := phase }))

namespace Sys2Proof.Claims

open Sys2Proof Sys2Proof.Machine

/-- What a copy command needs and hands to its queue: its token bits, the registers that it reads, the command, its barrier's address,
whether its destination is a loom's scratchpad, its back-distances, and the bytes and the latency of the transfer model of R170. -/
structure CopyForm where
  tok : Tok
  srcs : List (BitVec 6)
  cmd : CopyCmd
  bar : Option W64
  load : Bool
  p1 : BitVec 8
  p2 : BitVec 8
  bytes : Nat
  lat : Nat

/-- The numbered command of a copy (R196, R253). -/
def copyNumber (c : Ctx) (k : CopyCmd) (p1 p2 : BitVec 8) : NumCmd :=
  { seq := c.seq, id := c.nextId, reads := padRanges k.src, writes := padRanges k.dst, preds := c.predSeqs p1 p2 }

/-- Nothing holds a copy at issue: no fence, no full counter or queue, and no conflict that determinate mode forbids. -/
def copyFree (s : State) (c : Ctx) (f : CopyForm) : Prop :=
  fenceFree c f.cmd.stream ∧ counterFree c (some .cpc) ∧ c.checkNumber (s.determinate c) (copyNumber c f.cmd f.p1 f.p2) = .ok () ∧
    (if f.load then c.copyLoad else c.copyStore).length < 16

/-- The pending releases that a copy carries (R101, R176). -/
def copyCarries (s : State) (c : Ctx) (f : CopyForm) : List PendRel := s.carriedBy c f.cmd.stream f.bar f.cmd.dst

/-- The command as it stands in its queue: numbered, after its predecessors, after the earlier writes of its stream to its source, and
its counts behind what the releases that it carries cover. -/
def queuedCmd (s : State) (c : Ctx) (f : CopyForm) : CopyCmd :=
  { f.cmd with id := c.nextId, seq := some c.seq, preds := c.predSeqs f.p1 f.p2, line := c.ea.pc.toNat, lane := c.ea.lane,
               word := c.ea.word, after := c.earlier f.cmd.stream f.cmd.src, carries := (copyCarries s c f).flatMap (fun r => r.covers) }

/-- A context in which a copy has taken its number and its place in CPC, with its declared completion in determinate mode. -/
def copyTaken (s : State) (c : Ctx) (f : CopyForm) : Ctx :=
  let due := c.copyDue f.load f.bytes f.lat (c.predSeqs f.p1 f.p2)
  let d := c.takeNumber .cpc (if s.determinate c then some due.2 else none) (copyNumber c f.cmd f.p1 f.p2)
  if s.determinate c then { d with xferEnd := if f.load then (due.1, c.xferEnd.2) else (c.xferEnd.1, due.1) } else d

/-- A context with a command at the tail of one of its copy queues. -/
def atTail (d : Ctx) (load : Bool) (k : CopyCmd) : Ctx :=
  if load then { d with copyLoad := d.copyLoad ++ [k] } else { d with copyStore := d.copyStore ++ [k] }

/-- The ranges of a command that pass its checks (R416): one list of spans for each run. -/
def ranges (s : State) (c : Ctx) (runs : List Run) : Option (List (List Span)) :=
  (s.checkCommand s.cur.who s.cur.loom c.peer runs).toOption

/-- A completion barrier's address is none at all, or aligned and no handle (R179, R197). -/
def barrierAt (a : W64) : Prop := a.toNat / 2 ^ 60 ≠ 15 ∧ a.toNat % 32 = 0

/-- A copy of one run of bytes (R197). -/
def plainCopy (s : State) (c : Ctx) (t : Tok) (maj : Nat) (op : MemOp) (kind : CopyKind) (ra rb : BitVec 6) (st : BitVec 4)
    (aL : BitVec 6) (len dlen : Nat) (ab : BitVec 6) (p1 p2 : BitVec 8) : Option CopyForm :=
  let dst := c.aVal ra
  let src := c.aVal rb
  let bar := c.aVal ab
  if 2 ^ 32 < len ∨ dst.toNat % 4 ≠ 0 ∨ src.toNat % 4 ≠ 0 ∨ len % 4 ≠ 0 ∨ bar.toNat / 2 ^ 60 = 15 ∨ bar.toNat % 32 ≠ 0 then none
  else
    (ranges s c (⟨op, maj, 0, dst, if len = 0 then 0 else dlen⟩ :: ⟨.copySrc, maj, 0, src, len⟩ :: barrierRun maj ab bar)).bind (fun r =>
      let ds := r.headD []
      let ss := r.getD 1 []
      if spansOverlap (s.resolved c op ds) (s.resolved c .copySrc ss) then none
      else some
        { tok := t, srcs := [ra, rb, ab, aL], bar := if ab = 0 then none else some bar, load := loadQueue dst, p1 := p1, p2 := p2,
          bytes := match kind with | .dec _ => Nat.max len dlen | _ => len,
          lat := Nat.max (s.latencyOf c src ss) (s.latencyOf c dst ds),
          cmd := { id := 0, seq := none, kind := kind, stream := st, src := ss, dst := ds, len := len, decoded := dlen,
                   barrier := if ab = 0 then none else (r.getD 2 []).head? } })

/-- The copies, and CH.SEND, where their operands pass the checks. -/
def copyForm (s : State) (c : Ctx) : Instr → Option CopyForm
  | .cpy t ra rb st aL ab p1 p2 =>
    let n := (c.aVal aL).toNat % 2 ^ 48
    plainCopy s c t 0x30 .copyDst .cpy ra rb st aL n n ab p1 p2
  | .cpyRed t ra rb st aL ab p1 p2 ty =>
    let n := (c.aVal aL).toNat % 2 ^ 48
    plainCopy s c t 0x32 .redDst (.red ty) ra rb st aL n (n / (redWidths ty).2 * (redWidths ty).1) ab p1 p2
  | .cpyMc t ra rb st aL ab p1 p2 =>
    let n := (c.aVal aL).toNat % 2 ^ 48
    plainCopy s c t 0x33 .mcDst .mc ra rb st aL n n ab p1 p2
  | .cpyDec t ra rb st aL ab p1 p2 slot =>
    let x := (c.aVal aL).toNat
    plainCopy s c t 0x34 .decDst (.dec slot) ra rb st aL (x % 2 ^ 32) (x / 2 ^ 32) ab p1 p2
  | .cpyCsum t ra rb st aL ab p1 p2 =>
    plainCopy s c t 0x36 .copyDst .csum ra rb st aL ((c.aVal aL).toNat % 2 ^ 48) 16 ab p1 p2
  | .cpy2d t ra rb st aL ab p1 p2 ap =>
    let dst := c.aVal ra
    let src := c.aVal rb
    let bar := c.aVal ab
    let rows := (c.aVal aL).toNat / 2 ^ 32
    let n := (c.aVal aL).toNat % 2 ^ 32
    let dp : BitVec 32 := BitVec.ofNat 32 ((c.aVal ap).toNat / 2 ^ 32)
    let sp : BitVec 32 := BitVec.ofNat 32 (c.aVal ap).toNat
    if 65536 < rows ∨ 2 ^ 32 < rows * n ∨ dst.toNat % 4 ≠ 0 ∨ src.toNat % 4 ≠ 0 ∨ n % 4 ≠ 0 ∨ dp.toNat % 4 ≠ 0 ∨ sp.toNat % 4 ≠ 0 ∨
        bar.toNat / 2 ^ 60 = 15 ∨ bar.toNat % 32 ≠ 0 then none
    else
      (ranges s c ((List.range rows).map (fun k => ⟨.copyDst, 0x31, k * n, BitVec.ofInt 64 (inOffset dst.toNat (k * dp.toInt)), n⟩)
        ++ (List.range rows).map (fun k => ⟨.copySrc, 0x31, k * n, BitVec.ofInt 64 (inOffset src.toNat (k * sp.toInt)), n⟩)
        ++ barrierRun 0x31 ab bar)).bind (fun r =>
          let ds := (r.take rows).flatten
          let ss := ((r.drop rows).take rows).flatten
          if spansOverlap (s.resolved c .copyDst ds) (s.resolved c .copySrc ss) then none
          else some
            { tok := t, srcs := [ra, rb, ab, aL, ap], bar := if ab = 0 then none else some bar, load := loadQueue dst, p1 := p1, p2 := p2, bytes := rows * n,
              lat := Nat.max (s.latencyOf c src ss) (s.latencyOf c dst ds),
              cmd := { id := 0, seq := none, kind := .cpy, stream := st, src := ss, dst := ds, len := rows * n,
                       barrier := if ab = 0 then none else (r.getD (2 * rows) []).head? } })
  | .chSend t ra rb st aL ab p1 p2 =>
    let ch := (c.aVal ra).toNat
    let src := c.aVal rb
    let bar := c.aVal ab
    let len := (c.aVal aL).toNat % 2 ^ 32
    if 64 ≤ ch ∨ src.toNat % 4 ≠ 0 ∨ len % 4 ≠ 0 ∨ bar.toNat / 2 ^ 60 = 15 ∨ bar.toNat % 32 ≠ 0 then none
    else match s.channelEntry c.peer ch false, ranges s c (⟨.copySrc, 0x38, 0, src, len⟩ :: barrierRun 0x38 ab bar) with
      | .ok (e, m), some r =>
        if e.slotSize < len ∨ s.reachable c.peer m.peer = false then none
        else some
          { tok := t, srcs := [ra, rb, aL, ab], bar := if ab = 0 then none else some bar, load := false, p1 := p1, p2 := p2, bytes := len,
            lat := Nat.max (s.latencyOf c src (r.headD [])) m.lat,
            cmd := { id := 0, seq := none, kind := .send ch, stream := st, src := r.headD [], dst := [], len := len,
                     barrier := if ab = 0 then none else (r.getD 1 []).head? } }
      | _, _ => none
  | _ => none

/-- A command of the STASH group as the engine accepts it (R202): numbered, with its key, and behind what its releases cover. -/
def stashOp (s : State) (c : Ctx) (kind : Nat) (key : W64) (st : BitVec 4) (bar : Option Span) (rs : List PendRel) : StashOp :=
  { id := s.nextStash, kind := kind, panel := c.stagePanel, stage := c.stageIdx, tag := BitVec.ofNat 32 key.toNat,
    tensor := BitVec.ofNat 12 (key.toNat / 2 ^ 32), peer := c.peer, loom := s.cur.loom, ev := s.cur.ev, line := c.ea.pc.toNat,
    lane := c.ea.lane, word := c.ea.word, stream := st, barrier := bar, owner := (c.picktag, c.wver, c.gangid), since := c.nextId,
    after := rs.flatMap (fun r => r.covers) }

/-- A state in which a stash engine has accepted a command that carries releases. -/
def stashed (s : State) (c : Ctx) (t : Tok) (rs : List PendRel) (o : StashOp) : State :=
  { s.setCtx ((c.release rs).postNow .A t) with stashOps := s.stashOps ++ [o], nextStash := s.nextStash + 1 }

/-- The transfer end of the copy-store queue after a command without a number, in determinate mode (R170). -/
def storeEnd (s : State) (c : Ctx) (len : Nat) : Nat × Nat :=
  if s.determinate c then (c.xferEnd.1, Nat.max c.xferEnd.2 (c.detCyc + 2) + 2 * ((len + 127) / 128)) else c.xferEnd

end Sys2Proof.Claims

open Sys2Proof Sys2Proof.Machine Sys2Proof.Claims

/-- R195 to R198, R205, R253. A copy command or CH.SEND whose operands pass the checks and which nothing holds takes its number and goes
to the tail of its queue; one of length 0 completes at once.

The model's own choices and readings that it rests on: logs 30, 48, 57, 65, 99, 100. -/
def Obligations.CopiesIssue : Prop :=
  ∀ (s : State) (c : Ctx) (i : Instr) (f : CopyForm),
    copyForm s c i = some f → s.ctx.tokens .A f.tok = .ok c → (∀ r ∈ f.srcs, readyA c r) → copyFree s c f →
    exec i s = issued (s.setCtx
      ((if f.cmd.len = 0 then (copyTaken s c f).completeOp c.nextId
        else atTail ((copyTaken s c f).release (copyCarries s c f)) f.load (queuedCmd s c f)).postNow .A f.tok))

/-- R205, R296. CH.FREE frees the oldest filled slots of a receive channel, which adds their bytes to F, and CH.WIN returns the window
of a send channel.

R202, R203. A command of the STASH group whose key and barrier are well formed is accepted by the stash engine of its stage.

The model's own choices and readings that it rests on: logs 84, 110. -/
def Obligations.ChannelsAndStashIssue : Prop :=
  (∀ (s : State) (c : Ctx) (t : Tok) (ra rb : BitVec 6) (st : BitVec 4) (p : Partition) (e : Channel) (m : Member),
     s.ctx.tokens .A t = .ok c → readyA c ra → readyA c rb → s.part? c.peer = some p → s.reachable c.peer m.peer = true →
     ((c.aVal ra).toNat < 64 → s.channelEntry c.peer (c.aVal ra).toNat true = .ok (e, m) →
       let r : RecvCh := SMap.getD p.recvCh (c.aVal ra).toNat {}
       (c.aVal rb).toNat ≤ r.filled.length → fenceFree c st →
       exec (.chFree t ra rb st) s = issued (((s.setCtx (c.postNow .A t)).setPart c.peer
         { p with recvCh := (SMap.set p.recvCh (c.aVal ra).toNat
             { r with filled := r.filled.drop (c.aVal rb).toNat, freed := r.freed + (c.aVal rb).toNat * e.slotSize, owed := true }) }).giveWindow
         c.peer (c.aVal ra).toNat)) ∧
     (∀ f, (c.aVal rb).toNat < 64 → s.channelEntry c.peer (c.aVal rb).toNat false = .ok (e, m) → p.fabric = some f →
       fenceFree c st → dataRoom c (.reg ra) →
       exec (.chWin t ra rb st) s = issued (handed s t c
         { id := 0, kind := .value (BitVec.ofNat 64 (p.window f (c.aVal rb).toNat)), stream := st, spans := [], dest := .reg ra, len := 8 }
         none 96))) ∧
  (∀ (s : State) (c : Ctx) (t : Tok) (ra rb ab : BitVec 6) (st : BitVec 4) (bar : Option Span),
     s.ctx.tokens .A t = .ok c → readyA c ra → readyA c rb → readyA c ab → (c.aVal rb).toNat / 2 ^ 44 = 0 → fenceFree c st →
     s.objectBarrier c 0x37 ab (c.aVal ab) = .ok bar → (c.aVal ra).toNat / 2 ^ 60 ≠ 15 →
     let rs := s.carriedBy c st (if ab = 0 then none else some (c.aVal ab)) []
     (∀ (aL aa : BitVec 6) (policy : BitVec 2) (tier : BitVec 1) (place' : BitVec 2), readyA c aL → readyA c aa →
       exec (.stashPut t ra rb st aL ab policy tier place' aa) s = issued (stashed s c t rs
         { stashOp s c 0 (c.aVal rb) st bar rs with
           region := (c.aVal ra).toNat, len := (c.aVal aL).toNat % 2 ^ 32, policy := policy, tier := tier, place := place',
           arg := c.aVal aa })) ∧
     exec (.stashFetch t ra rb st ab) s = issued (stashed s c t rs
       { stashOp s c 2 (c.aVal rb) st bar rs with region := (c.aVal ra).toNat, other := decide (ra ≠ 0) }) ∧
     exec (.stashDrop t rb st) s = issued (stashed s c t [] (stashOp s c 1 (c.aVal rb) st none [])) ∧
     exec (.stashFree t rb st) s = issued (stashed s c t [] (stashOp s c 3 (c.aVal rb) st none [])))

/-- R238, R247, R248. TASK.PUT and TASK.PUTP put a record, with its operands, format and predecessors, into the scheduler of the loom's
bolt, where fewer than 64 wait, and take a number and a place in TKC.

R255. TASK.CANCEL cancels the tasks of its context that name its barrier and have not started, and returns how many they were.

The model's own choices and readings that it rests on: logs 30, 61. -/
def Obligations.TasksIssueAndCancel : Prop :=
  (∀ (s : State) (c : Ctx) (t : Tok) (ra rb ac ab km1 : BitVec 6) (st : BitVec 4) (opc : BitVec 4) (p1 p2 : BitVec 8) (i : Instr)
     (int : Bool) (n : Nat) (tsps : List Span) (rest : List (List Span)),
     ((i = .taskPut t ra rb st ac ab km1 opc ∧ p1 = 0 ∧ p2 = 0) ∨ i = .taskPutp t ra rb st ac ab km1 opc p1 p2) →
     s.ctx.tokens .A t = .ok c → (∀ r ∈ [ra, ra + 1, rb, rb + 1, ac, ab], readyA c r) →
     let e := s.fmtEntry c (selIndex c.ftbase c.ea.lc)
     let w := taskWord0 opc km1 s.cur.ev s.cur.loom p1 p2 c.seq
     let da := (c.aVal ra, c.aVal (ra + 1))
     let db := (c.aVal rb, c.aVal (rb + 1))
     let oa := operandA w e da
     let ob := operandB w e db
     let b := boltOf s.cur.loom
     let num : NumCmd := { seq := c.seq, id := c.nextId, reads := oa.ranges b ++ ob.ranges b, writes := [], preds := c.predSeqs p1 p2,
                           stream := st, reading := true }
     taskEntry (s.fullService s.cur.loom) opc.toNat e = .ok int → oa.ok da = true → ob.ok db = true →
     (c.aVal ac).toNat % (if int then 131072 else 65536) = 0 → barrierAt (c.aVal ab) →
     ranges s c (⟨.tileC, 0x3B, 0, c.aVal ac, if int then 131072 else 65536⟩ :: barrierRunAt 0x3B (c.aVal ab)) = some (tsps :: rest) →
     tileOf int tsps = some n → fenceFree c st → counterFree c (some .tkc) → c.checkNumber (s.determinate c) num = .ok () →
     ((s.bolt b).recs.filter (fun r => r.engine.isNone && !r.cancelled)).length < 64 →
     let rs := s.carriedBy c st (if c.aVal ab = 0 then none else some (c.aVal ab)) []
     exec i s = issued ((s.setBolt b { s.bolt b with
       recs := (s.bolt b).recs ++
         [{ id := (s.bolt b).nextTask, peer := c.peer, loom := s.cur.loom, ev := s.cur.ev, seq := c.seq, w0 := w, caddr := c.aVal ac, a := da,
            b := db, fmt := e, tile := n, int := int, baraddr := c.aVal ab, barrier := (rest.headD []).head?,
            predSeqs := c.predSeqs p1 p2, cmd := some c.nextId, line := c.ea.pc.toNat, lane := c.ea.lane, stream := st,
            carries := rs.flatMap (fun r => r.covers),
            after := c.earlier st (oa.spans b ++ ob.spans b)
              ++ (c.accOps.filter (fun o => !o.drain && o.tile == n)).map (fun o => o.id) }]
       nextTask := (s.bolt b).nextTask + 1 }).setCtx (((c.release rs).takeNumber .tkc
         (if s.determinate c then some (c.taskDue (computeCycles e (taskK w)) (c.predSeqs p1 p2)) else none) num).postNow .A t))) ∧
  (∀ (s : State) (c : Ctx) (t : Tok) (ra rb : BitVec 6) (st : BitVec 4),
     s.ctx.tokens .A t = .ok c → readyA c rb → (c.aVal rb).toNat / 2 ^ 60 ≠ 15 → fenceFree c st →
     dataRoom c (.reg ra) →
     let b := boltOf s.cur.loom
     let mine := (s.bolt b).recs.filter (fun r => decide (r.cmd ≠ none ∧ r.loom = s.cur.loom ∧ r.ev = s.cur.ev ∧ r.engine = none ∧
       r.cancelled = false ∧ r.baraddr = c.aVal rb ∧ c.aVal rb ≠ 0))
     exec (.taskCancel t ra rb st) s = issued (mine.foldl (fun s r => s.cancelTask b r)
       (handed s t c { id := 0, kind := .value (BitVec.ofNat 64 mine.length), stream := st, spans := [], dest := .reg ra, len := 8 }
         none 384)))

/-- R250, R256 to R258. ACC.INIT and ACC.DRAIN whose operands pass their checks join the operations that their context has for the
slices.

The model's own choices and readings that it rests on: logs 58, 59. -/
def Obligations.TileOperationsIssue : Prop :=
  (∀ (s : State) (c : Ctx) (t : Tok) (ra rb sl : BitVec 6) (st : BitVec 4) (n : Nat) (tsps : List Span) (rest : List (List Span)),
    s.ctx.tokens .A t = .ok c → readyA c ra → readyA c rb → readyA c sl → (s.determinate c = true → (c.aVal sl).toNat % 8 = 0) →
    let x := (c.aVal rb).toNat
    let int := x.testBit 16
    let slots : List Run := if s.determinate c then [⟨.load, 0x3C, 0, c.aVal sl, 8 * (x % 2 ^ 13)⟩] else []
    1 ≤ x % 2 ^ 13 → x % 2 ^ 13 ≤ 4096 → x / 2 ^ 13 % 8 = 0 → x / 2 ^ 17 = 0 →
    (c.aVal ra).toNat % (if int then 131072 else 65536) = 0 →
    ranges s c (⟨.tileC, 0x3C, 0, c.aVal ra, if int then 131072 else 65536⟩ :: slots) = some (tsps :: rest) → tileOf int tsps = some n →
    fenceFree c st →
    exec (.accInit t ra rb st sl) s = issued (s.setCtx (Ctx.postNow
      { c with
        nextId := c.nextId + 1
        accOps := c.accOps ++ [{ id := c.nextId, drain := false, tile := n, value := c.aVal rb, caddr := c.aVal ra,
                                 slots := rest.headD [], stream := st, after := c.earlier st (rest.headD []),
                                 bound := s.objectsAt c.peer tsps, line := c.ea.pc.toNat, lane := c.ea.lane,
                                 word := c.ea.word }] } .A t))) ∧
  (∀ (s : State) (c : Ctx) (t : Tok) (ra rb aP ab : BitVec 6) (st : BitVec 4) (n : Nat) (f : Fmt) (r : List (List Span))
      (tsps : List Span),
    s.ctx.tokens .A t = .ok c → readyA c ra → readyA c rb → readyA c aP → readyA c ab →
    let e := s.fmtEntry c (selIndex c.ftbase c.ea.lc)
    let pitch : BitVec 32 := BitVec.ofNat 32 (c.aVal aP).toNat
    let w := ((Fmt.ofCode (entryO e)).getD .fp32).bytes
    let m := (((r.getD 128 []).head?).map (fun sp => sp.pa / 65536)).getD 0
    let int := s.drainsInt c m
    (c.aVal ra).toNat % 4 = 0 → pitch.toNat % 4 = 0 → barrierAt (c.aVal ab) →
    ranges s c ((List.range 128).map (fun k => (⟨.copyDst, 0x3C, k * (128 * w),
        BitVec.ofInt 64 (inOffset (c.aVal ra).toNat (k * pitch.toInt)), 128 * w⟩ : Run))
      ++ [⟨.tileC, 0x3C, 0, c.aVal rb, 65536⟩] ++ barrierRun 0x3C ab (c.aVal ab)) = some r →
    (c.aVal rb).toNat % (if int then 131072 else 65536) = 0 →
    drainEntry (s.fullService s.cur.loom) int e = .ok f → 128 * w ≤ pitch.toInt.natAbs →
    placedOne s c .tileC 0x3C (c.aVal rb) (if int then 131072 else 65536) = some tsps → tileOf int tsps = some n → fenceFree c st →
    let rs := s.carriedBy c st (if ab = 0 then none else some (c.aVal ab)) (r.take 128).flatten
    exec (.accDrain t ra rb st aP ab) s = issued (s.setCtx (Ctx.postNow
      { c.release rs with
        nextId := c.nextId + 1
        accOps := c.accOps ++ [{ id := c.nextId, drain := true, tile := n, caddr := c.aVal rb, rows := (r.take 128).flatten,
                                 ofmt := entryO e, rnd := entryR e, stream := st, line := c.ea.pc.toNat, lane := c.ea.lane,
                                 word := c.ea.word, after := rs.flatMap (fun r => r.covers),
                                 barrier := if ab = 0 then none else ((r.getD 129 []).head?) }] } .A t)))

/-- R182, R184. BOB.ARM, once its descriptor has been read: a region in the bolt's own scratchpad or in the partition's own memory, also
by its own peer ID, is armed, and the handle of its bobbin is on its way to the register; for a region at another peer the descriptor is
handed over to go there.

R172, R173, R186, R187. BOB.DISARM and BOB.READ of a handle of this partition, or of a peer that can be reached, are handed
over.

R189, R193. SUSP.MK, once its template has been read and its region's checks hold, is handed over with its descriptor, and SUSP.PEEK
with the line that it asks about.

The model's own choices and readings that it rests on: logs 72, 75, 139. -/
def Obligations.BobbinsAndSuspensionsIssue : Prop :=
  (∀ (s : State) (c : Ctx) (t : Tok) (ra rb : BitVec 6) (st : BitVec 4) (p : Partition) (a : Nat) (bs : List Byte) (sps : List Span)
     (lat : Nat),
     s.ctx.tokens .A t = .ok c → readyA c rb → (c.aVal rb).toNat / 2 ^ 60 ≠ 15 → (c.aVal rb).toNat % 8 = 0 →
     c.operands.find? (fun x => x.1 == (c.aVal rb).toNat) = some (a, bs) → s.part? c.peer = some p →
     let d := ArmDesc.ofNat (leNat bs)
     let c' := { c with operands := c.operands.filter (fun x => x.1 != (c.aVal rb).toNat) }
     let q := d.region.toNat / 2 ^ 48 % 2 ^ 12
     let va := d.region.toNat % 2 ^ 48
     d.region.toNat % 128 = 0 → d.length % 128 = 0 → fenceFree c st → dataRoom c (.reg ra) →
     (∀ (u : State) (h : W64),
       ((d.space = some 1 ∧ lat = 384 ∧
           sps = [{ pa := boltPad (boltOf s.cur.loom) (d.region.toNat % 2 ^ 23), va := d.region.toNat, len := d.length, off := 0 }]) ∨
         (d.space = some 0 ∧ lat = 1536 ∧ s.regionPages s.cur.who c.peer va d.length = .ok sps) ∨
         (d.space = some 2 ∧ lat = 1536 ∧ q = c.peer ∧ s.checkPeer c.peer q = .ok () ∧ d.length ≠ 0 ∧ va + d.length ≤ 2 ^ 48 ∧
           s.peerSpans p .armed 0 (d.length / 65536 + 2) va d.length = .ok sps)) →
       s.armAt c.peer p d (boltOf s.cur.loom) sps = .ok (u, h) →
       exec (.bobArm t ra rb st) s =
         issued (handed u t c' { id := 0, kind := .value h, stream := st, spans := [], dest := .reg ra, len := 8 } none lat)) ∧
     (∀ sp : Span, sp = { pa := 0, va := va, len := 8, off := 0, peer := some q } → d.space = some 2 → q ≠ c.peer →
       s.checkPeer c.peer q = .ok () → lat = s.latency c.peer sp d.region →
       exec (.bobArm t ra rb st) s = issued (handed s t c'
         { id := 0, kind := .bobArm (leNat bs), stream := st, spans := [sp], dest := .reg ra, len := 8 } none lat))) ∧
  (∀ (s : State) (c : Ctx) (t : Tok) (ra rb : BitVec 6) (st : BitVec 4) (i : Instr) (k : W64 → AccKind),
     ((i = .bobDisarm t ra rb st ∧ k = .bobDisarm) ∨ (i = .bobRead t ra rb st ∧ k = .bobRead)) →
     s.ctx.tokens .A t = .ok c → readyA c rb → handleOk (c.aVal rb) → fenceFree c st → dataRoom c (.reg ra) →
     let q := (c.aVal rb).toNat / 2 ^ 48 % 2 ^ 12
     let op : List Span → Access := fun sps =>
       { id := 0, kind := k (c.aVal rb), stream := st, spans := sps, dest := .reg ra, len := 8, obj := some (c.aVal rb).toNat }
     (q = c.peer → exec i s = issued (handed s t c (op []) none (if (c.aVal rb).toNat.testBit 16 then 384 else 1536))) ∧
     (q ≠ c.peer → s.checkPeer c.peer q = .ok () →
       exec i s = issued (handed s t c (op [{ pa := 0, va := 0, len := 8, off := 0, peer := some q }]) none
         (((s.members c.peer).find? (fun m => m.peer == q)).elim 0 (fun m => m.lat))))) ∧
  ((∀ (s : State) (c : Ctx) (t : Tok) (ra rb ah : BitVec 6) (st : BitVec 4) (a : Nat) (bs : List Byte) (sps : List Span),
     s.ctx.tokens .A t = .ok c → readyA c rb → readyA c ah → (c.aVal rb).toNat / 2 ^ 60 ≠ 15 → (c.aVal ah).toNat / 2 ^ 60 ≠ 15 →
     (c.aVal rb).toNat % 8 = 0 → c.operands.find? (fun x => x.1 == (c.aVal rb).toNat) = some (a, bs) →
     let d := SuspDesc.ofNat (leNat bs)
     let head := (c.aVal ah).toNat
     let runs := s.regionRuns s.cur.who c.peer (d.extent / 65536 + 2) head d.extent
     head + d.extent ≤ 2 ^ 48 → runs.map (fun r => r.2) = sps.map (fun sp => (.ok sp : Act Span)) →
     suspCheck (c.aVal rb) (c.aVal ah) d (leNat bs) (some sps) = none → fenceFree c st → dataRoom c (.reg ra) →
     exec (.suspMk t ra rb st ah) s = issued (handed s t
       { c with operands := c.operands.filter (fun x => x.1 != (c.aVal rb).toNat) }
       { id := 0, kind := .suspMk (leNat bs + c.picktag.toNat * 2 ^ 256 + c.wver.toNat * 2 ^ 320 + c.gangid.toNat * 2 ^ 384) head,
         stream := st, spans := sps, dest := .reg ra, len := 8 } none 1536)) ∧
   (∀ (s : State) (c : Ctx) (t : Tok) (ra rb : BitVec 6) (st : BitVec 4) (sps : List Span),
     s.ctx.tokens .A t = .ok c → readyA c rb → (c.aVal rb).toNat / 2 ^ 60 ≠ 15 → placedOne s c .load 0x2F (c.aVal rb) 1 = some sps →
     fenceFree c st → dataRoom c (.reg ra) →
     exec (.suspPeek t ra rb st) s = issued (handed s t c
       { id := 0, kind := .peek, stream := st, spans := sps, dest := .reg ra, len := 8 } none (s.latencyOf c (c.aVal rb) sps))))

/-- R199. CTBL at an aligned address queues, without a number, the read of a table of 320 bytes.

R192. SUSP.FILL of lines in the region that its context's evaluation fills queues the fill. -/
def Obligations.TableLoadsAndFillsIssue : Prop :=
  (∀ (s : State) (c : Ctx) (t : Tok) (rb : BitVec 6) (st : BitVec 4) (slot : BitVec 2) (sps : List Span),
     s.ctx.tokens .A t = .ok c → readyA c rb → (c.aVal rb).toNat % 8 = 0 →
     ranges s c [⟨.copySrc, 0x35, 0, c.aVal rb, 320⟩] = some [sps] → fenceFree c st → c.copyStore.length < 16 →
     exec (.ctbl t rb st slot) s = issued (s.setCtx (Ctx.postNow
       { c with
         nextId := c.nextId + 1
         xferEnd := storeEnd s c 320
         copyStore := c.copyStore ++ [{ id := c.nextId, seq := none, kind := .ctbl slot, stream := st, src := sps, dst := [], len := 320,
                                        line := c.ea.pc.toNat, lane := c.ea.lane, word := c.ea.word, after := c.earlier st sps }] }
       .A t))) ∧
  (∀ (s : State) (c : Ctx) (t : Tok) (ra rb aL ab : BitVec 6) (st : BitVec 4) (r : EvalRec) (spss : List (List Span)),
     s.ctx.tokens .A t = .ok c → readyA c ra → readyA c rb → readyA c aL → readyA c ab →
     let dst := (c.aVal ra).toNat
     let len := (c.aVal aL).toNat % 2 ^ 32
     let runs := s.regionRuns s.cur.who c.peer (len / 65536 + 2) dst len
     let rs := s.carriedBy c st (if ab = 0 then none else some (c.aVal ab))
       (fillSpans r (runs.filterMap (fun x => x.2.toOption)) dst len)
     dst / 2 ^ 60 ≠ 15 → (c.aVal rb).toNat / 2 ^ 60 ≠ 15 → (c.aVal rb).toNat % 4 = 0 → barrierAt (c.aVal ab) →
     s.fillRecord s.cur.loom s.cur.ev = some r → dst % 128 = 0 → len % 128 = 0 → len ≠ 0 → r.headVa ≤ dst →
     dst + len ≤ r.headVa + r.extent → (∀ x ∈ runs, ∀ w, x.2 ≠ .error (.wait w)) →
     ranges s c (⟨.copySrc, 0x2F, 0, c.aVal rb, len⟩ :: barrierRun 0x2F ab (c.aVal ab)) = some spss → fenceFree c st →
     c.copyStore.length < 16 →
     exec (.suspFill t ra rb st aL ab) s = issued (s.setCtx (Ctx.postNow
       { c.release rs with
         nextId := c.nextId + 1
         xferEnd := storeEnd s c len
         copyStore := c.copyStore ++ [{ id := c.nextId, seq := none, kind := .fill, stream := st, src := spss.headD [],
                                        dst := fillSpans r (runs.filterMap (fun x => x.2.toOption)) dst len, len := len,
                                        barrier := (spss.getD 1 []).head?, line := c.ea.pc.toNat, lane := c.ea.lane, word := c.ea.word,
                                        after := c.earlier st (spss.headD []) ++ c.covers 0 st 2,
                                        carries := rs.flatMap (fun r => r.covers) }] } .A t)))

namespace Sys2Proof.Claims

open Sys2Proof Sys2Proof.Machine

/-- The rendezvous of RETT, CTX.SAVE and CTX.LOAD: the X-engine has completed the line of the instruction, and of what the A-engine
issued before an exposed line, or at all in a scoreboard line, nothing is in flight and every operation has completed (R306, R308). -/
def meeting (c : Ctx) : Prop :=
  c.ea.lines < c.ex.lines ∧
    (if c.ea.mode = true then c.inFlight.take c.ea.began.1 = [] ∧ ∀ o ∈ c.outs, o.id < c.ea.began.2 → o.completed = true
      else c.inFlight = [] ∧ ∀ o ∈ c.outs, o.completed = true)

/-- The queues, bq and the token FIFOs hold nothing. -/
def queuesEmpty (c : Ctx) : Prop :=
  (∀ i : Fin 4, c.lq[i] = []) ∧ (∀ i : Fin 2, c.sq[i] = []) ∧ c.bq = [] ∧ c.tokAX = 0 ∧ c.tokXA = 0

/-- The writes that a .D release covers are performed. -/
def releasedAll (c : Ctx) : Prop := c.waitsOn (c.covers 0 0 2) = false

/-- A partition that has the stage of a panel. -/
def hasStageAt (s : State) (c : Ctx) (panel stage : Nat) (p : Partition) : Prop :=
  s.part? c.peer = some p ∧ p.hasStage panel stage = true

/-- A value on its way to an a-register from the Treadle. -/
def fromTreadle (s : State) (t : Tok) (c : Ctx) (ra : BitVec 6) (st : BitVec 4) (v : W64) : State :=
  handed s t c { id := 0, kind := .value v, stream := st, spans := [], dest := .reg ra, len := 8 } none 384

end Sys2Proof.Claims

open Sys2Proof Sys2Proof.Machine Sys2Proof.Claims

/-- R306, R353. RETT at the rendezvous, with the frame that TFRAME names and empty queues, restores the context that the frame and its
area hold, sets TFRAME to 0 and clears FKIND; without the rendezvous it waits, and with another frame it raises the context fault.

The model's own choices and readings that it rests on: logs 9, 50, 52, 135, 136, 137. -/
def Obligations.ReturnFromHandler : Prop :=
  ∀ (s : State) (c : Ctx) (t : Tok) (rs1 : BitVec 6), s.ctx.tokens .A t = .ok c → readyA c rs1 →
    (∀ (p : Partition) (rs : List Result), meeting c → c.aVal rs1 = c.tframe → c.tframe ≠ 0 → queuesEmpty c →
      c.resAX = (if t.ps then 1 else 0) → c.resXA = 0 → s.part? c.peer = some p →
      let base := s.ctxBase s.cur.loom s.cur.ev
      let area := s.reader p base
      let slot := s.reader p (base + 0x30000)
      checkFrame area slot 1 = .ok rs →
      let d := { c.restart base area slot rs with tframe := 0 }
      let e := { d with tokAX := d.tokAX + (if t.ps then 1 else 0) }
      let u := (s.setCtx e).writeVa p (base + 0x30000) [0, 0, 0, 0]
      exec (.rett t rs1) s = issued (u.setLoom s.cur.loom { u.loom s.cur.loom with icache := [] })) ∧
    (¬ meeting c → exec (.rett t rs1) s = .next { s with disp := .waits .context }) ∧
    (meeting c → (c.aVal rs1 ≠ c.tframe ∨ c.tframe = 0) →
      exec (.rett t rs1) s = .next { s with disp := .faults { cls := 7, cause := 2, d1 := 6, bare := true } })

/-- R308, R309. CTX.SAVE at the rendezvous writes the area with KIND 2, whose a[rd] is 1, and leaves 0 in a[rd]; CTX.LOAD reads an area of
KIND 1 or 2 with a good CRC back, and both engines go on at the lines that it names.

The model's own choices and readings that it rests on: logs 9, 53, 54, 135, 136, 137. -/
def Obligations.ContextAreas : Prop :=
  (∀ (s : State) (c : Ctx) (t : Tok) (rd rs1 : BitVec 6) (sps : List Span) (u : State),
    s.ctx.tokens .A t = .ok c → readyA c rs1 → meeting c → s.areaSpans c .save (c.aVal rs1) = .ok sps →
    let saved := c.write (.a rd) 1
    let head := saved.header (c.ea.pc + 32) (c.ea.pc + 32) Masks.all
    s.savePieces (s.cur.loom, s.cur.ev) sps ((0, leBytes 4 2 ++ leBytes 4 (crc32c head) ++ head) :: saved.sections Masks.all true) = (u, none) →
    exec (.ctxSave t rd rs1) s =
      issued (u.setCtx ((((c.write (.a rd) 0).keep (c.aVal rs1).toNat).recount).postNow .A t))) ∧
  (∀ (s : State) (c : Ctx) (t : Tok) (rs1 : BitVec 6) (sps : List Span) (u : State) (bs : List Byte),
    s.ctx.tokens .A t = .ok c → readyA c rs1 → meeting c → s.areaSpans c .restore (c.aVal rs1) = .ok sps →
    s.readSpans (cutSpans sps 0 0x30000) = (u, bs, none) →
    let area : Reader := fun off n => (bs.drop off).take n
    (area.num 0 4 = 1 ∨ area.num 0 4 = 2) → area.num 4 4 = crc32c (area 8 248) → area.bq.isSome = true →
    let d := c.loadArea area (c.keptFor (c.aVal rs1).toNat)
    let toLine (g : Engine) (off : Nat) : Engine :=
      { g.at' (BitVec.ofNat 64 (area.num off 8)) 1 with lines := 0, lineCount := 0 }
    exec (.ctxLoad t rs1) s = issued (u.setCtx
      { d with ea := toLine d.ea 8, ex := toLine d.ex 16, outs := [], tokAX := d.tokAX + (if t.ps then 1 else 0) }))

/-- R302, R398. LINK.PARK and LINK.WAKE on a port of the context's partition return the width code in force before; a narrower set starts
a PARK flit, a wider one a WAKE flit, and any other changes nothing; on another's port they fault.

The model's own choices and readings that it rests on: log 109. -/
def Obligations.LinkWidths : Prop :=
  ∀ (s : State) (c : Ctx) (t : Tok) (rd : BitVec 6) (width : BitVec 2) (port : BitVec 4), s.ctx.tokens .A t = .ok c →
    let q := port.toNat
    let p := s.port q
    let code := p.achievable width
    let u := s.setCtx { c with inFlight := c.inFlight ++ [resultA c rd p.width.toNat 1 t] }
    (s.portOwner q = some c.peer → c.inFlight.length < 32 →
      exec (.linkPark t rd width port) s = issued (
        if p.up = true ∧ p.width.toNat < code.toNat then (u.setPort q { p with pendingWidth := none }).sendPark q code p.dseqTx
        else u) ∧
      exec (.linkWake t rd width port) s = issued (
        if p.up = true ∧ code.toNat < p.width.toNat then (u.setPort q { p with pendingWidth := some code }).sendFlit q kWake noFlit
        else u)) ∧
    (s.portOwner q ≠ some c.peer →
      exec (.linkPark t rd width port) s = .next { s with disp := .faults { cls := 9, cause := 1, d1 := q } } ∧
      exec (.linkWake t rd width port) s = .next { s with disp := .faults { cls := 9, cause := 1, d1 := q } })

/-- R274 to R280. The TRD instructions, with operands that pass their checks: an arrival is queued at its stage, a version is published,
pinned or unpinned, a word of a stage is returned, a difference waits for the Treadles, and a counter is cancelled.

The model's own choices and readings that it rests on: logs 67, 70, 84, 92. -/
def Obligations.TreadleInstructions : Prop :=
  ∀ (s : State) (c : Ctx) (t : Tok) (ra rb : BitVec 6) (st : BitVec 4), s.ctx.tokens .A t = .ok c → readyA c ra → readyA c rb →
    let u := s.setCtx (c.postNow .A t)
    let here := s.stage c.stagePanel c.stageIdx
    (∀ (panel stage : Nat) (a : Arrival) (p : Partition) (v : State), arrivalOf (c.aVal ra) 1 = (panel, stage, a) →
      hasStageAt s c panel stage p → p.arrivalOk (c.aVal ra) = true → (c.aVal ra).toNat / 2 ^ 53 % 2 ^ 8 = 0 → releasedAll c →
      (s.stage panel stage).heldArr[Fin.ofNat 4 a.queue] = [] → u.enqueue c.peer panel stage a = (v, true) →
      exec (.trdArrive t ra st) s = issued v) ∧
    (∀ (publish named : BitVec 1) (panel : BitVec 3) (stage : BitVec 8) (p : Partition) (g : Stage) (w : W64),
      let pn := if named = 1 then panel.toNat else c.stagePanel
      let sg := if named = 1 then stage.toNat else c.stageIdx
      hasStageAt s c pn sg p → fenceFree c st → dataRoom c (.reg ra) →
      let x : BitVec 32 := (c.aVal rb).setWidth 32
      (publish = 1 → releasedAll c) →
      ((if publish = 1 then (s.stage pn sg).publish x else (s.stage pn sg).pin x) = some (g, w) →
        exec (.trdVpin t ra rb st publish named panel stage) s = issued (fromTreadle (s.setStage pn sg g) t c ra st w)) ∧
      ((if publish = 1 then (s.stage pn sg).publish x else (s.stage pn sg).pin x) = none →
        exec (.trdVpin t ra rb st publish named panel stage) s = issued (fromTreadle
          (if publish = 1 then s.treadleRecord c.peer pn 5 (stageWord pn sg 0) x.toNat else s) t c ra st (BitVec.allOnes 64)))) ∧
    (∀ p, hasStageAt s c c.stagePanel c.stageIdx p →
      exec (.trdVunpin t rb st) s = issued (u.setStage c.stagePanel c.stageIdx (here.unpin ((c.aVal rb).setWidth 32)))) ∧
    (∀ p, hasStageAt s c c.stagePanel c.stageIdx p → (c.aVal rb).toNat < 4 → fenceFree c st → dataRoom c (.reg ra) →
      exec (.trdInfo t ra rb st) s = issued (fromTreadle s t c ra st
        (BitVec.ofNat 64 (s.infoWord p c.stagePanel c.stageIdx (c.aVal rb).toNat)))) ∧
    (∀ (ab : BitVec 6) (va : Nat) (bar : Option Span) (p : Partition), readyA c ab → place (c.aVal rb) = some (.virt va) → va % 8 = 0 →
      s.objectBarrier c 0x3D ab (c.aVal ab) = .ok bar → releasedAll c → s.part? c.peer = some p →
      exec (.trdDiff t rb st ab) s = issued (u.setPart c.peer
        { p with diffs := p.diffs ++ [{ image := (c.aVal rb).toNat, barrier := bar }] })) ∧
    (∀ (va i : Nat) (e : TlbEntry) (p : Partition), (c.aVal rb).toNat < 8 → place (c.aVal ra) = some (.virt va) →
      s.part? c.peer = some p → held s c va = some e → p.counterAt (e.pa + (va - e.va)) 1 = some i →
      (e.pa + (va - e.va)) % 16 = 0 → i ∈ p.counters → (s.counter p i).level = (c.aVal rb).toNat →
      exec (.trdCancel t ra rb st) s = issued (u.cancelCounter c.peer 6 i))

namespace Sys2Proof.Claims

open Sys2Proof Sys2Proof.Machine

/-- An outstanding access of a context, which nothing holds any more (R94 to R98). -/
def performableAt (s : State) (loom : Nat) (ev : Bool) (id : Nat) (a : Access) : Prop :=
  (s.ctxAt loom ev).accs.find? (fun x => x.id == id) = some a ∧ s.performable loom ev (s.ctxAt loom ev) a = true

/-- A span in this device's scratchpads whose lines hold no record: nothing has been met or marked there. -/
def cleanPad (s : State) (sp : Span) : Prop :=
  sp.peer = none ∧ sp.attrs = 0 ∧ 2 ^ 43 ≤ sp.pa ∧ 0 < sp.len ∧ ∀ i < sp.len, s.line (sp.pa + i) = {}

/-- Nothing that was issued before holds a span of an access of a context. -/
def spanReady (s : State) (loom : Nat) (ev : Bool) (a : Access) (sp : Span) : Prop :=
  (s.ctxAt loom ev).spanFree a sp = true ∧ s.windowFree loom a sp = true

end Sys2Proof.Claims

open Sys2Proof Sys2Proof.Machine Sys2Proof.Claims

/-- R94, R156. When a store to a scratchpad is performed, exactly its bytes change, and take its data; when a load from a scratchpad into
an a-register returns to a running context in scoreboard mode, the register takes the number that its bytes hold, and no byte changes.

The model's own choices and readings that it rests on: logs 5, 24, 147, 148. -/
def Obligations.ScratchpadAccesses : Prop :=
  (∀ (s : State) (loom : Nat) (ev : Bool) (id : Nat) (a : Access) (sp : Span) (data : List Byte),
    performableAt s loom ev id a → spanReady s loom ev a sp → a.id = id → a.kind = .store data false → a.dest = .none → a.done = [] →
    a.spans = [sp] → cleanPad s sp → sp.off = 0 → data.length = sp.len → s.mem.wf = true →
    ∃ t, exec (.writeAck loom ev ⟨id, 0⟩) s = issued t ∧
      ∀ x, t.mem.read x = if sp.pa ≤ x ∧ x < sp.pa + sp.len then data.getD (x - sp.pa) 0 else s.mem.read x) ∧
  (∀ (s : State) (loom : Nat) (ev : Bool) (id : Nat) (a : Access) (sp : Span) (r : BitVec 6) (x : Result),
    performableAt s loom ev id a → spanReady s loom ev a sp → a.id = id → a.kind = .load → a.dest = .reg r → r ≠ 0 → a.done = [] →
    a.got = [] → a.spans = [sp] → cleanPad s sp → sp.off = 0 → sp.len = 8 → (s.ctxAt loom ev).act = .running →
    (s.ctxAt loom ev).inFlight.find? (fun y => y.awaiting == some id) = some x → x.due = 0 → x.dest = .a r → x.failed = false →
    ∃ t, exec (.loadReturn loom ev ⟨id, 0⟩ false) s = issued t ∧ t.mem = s.mem ∧
      ((t.ctxAt loom ev).aVal r).toNat = (s.mem.readLE sp.pa 8))

/-- R165. The word that an atomic leaves, over whole numbers.

R180. An update of a barrier that completes its phase exactly turns the phase over once: the arrivals and bytes start again, the next
phase expects NBASE bytes, and the flags gathered become those of the phase before. An update that does not complete it turns nothing. -/
def Obligations.AtomicAndBarrierValues : Prop :=
  (∀ v o n : W64,
     ((AtomicOp.add.apply v o).toNat = (v.toNat + o.toNat) % 2 ^ 64) ∧ (AtomicOp.faaC.apply v o = AtomicOp.add.apply v o) ∧
     ((AtomicOp.and.apply v o).toNat = v.toNat &&& o.toNat) ∧ ((AtomicOp.or.apply v o).toNat = v.toNat ||| o.toNat) ∧
     ((AtomicOp.xor.apply v o).toNat = v.toNat ^^^ o.toNat) ∧ ((AtomicOp.min.apply v o).toInt = min v.toInt o.toInt) ∧
     ((AtomicOp.max.apply v o).toInt = max v.toInt o.toInt) ∧ ((AtomicOp.minu.apply v o).toNat = min v.toNat o.toNat) ∧
     ((AtomicOp.maxu.apply v o).toNat = max v.toNat o.toNat) ∧ (AtomicOp.swap.apply v o = o) ∧
     ((AtomicOp.cas n).apply v o = if v = o then n else v) ∧ ((AtomicOp.cas n).stores v o = decide (v = o))) ∧
  ((∀ b : Barrier, 0 < b.narrive + b.nbytes → b.arrived = b.narrive → b.bytes = b.nbytes →
     b.update = { b with arrived := 0, bytes := 0, nbytes := b.nbase, lflags := b.cflags, cflags := 0, phase := (b.phase + 1) % 2 ^ 32 }) ∧
   (∀ b : Barrier, (b.narrive + b.nbytes = 0 ∨ b.arrived < b.narrive ∨ b.bytes < b.nbytes) → b.update = b))

/-- R94, R98, R158, R165, R168, R185. LOAD_RETURN, WRITE_ACK and MULTICAST_LAND perform the part of an access that lies here, all of it
or one memory word; an access whose parts are all done completes with its data, and a write counts as one in the bobbins.

R65, R66. PAGE_WALK reads the entry of the level that a walk has reached: a table leads to the next level, and a leaf goes into the
translation buffer of every bolt that waits, and ends the walk, in whose place the miss that has waited longest starts one.

The model's own choices and readings that it rests on: logs 1, 7, 14, 17, 46, 140, 142, 147, 148, 157. -/
def Obligations.AccessesAndWalksPerform : Prop :=
  (∀ (s : State) (loom : Nat) (ev : Bool) (id part : Nat) (a : Access), performableAt s loom ev id a →
     let c := s.ctxAt loom ev
     let due := s.dueHere loom c a
     (∀ (u : State) (got : List (Nat × List Byte)) (dn : List Nat) (fromL1 : Bool) (x : Access) (now : List (Nat × Span)),
       a.kind = .load → a.dest ≠ .none → due ≠ [] → s.meetsSuspension (s.spansHere loom c a) = false → a.chosen due part = some (x, now) →
       s.loadSpans loom c fromL1 now = (u, got, dn, none) →
       let b := { x with got := a.got ++ got, done := a.done ++ dn }
       exec (.loadReturn loom ev ⟨id, part⟩ fromL1) s =
         issued (if b.complete then u.finishAccess loom ev b (gather b.got) false else (u.putAccess loom ev b).pump loom ev)) ∧
     (∀ (fromL1 : Bool) (v : W64), a.kind = .value v → a.dest ≠ .none → a.spans = [] →
       exec (.loadReturn loom ev ⟨id, part⟩ fromL1) s = issued (s.finishAccess loom ev a v.toNat false)) ∧
     (∀ (op : AtomicOp) (o : W64) (sp x : Span) (rest : List Span) (u : State) (v : Nat) (fromL1 : Bool), a.kind = .atomic op o →
       a.spans = [sp] → due ≠ [] → s.localSpans c .atomic sp = .ok (x :: rest) → s.meetsSuspension (s.spansHere loom c a) = false →
       s.atomicAt loom x op o (some (loom, ev)) = (u, v, none) →
       (a.dest ≠ .none → exec (.loadReturn loom ev ⟨id, part⟩ fromL1) s = issued (u.finishAccess loom ev a v false)) ∧
       (a.dest = .none → exec (.writeAck loom ev ⟨id, part⟩) s = issued (u.finishAccess loom ev a 0 false))) ∧
     (∀ (data : List Byte) (u : State) (runs : List (Nat × Nat)) (dn : List Nat) (x : Access) (now : List (Nat × Span)),
       a.kind = .store data false → a.dest = .none → due ≠ [] → a.chosen due part = some (x, now) →
       s.storeSpans loom c .store data now = (u, runs, dn, none) →
       let b := { x with done := a.done ++ dn, wrote := a.wrote ++ runs }
       exec (.writeAck loom ev ⟨id, part⟩) s = issued (
         if b.localDue (u.ctxAt loom ev).peer = [] then
           let w := u.countWrite b.wrote (some (loom, ev))
           let d := { b with wrote := [] }
           if b.complete then w.finishAccess loom ev d 0 false else (w.putAccess loom ev d).pump loom ev
         else (u.putAccess loom ev b).pump loom ev)) ∧
     (∀ (data : List Byte) (u : State), a.kind = .store data true → s.landable loom a = true → (∀ sp ∈ a.spans, c.spanFree a sp = true) →
       s.writeSpans data (a.spans.flatMap (mcSpans loom)) (some (loom, ev)) = (u, none) →
       exec (.multicastLand loom ev id) s = issued (u.finishAccess loom ev a 0 false))) ∧
  (∀ (s : State) (panel walk : Nat) (k : Walk) (p : Partition),
     (s.panel panel).walks.find? (fun x => x.id == walk) = some k → s.part? k.peer = some p →
     let va := k.page * 65536
     (∀ table, s.walkLevel p va k.level k.table = .next table →
       exec (.pageWalk panel walk) s = issued (s.setPanel panel { s.panel panel with
         walks := (s.panel panel).walks.map (fun x => if x.id = walk then { x with level := k.level + 1, table := table } else x) })) ∧
     (∀ size pa at', s.walkLevel p va k.level k.table = .leaf size pa at' →
       exec (.pageWalk panel walk) s = issued ((k.who.map Who.bolt).eraseDups.foldl
         (fun u b => u.setBolt b ((u.bolt b).insert { peer := k.peer, va := va / size * size, size := size, pa := pa, attrs := at' }))
         ((s.setPanel panel { s.panel panel with walks := (s.panel panel).walks.filter (fun x => x.id != walk) }).nextWalks panel))))

/-- R110, R190, R191, R195, R196, R199, R200, R202. The copy engine starts the next command of a queue, and moves the next bytes of a
started one; the decoder writes the bytes of a good block; a fill writes its next line, and its region turns VALUE; a stash engine carries
out the first command of a key.

The model's own choices and readings that it rests on: logs 34, 60, 63, 85, 86, 88, 150. -/
def Obligations.CopiesAndStashesRun : Prop :=
  (∀ (s : State) (loom : Nat) (ev storeQ : Bool) (k : CopyCmd),
    (s.ctxAt loom ev).nextCopy (if storeQ then (s.ctxAt loom ev).copyStore else (s.ctxAt loom ev).copyLoad) = some k →
    (k.kind = .cpy ∨ k.kind = .mc ∨ k.kind = .csum ∨ k.kind = .fill ∨ ∃ ty, k.kind = .red ty) →
    (∀ p, s.part? (s.ctxAt loom ev).peer = some p → p.resetting = false) →
    exec (.copyStart loom ev storeQ) s = issued (s.modCopy loom ev k.id (fun k => { k with started := true }))) ∧
  (∀ (s u : State) (loom : Nat) (ev : Bool) (id : Nat) (k : CopyCmd) (bs : List Byte),
    (s.ctxAt loom ev).copy? id = some k → k.started = true → k.readTo < k.len → (k.kind = .cpy ∨ k.kind = .mc) →
    (s.ctxAt loom ev).waitsOn k.carries = false →
    let storeQ := (s.ctxAt loom ev).copyStore.any (fun x => x.id == id)
    (ev = false → s.queueReady loom true false = false ∧ s.queueReady loom true true = false) →
    ((s.ctxAt loom ev).lastStore = some storeQ → s.queueReady loom ev (!storeQ) = false) →
    s.fetchUnit loom ev k (k.unit (s.ctxAt loom ev).peer) = .bytes u bs →
    let v := u.copyOut loom ev { k with readTo := k.readTo + k.unit (s.ctxAt loom ev).peer } k.readTo bs
    exec (.copyChunkWrite loom ev id) s = issued (v.setCtxAt loom ev { v.ctxAt loom ev with lastStore := some storeQ })) ∧
  (∀ (s u : State) (bolt : Nat) (j : DecJob) (rest : List DecJob) (k : CopyCmd) (slot : BitVec 2) (bs : List Byte) (table : CodeTable),
    (s.bolt bolt).dec = j :: rest → (s.ctxAt j.loom j.ev).copy? j.cmd = some k → k.kind = .ctbl slot →
    s.fetchUnit j.loom j.ev k 320 = .bytes u bs → checkTable bs = .ok table →
    exec (.decoderBlock ⟨bolt, false⟩) s = issued (((u.setBolt bolt
      { u.bolt bolt with tables := (u.bolt bolt).tables.set slot.toNat table slot.isLt }).popDecoder bolt).finishCopy j.loom j.ev k.id)) ∧
  (∀ (s u v : State) (loom : Nat) (ev : Bool) (id : Nat) (k : CopyCmd) (bs : List Byte) (sp : Span) (rest : List Span) (r : EvalRec),
    (s.ctxAt loom ev).copy? id = some k → k.kind = .fill → k.started = true → k.readTo < k.len →
    (s.ctxAt loom ev).waitsOn k.carries = false →
    s.fetchUnit loom ev k 128 = .bytes u bs → slice k.dst k.readTo 128 = sp :: rest → u.fillRecord loom ev = some r →
    r.lines.contains (sp.pa / 128) = true → (u.line sp.pa).cell = 2 → u.meetLine sp.pa sp.va sp.attrs true 0 = (v, none) →
    let w := (((v.putPiece sp.attrs { pa := sp.pa, va := sp.va, off := 0, len := 128 } bs).setCell sp.pa 0).countWrite [(sp.pa, 128)]
      (some (loom, ev))).copyWrote loom ev id 128 [(sp.pa, 128)]
    exec (.fillLine loom ev id) s = issued (if r.lines.all (fun l => (w.line (128 * l)).cell == 0) then w.regionFilled r else w)) ∧
  (∀ (s : State) (panel id : Nat) (o : StashOp) (p : Partition) (e : StashEntry),
    s.stashOps.find? (fun o => o.id == id && o.panel == panel) = some o →
    s.stashOps.find? (fun x => x.panel == o.panel && x.stage == o.stage && x.tag == o.tag && x.tensor == o.tensor) = some o →
    (∀ w ∈ s.waiters, w.who ≠ .stash o.id) → o.pick = none → (s.ctxAt o.loom o.ev).waitsOn o.after = false → s.part? o.peer = some p →
    p.resetting = false → s.stashFollows o = false →
    (o.kind = 0 → o.policy = 0 → s.stashEntry o = none → (s.stash.filter (fun x => x.panel == o.panel)).length < 4096 →
      exec (.stashActionComplete panel id) s = issued ((s.putEntry o (some o.entry)).endStash o o.len)) ∧
    (o.kind = 2 → o.other = false → s.stashEntry o = some e → e.bad = false → e.policy = 0 →
      exec (.stashActionComplete panel id) s = issued (s.endStash o e.len)) ∧
    (o.kind = 3 → s.stashEntry o = some e → e.policy ≠ 3 →
      exec (.stashActionComplete panel id) s = issued ((s.putEntry o none).endStash o 0)))

/-- R237, R243, R245, R249 to R252, R256 to R258. The scheduler starts the oldest ready task on the lowest free engine; its engine reads its
operands and sends its partial; the home slice merges the contribution whose turn it is; a merged task retires; ACC.INIT opens and
zeroes its tile; ACC.DRAIN writes the rows of a complete tile, and is abandoned at the barrier limit.

The model's own choices and readings that it rests on: logs 26, 28, 29, 31, 61, 62, 144, 150. -/
def Obligations.TilesRun : Prop :=
  (∀ (s : State) (bolt e : Nat) (r : Task), (s.bolt bolt).recs.find? (fun r => r.engine.isNone && !r.cancelled && s.taskReady bolt r) = some r →
    r.checked = true → (∀ x ∈ (s.bolt bolt).recs, x.engine = none ∨ x.checked = true) → (s.bolt bolt).freeEngine = some e →
    exec (.schedulerStart bolt) s = issued (s.modTask bolt r.id (fun _ => { r with engine := some e }))) ∧
  (∀ (s u v : State) (bolt e : Nat) (r : Task) (bs : List Byte),
    (s.bolt bolt).recs.find? (fun r => r.engine == some e && r.checked && !r.sent) = some r → r.cmd = none →
    let oa := operandA r.w0 r.fmt r.a
    let ob := operandB r.w0 r.fmt r.b
    s.readSpans (oa.spans bolt ++ ob.spans bolt) = (u, bs, none) →
    let part := partialOf r.int oa ob u.mem bolt
    u.contribute r.tile { key := ⟨r.peer, r.ev, r.loom, r.seq⟩, first := 0, int := r.int, values := part.1, flags := part.2,
                          task := some (bolt, r.id) } = .ok v →
    exec (.partialDone bolt e) s = issued (v.modTask bolt r.id (fun t => { t with sent := true }))) ∧
  (∀ (s u : State) (tile : Nat) (k : Contribution) (rest : List Contribution) (bs : List Byte),
    (s.tile tile).held = k :: rest → (s.tile tile).state = .open → s.tileDet tile = false → k.adds = true →
    k.overflow = none → s.sliceGone tile = none →
    s.readSpan { pa := tilePa tile + k.first, va := 0, len := k.values.length * elemBytes k.int, off := 0 } = (u, bs, none) →
    let m := u.mergeBytes tile k.int k
    let n := (s.tile tile).merged + (if k.closes then 1 else 0)
    exec (.contributionMerge tile 0) s = issued ((m.1.setTile tile
      { s.tile tile with held := rest, merged := n, state := if n = (s.tile tile).expect then .complete else .open }).mergedFor k.int k
        (k.flags ||| m.2))) ∧
  (∀ (s : State) (bolt id : Nat) (r : Task), (s.bolt bolt).recs.find? (fun r => r.id == id && r.merged) = some r → r.cmd = none →
    ∀ u, s.countFor r.peer r.barrier (if r.int then 131072 else 65536) r.flags = (u, none) →
    exec (.taskRetire bolt id) s = issued (u.dropTask bolt r)) ∧
  (∀ (s : State) (loom : Nat) (ev : Bool) (id : Nat) (o : AccOp), (s.ctxAt loom ev).accOps.find? (fun o => o.id == id) = some o →
    (s.ctxAt loom ev).opTurn o = true → s.sliceGone o.tile = none →
    (∀ slots : List Span, o.drain = false → (s.tile o.tile).state ≠ .open → (∀ sp ∈ o.slots, sp.remote (s.ctxAt loom ev).peer = false) →
      o.slotGot = [] → s.slotsHere (s.ctxAt loom ev) o.slots = .ok slots →
      let int := o.value.toNat.testBit 16
      exec (.accInitApplied loom ev id) s = issued (((s.zeroRange (tilePa o.tile) (if int then 131072 else 65536)).setTile o.tile
        { s.tile o.tile with state := .open, merged := 0, expect := o.value.toNat % 2 ^ 13, int := int,
                             slotSpans := slots, slotData := [] }).finishAccOp loom ev id)) ∧
    (∀ (u v : State) (bs : List Byte), o.drain = true → o.rowFlags = [] → (s.tile o.tile).state = .complete →
      s.readSpan { pa := tilePa o.tile, va := 0, len := tileBytes (s.tile o.tile).int, off := 0 } = (u, bs, none) →
      let f := (Fmt.ofCode o.ofmt).getD .fp32
      let rows := (List.range 128).map (drainRow u.mem o.tile (s.tile o.tile).int f ((RMode.ofCode o.rnd 0).getD .rne))
      let rowOf : Span → Nat := fun sp => sp.off / (128 * f.bytes)
      (u.modAccOp loom ev id (fun o => { o with rowFlags := rows.map (fun r => r.2), waitRows := o.rows.map rowOf })).writeRows loom ev
        (s.ctxAt loom ev).peer o (rows.flatMap (fun r => r.1)) f.bytes (o.rows.map (fun sp => (rowOf sp, sp))) = (v, none) →
      exec (.tileDrain loom ev id) s = issued v)) ∧
  (∀ (s : State) (loom : Nat) (ev : Bool) (id : Nat) (o : AccOp) (p : Partition),
    (s.ctxAt loom ev).accOps.find? (fun o => o.id == id) = some o → o.drain = true → s.part? (s.ctxAt loom ev).peer = some p →
    p.barrierLimit ≠ 0 → (s.tile o.tile).state = .open →
    exec (.drainTimeout loom ev id) s = issued ((s.raiseAsync loom ev
      { cls := 0x13, cause := 3, addr := o.caddr.toNat, d0 := o.caddr.toNat,
        d1 := (s.tile o.tile).merged * 2 ^ 32 + (s.tile o.tile).expect, precise := false, src := 3, unit := some (sliceUnit o.tile),
        line := o.line, lane := o.lane, stream := o.stream.toNat }).finishAccOp loom ev id))

namespace Sys2Proof.Claims

open Sys2Proof Sys2Proof.Machine

/-- The engine that an event names. -/
def engOf (x : Bool) : Eng := if x then .X else .A

/-- An engine that stands at the start of a line of its loom, with nothing that holds it. -/
def atLine (s : State) (loom : Nat) (ev : Bool) (e : Eng) (l : Line) : Prop :=
  let c := s.ctxAt loom ev
  let g := c.eng e
  c.act = .running ∧ g.inLine = false ∧ g.ended = false ∧ g.stoppedSafept = false ∧ c.startHeld e = none ∧
    ∃ ws, SMap.find? (s.loom loom).icache g.pc.toNat = some ws ∧ decodeLine ws = .ok l

/-- A context that a fault has stopped and whose counters are at zero, with the register loads' data (R305). -/
def stoppedAndDrained (c : Ctx) (st : StopInfo) : Prop :=
  c.stop = some st ∧ c.act = .stopped ∧ (∀ o ∈ c.outs, o.completed = true) ∧ ∀ r ∈ c.inFlight, r.awaiting = none

/-- A context whose engines have executed PICK.END and that has nothing left to execute (R46). -/
def pickDone (s : State) (loom : Nat) (ev : Bool) : Prop :=
  let c := s.ctxAt loom ev
  c.act = .running ∧ c.ea.ended = true ∧ c.ex.ended = true ∧ c.copies = [] ∧ c.accOps = [] ∧
    (∀ t ∈ (s.bolt (boltOf loom)).recs, t.loom ≠ loom ∨ t.ev ≠ ev ∨ t.peer ≠ c.peer ∨ t.handle ≠ none) ∧
    (∀ a ∈ c.accs, a.kind.writes = false) ∧ ∀ b ∈ s.bobbins, b.2.held = 0 ∨ (loom, ev) ∉ b.2.heldBy

/-- A loom that can park: both engines stand at the SAFEPT that a pre-emption request names, and the context has drained (R45). -/
def canPark (c : Ctx) : Prop :=
  (∃ r, c.req = some r ∧ r.preempt = true) ∧ c.act = .running ∧ c.ea.stoppedSafept = true ∧ c.ex.stoppedSafept = true ∧
    c.ea.inLine = false ∧ c.ex.inLine = false ∧ (∀ o ∈ c.outs, o.completed = true) ∧ ∀ r ∈ c.inFlight, r.awaiting = none

end Sys2Proof.Claims

open Sys2Proof Sys2Proof.Machine Sys2Proof.Claims

/-- R9, R35, R36, R44, R170, R350, R359, R361. While an engine waits in scoreboard mode, the results that it is to take first land,
and no engine cycle passes for it; completed operations leave their counters in the cycle that determinate mode declares; the 2,048th
line without a SAFEPT, two engines that wait for each other's queues, and a slip window that starves the X-engine each raise their
fault.

The model's own choices and readings that it rests on: logs 24, 49, 55, 134, 142. -/
def Obligations.SequencerEvents : Prop :=
  (∀ (s : State) (loom : Nat) (ev x : Bool) (n : Nat), let c := s.ctxAt loom ev
    let mine : Result → Prop := fun r => r.eng = engOf x ∧ r.awaiting = none
    c.act = .running → (c.eng (engOf x)).mode = false → (c.eng (engOf x)).waiting ≠ none → (∃ r ∈ c.inFlight, mine r ∧ r.due = n) →
    (∀ r ∈ c.inFlight, mine r → n ≤ r.due) →
    ∃ t, exec (.registerResultLand loom ev x) s = issued t ∧ let d := t.ctxAt loom ev
      (∀ r, r ∈ d.inFlight ↔ r ∈ c.inFlight ∧ ¬ (mine r ∧ r.due = n)) ∧ d.ea.cyc = c.ea.cyc ∧ d.ex.cyc = c.ex.cyc) ∧
  (∀ (s : State) (loom : Nat) (ev : Bool) (o : Outstanding) (due : Nat), let c := s.ctxAt loom ev
    o ∈ c.outs → o.completed = true → o.due = some due → due ≤ c.detCyc →
    ∃ t, exec (.declaredCompletion loom ev) s = issued t ∧
      ∀ q, q ∈ (t.ctxAt loom ev).outs ↔ q ∈ c.outs ∧ (q.completed = false ∨ ∃ d, q.due = some d ∧ c.detCyc < d)) ∧
  (∀ (s : State) (loom : Nat) (ev x : Bool) (l : Line), let c := s.ctxAt loom ev
    let g := c.eng (engOf x)
    atLine s loom ev (engOf x) l → (ev = false ∨ c.tframe ≠ 0) → 2047 ≤ g.lineCount → l.exempt (c.tframe != 0) = false →
    exec (.safeptOverrun loom ev x) s =
      issued (s.raiseSequencer loom ev { cls := 7, cause := 1, addr := g.pc.toNat, d1 := g.lineCount + 1 })) ∧
  (∀ (s : State) (loom : Nat) (ev : Bool), let c := s.ctxAt loom ev
    c.act = .running → c.waitByte .A ∈ [1, 2, 4, 8] → c.waitByte .X ∈ [1, 2, 4, 8] →
    exec (.queueDeadlock loom ev) s = issued (s.raiseSequencer loom ev
      { cls := 5, cause := 1, addr := c.ea.pc.toNat, d1 := c.waitByte .A + 256 * c.waitByte .X })) ∧
  (∀ (s : State) (loom : Nat) (ev : Bool), let c := s.ctxAt loom ev
    c.act = .running → c.waitByte .A = 0x10 → c.waitByte .X ∈ [1, 4, 8] → c.ex.waiting ≠ some .tokenRoom →
    exec (.slipStall loom ev) s = issued (s.raiseSequencer loom ev
      { cls := 7, cause := 3, addr := c.ea.pc.toNat, d1 := 0x10 + 256 * c.waitByte .X }))

/-- R305, R343, R345, R356. A fault of a running context stops it with its registers and its results in flight as they are; it is handled
where TVEC.VALID is 1 and TFRAME is 0. Once the context has drained, a handled one goes on in its handler with a1, TFRAME, a2 and TCAUSE
set and every other general register zero, and an unhandled one executes what it has queued and does not run again.

The model's own choices and readings that it rests on: logs 15, 18, 49, 79. -/
def Obligations.FaultsTaken : Prop :=
  (∀ (s : State) (loom : Nat) (ev : Bool) (f : FaultInfo), let c := s.ctxAt loom ev
    let d := (s.raiseFor loom ev f).ctxAt loom ev
    c.act = .running → c.stop = none →
    d.act = .stopped ∧ (∃ st, d.stop = some st ∧ st.fault.cls = f.cls ∧ st.fault.cause = f.cause ∧
      st.handled = (c.tvec.getLsbD 0 && c.tframe == 0 && !f.bare)) ∧
    d.a = c.a ∧ d.s = c.s ∧ d.v = c.v ∧ d.k = c.k ∧ d.flags = c.flags ∧ d.g = c.g ∧ d.ftx = c.ftx ∧ d.vshape = c.vshape ∧
    d.tvec = c.tvec ∧ d.tframe = c.tframe ∧ d.tcause = c.tcause ∧ d.lq = c.lq ∧ d.sq = c.sq ∧ d.bq = c.bq ∧
    d.inFlight = c.inFlight ∧ d.outs = c.outs) ∧
  (∀ (s : State) (loom : Nat) (ev : Bool) (st : StopInfo), let c := s.ctxAt loom ev
    let frame : W64 := BitVec.ofNat 64 (s.ctxBase loom ev + 0x30000)
    let cause : W64 := BitVec.ofNat 64 (st.fault.cls * 256 + st.fault.cause)
    stoppedAndDrained c st → st.handled = true →
    ∃ t, exec (.handledFaultEntry loom ev) s = issued t ∧
      let d := t.ctxAt loom ev
      d.act = .running ∧ d.stop = none ∧ d.ea.pc = c.tvec &&& 0xFFFFFFFFFFFFFFE0 ∧ d.ex.pc = c.tvec &&& 0xFFFFFFFFFFFFFFE0 ∧
      d.tframe = frame ∧ d.tcause = cause ∧ d.tvec = c.tvec ∧ d.a = ((Vector.replicate 64 0).set 1 frame).set 2 cause ∧
      d.s = Vector.replicate 32 0 ∧ d.v = Vector.replicate 32 0 ∧ d.k = Vector.replicate 8 0 ∧ d.flags = 0 ∧ d.vshape = 0x200 ∧
      d.ftbase = 3 ∧ d.g = 0 ∧ d.bq = [] ∧ d.inFlight = [] ∧ d.picktag = c.picktag ∧ d.pass = c.pass ∧ d.wver = c.wver ∧
      d.gangid = c.gangid ∧ d.slipw = c.slipw) ∧
  (∀ (s : State) (loom : Nat) (ev : Bool) (st : StopInfo), let c := s.ctxAt loom ev
    stoppedAndDrained c st → st.handled = false →
    ∃ t, exec (.unhandledFaultStop loom ev) s = issued t ∧ (t.ctxAt loom ev).act = .draining ∧ (t.ctxAt loom ev).faulted = true ∧
      (ev = true → ∀ e ∈ c.eval, ∀ r ∈ t.evals, r.head = e.head → r.filled = true ∨ r.failing ≠ 0))

/-- R45, R46, R47, R312, R360. A loom's part of a pick retires when its engines have executed PICK.END and nothing is left to execute, or
raises RESIDUE where a queue, bq or a token FIFO holds an entry; a loom at the SAFEPT that a pre-emption names parks; at the limit of a
pre-emption the picks go on and the command reports status 4.

The model's own choices and readings that it rests on: logs 11, 36, 80, 97, 138. -/
def Obligations.PickEnds : Prop :=
  (∀ (s : State) (loom : Nat) (ev : Bool), let c := s.ctxAt loom ev
    pickDone s loom ev →
    (c.queuesHold = false → (ev = true → (s.loom loom).evalQ = []) → ∃ t, exec (.loomPickRetire loom ev) s = issued t ∧ (t.ctxAt loom ev).act = .idle ∧
      (t.ctxAt loom ev).pick = none) ∧
    (c.queuesHold = true → exec (.loomPickRetire loom ev) s =
      issued (s.raiseAsync loom ev { cls := 5, cause := 2, addr := c.ea.pc.toNat, d0 := c.ea.lane + c.ea.word.toNat * 2 ^ 32,
                                     d1 := c.residue, line := c.ea.pc.toNat, lane := c.ea.lane }))) ∧
  (∀ (s : State) (loom : Nat) (p : Partition) (id : Nat), let c := s.ctxAt loom false
    canPark c → s.part? c.peer = some p → c.pick = some id →
    ∃ t, exec (.preemptSave loom) s = issued t ∧ (t.ctxAt loom false).act = .parked ∧ (t.ctxAt loom false).req = none ∧
      ∃ q, t.part? c.peer = some q ∧ q.picks = p.picks.map (fun k => if k.id = id then { k with parked := k.parked ++ [loom] } else k)) ∧
  (∀ (s : State) (peer launch : Nat) (p : Partition) (x : Nat × HostReq × Bool), s.part? peer = some p → x.1 = launch →
    p.preempts.find? (fun y => y.1 == launch) = some x →
    ∃ (u : State) (q : Partition), exec (.preemptLimit peer launch) s = issued (u.reply peer 4 9 x.2.1 4) ∧ u.part? peer = some q ∧
      (∀ k ∈ q.picks, k.launch = launch → k.parked = []) ∧ (∀ l ∈ q.launches, l.counter = launch → l.preempting = false))

namespace Sys2Proof.Claims

open Sys2Proof Sys2Proof.Machine

/-- The partition of a panel, and that it has the stage. -/
def stageOwner (s : State) (panel stage peer : Nat) (p : Partition) : Prop :=
  s.ownerOf panel = some peer ∧ s.part? peer = some p ∧ p.hasStage panel stage = true

/-- The version that a pass kind needs: F takes a pin of the current version, which exists, and B and W use the pin that the tag has
(R272). -/
def versionReady (st : Stage) (pass : Nat) (tag : W32) : Prop :=
  (pass = 0 → st.current ≠ none ∧ st.pinOf tag = none ∧ st.pins.length < 64) ∧ (pass = 1 ∨ pass = 2 → st.pinOf tag ≠ none)

/-- A partition that has taken a new pick at the end of its list. -/
def tookPick (t : State) (peer : Nat) (p : Partition) (panel stage : Nat) (gang : List Nat × Launch) (tag : W32) (pass : Nat) : Prop :=
  ∃ (q : Partition) (k : Pick), t.part? peer = some q ∧ q.picks = p.picks ++ [k] ∧ q.nextPick = p.nextPick + 1 ∧ k.id = p.nextPick ∧
    k.launch = gang.2.counter ∧ k.panel = panel ∧ k.stage = stage ∧ k.gang = gang.1 ∧ k.tag = tag ∧ k.pass = BitVec.ofNat 2 pass ∧
    k.started = false ∧ k.plane = p.planeNo

end Sys2Proof.Claims

open Sys2Proof Sys2Proof.Machine Sys2Proof.Claims

/-- R260, R263, R265, R266, R268, R287, R405. With a free gang and a matching row the decision starts the pick of the row with the
greatest priority; a decision after an event that finds no row changes nothing but its count; in determinate mode the replay sequence
gives the pick instead; a stage of which no row matches though it has a free gang and arrivals writes one record for its stall.

The model's own choices and readings that it rests on: logs 35, 67, 91, 93, 98. -/
def Obligations.TreadlesDecide : Prop :=
  ∀ (s : State) (panel stage peer : Nat) (p : Partition), stageOwner s panel stage peer p →
    let st := s.stage panel stage
    (∀ (g : List Nat × Launch) (rest : List (List Nat × Launch)), s.freeGangs p panel stage = g :: rest →
      let rows := p.decisionRows panel stage
      (st.bestRow rows = none → st.due = true → exec (.treadleDecision panel stage) s =
        issued (s.setStage panel stage { st with due := false, decisions := st.decisions + 1 })) ∧
      (∀ (b i : Nat) (r : Row) (a : Arrival), st.bestRow rows = some b → rows[b]? = some r → st.choose r.queue r.pass r.select = some i →
        (st.queues[r.queue])[i]? = some a → versionReady st r.pass a.tag → r.pass ≤ 3 → s.freeCounter p ≠ none →
        ∃ t, exec (.treadleDecision panel stage) s = issued t ∧ tookPick t peer p panel stage g a.tag r.pass)) ∧
    (∀ (tag : W32) (row i : Nat) (g : List Nat × Launch) (a : Arrival), p.determinate = true → st.replay[st.replayPos]? = some (tag, row) →
      (p.stageGangs panel stage)[st.replayPos % (p.stageGangs panel stage).length]? = some g → s.gangFree p g = true →
      let r := planeRow p.plane panel stage row
      ((st.queues[r.queue].take 64).zipIdx.find? (fun x => x.1.tag == tag)) = some (a, i) → versionReady st r.pass a.tag →
      s.freeCounter p ≠ none →
      ∃ t, exec (.replayEntryStart panel stage) s = issued t ∧ tookPick t peer p panel stage g a.tag r.pass ∧
        (t.stage panel stage).replayPos = st.replayPos + 1) ∧
    (p.param panel stage 0x38 4 ≠ 0 → s.freeGangs p panel stage ≠ [] → (∃ q, st.depth q ≠ 0) → st.stallNoted = false →
      s.nothingMatches p panel stage = true →
      exec (.liftstall panel stage) s = issued ((s.setStage panel stage { st with stallNoted := true }).unitRecord peer (6 * 512 + panel)
        { cls := 0x21, cause := 4, d0 := s.infoWord p panel stage 0, d1 := s.infoWord p panel stage 1, precise := false }))

/-- R25, R268, R270, R285, R325. GANG_START lets every loom of a pick begin at its entry with the registers of R25 to R29, once no
prefetch holds the start back and none of them is to move to full service first, with an empty L1 where no firing tells it what to
observe; PLANE_SWITCH makes the shadow of
a difference resident once no pick uses the plane before it.

The model's own choices and readings that it rests on: logs 96, 137. -/
def Obligations.PicksStart : Prop :=
  (∀ (s : State) (peer pick : Nat) (p : Partition) (k : Pick), s.part? peer = some p → p.picks.find? (fun x => x.id == pick) = some k →
    k.started = false → (∀ o ∈ s.stashOps, ¬ (o.peer = peer ∧ o.pick = some pick ∧ s.prefetchHolds o = true)) → p.held = false →
    (∀ l ∈ k.looms, (s.ctxAt l false).act = .idle ∧ s.moveDue l = false) → k.looms.Nodup →
    ∃ t, exec (.gangStart peer pick) s = issued t ∧
      (∀ (i l : Nat), k.looms[i]? = some l →
        let d := t.ctxAt l false
        d.act = .running ∧ d.peer = peer ∧ d.pick = some k.id ∧ d.ea.pc = k.entry ∧ d.ex.pc = k.entry ∧ d.picktag = k.tag.setWidth 64 ∧
        d.pass = k.pass.setWidth 64 ∧ d.wver = k.wver ∧
        d.gangid = BitVec.ofNat 64 (k.panel * 2 ^ 40 + k.stage * 2 ^ 32 + gangNumber k.gang * 2 ^ 16 + i) ∧
        d.slipw = BitVec.ofNat 8 (p.stageWord k.plane k.panel k.stage 0x1D5 1) ∧
        d.a = (((Vector.replicate 64 0).set 1 (BitVec.ofNat 64 k.a123.1)).set 2 (BitVec.ofNat 64 k.a123.2.1)).set 3
          (BitVec.ofNat 64 k.a123.2.2) ∧
        d.s = Vector.replicate 32 0 ∧ d.v = Vector.replicate 32 0 ∧ d.k = Vector.replicate 8 0 ∧ d.vshape = 0x200 ∧ d.flags = 0 ∧
        d.ftbase = 3 ∧ d.g = 0 ∧ d.tframe = 0 ∧ d.tvec = (s.ctxAt l false).tvec ∧ (k.fired = none → (t.loom l).l1 = [])) ∧
      ∃ q, t.part? peer = some q ∧ q.picks = p.picks.map (fun x => if x.id = pick then { x with started := true } else x)) ∧
  (∀ (s : State) (peer : Nat) (p : Partition) (d : Diff) (rest : List Diff), s.part? peer = some p → p.diffs = d :: rest →
    p.diffing = true → p.rollBack = none → (∀ k ∈ p.picks, k.plane = p.planeNo) →
    ∃ t q, exec (.planeSwitch peer) s = issued t ∧ State.part? t peer = some q ∧ q.plane = p.shadow ∧ q.planeNo = p.planeNo + 1 ∧
      q.diffs = rest ∧ q.diffing = false ∧ ∀ l < 320, p.panels.getLsbD (l / 40) = true → (t.loom l).l1 = [])

/-- R183, R185, R262, R297, R403, R404. A spilled arrival comes back on chip, a fenced ring that translates again goes on, a held arrival
is posted when its queue takes it, a congestion level falls, and the action of a bobbin that has fired is posted: it counts an arrival
in its barrier, hands its tasks over, or posts an arrival.

The model's own choices and readings that it rests on: logs 66, 67, 68, 69, 71, 144. -/
def Obligations.ArrivalsMove : Prop :=
  (∀ (s : State) (panel stage queue peer : Nat) (p : Partition), stageOwner s panel stage peer p →
    let st := s.stage panel stage
    let q : Fin 4 := Fin.ofNat 4 queue
    let r := st.rings[q]
    (∀ (sp : Span) (u : State) (bs : List Byte), r.head < r.tail → r.fenced = false → st.queues[q].length ≤ 56 →
      s.spillPlace p (r.at r.head) false = some sp → s.readSpan sp = (u, bs, none) →
      exec (.spillReturn panel stage queue) s = issued (u.setStage panel stage { st with
        rings := st.rings.set q { r with head := r.head + 1 },
        queues := st.queues.set q (st.queues[q] ++ [Arrival.ofBytes bs]) })) ∧
    (∀ (w : Span), r.fenced = true → s.spillPlace p (r.at r.tail) true = some w →
      (r.tail ≤ r.head ∨ s.spillPlace p (r.at r.head) false ≠ none) →
      exec (.spillFenceRetry panel stage queue) s =
        issued (s.setStage panel stage { st with rings := st.rings.set q { r with fenced := false } })) ∧
    (∀ (h : HeldArrival) (rest : List HeldArrival) (u : State), st.heldArr[q] = h :: rest → s.enqueue peer panel stage h.arr = (u, true) →
      exec (.heldArrivalPost panel stage queue) s = issued ((u.setStage panel stage
        { u.stage panel stage with heldArr := (u.stage panel stage).heldArr.set q rest }).heldPosted h.src))) ∧
  (∀ (s : State) (peer mem : Nat) (p : Partition), s.part? peer = some p → p.level mem ≠ 0 →
    ∃ t q, exec (.congestionDecay peer mem) s = issued t ∧ State.part? t peer = some q ∧
      (1 < p.level mem → q.level mem = p.level mem - 1)) ∧
  (∀ (s : State) (k : Nat) (p : Partition), let b := s.bobbin k
    s.part? b.peer = some p → b.held ≠ 0 →
    (∀ x ∈ s.stages, ∀ l ∈ x.2.heldArr.toList, ∀ h ∈ l, h.src ≠ .bobbin k) →
    (∀ sp, b.action = 0 → s.actionBarrier p k b.operand = some sp → s.meetBarrier sp = (s, none) → (s.barrier sp.pa).state = 1 →
      exec (.bobbinActionPost k) s = issued ((s.updateBarrier sp
        { s.barrier sp.pa with arrived := ((s.barrier sp.pa).arrived + 1) % 2 ^ 32 }).actionPosted k)) ∧
    (∀ (u : State) (bs : List Byte), b.action = 1 → s.actionRecords p k b.operand = (u, some bs) →
      let bolt := if 65536 ≤ k then k % 65536 / 256 else b.operand.toNat / 2 ^ 48 % 64
      (s.bolt bolt).recs.length + b.operand.toNat / 2 ^ 56 % 32 + 1 ≤ 64 →
      exec (.bobbinActionPost k) s = issued ((u.deliverTasks b.peer bolt (handleOf b.peer b.gen k) bs).actionPosted k)) ∧
    (∀ (u : State) (panel stage : Nat) (a : Arrival), b.action = 2 → arrivalOf (b.operand.setWidth 64) 0 = (panel, stage, a) →
      p.hasStage panel stage = true →
      let tag' := (b.operand.toNat / 2 ^ 53 + a.tag.toNat) % 2 ^ 32
      (s.setBobbin k { b with operand := (b.operand &&& 0x1FFFFFFF00000000) ||| BitVec.ofNat 61 tag' }).postArrival b.peer panel stage
        { a with fired := some b.extents } (.bobbin k) = (u, true) →
      exec (.bobbinActionPost k) s = issued (u.actionPosted k)))

namespace Sys2Proof.Claims

open Sys2Proof Sys2Proof.Machine

/-- A loader that has met a suspended line and holds no place in a waiter table yet: its partition, and the line's physical and virtual
address. -/
def loaderMeets (s : State) (loom : Nat) (ev : Bool) (who : Loader) (peer pa va : Nat) (p : Partition) : Prop :=
  (∀ w ∈ s.waiters, ¬ (w.who = who ∧ w.loom = loom ∧ w.ev = ev)) ∧ s.meets loom ev who = some (peer, pa, va) ∧ s.part? peer = some p

/-- The SID and the chain of the evaluation that an access or copy of this device belongs to (R191). -/
def loaderEval (s : State) (loom : Nat) (ev : Bool) : Loader → Option (W32 × List W32)
  | .acc _ | .copy _ => s.evalOf loom ev
  | _ => none

/-- The requests of an access or a copy command at peers that have been sent and to which no reply has come. -/
def unanswered (s : State) (loom : Nat) (ev : Bool) (id : Nat) : List Request :=
  s.requests.filter (fun r => s.requestOf loom ev id r && !r.unsent && !r.refused)

end Sys2Proof.Claims

open Sys2Proof Sys2Proof.Machine Sys2Proof.Claims

/-- R25, R41, R110, R190, R191, R383, R401. The first loader of a SUSPENDED region makes its lines EVALUATING and launches one evaluation
behind which it waits; a loader of an EVALUATING region waits; an idle evaluator starts the next evaluation of its queue at its entry
line, unless a pre-emption holds it back or it is first to move to full service; a loader that
waits to the suspension limit ends with LIMIT; and a loader that a peer's full table refused asks again.

The model's own choices and readings that it rests on: logs 74, 76, 83, 137. -/
def Obligations.EvaluationsRun : Prop :=
  (∀ (s : State) (loom : Nat) (ev : Bool) (who : Loader) (peer pa va : Nat) (p : Partition), loaderMeets s loom ev who peer pa va p →
    (∀ r : EvalRec, (s.line pa).cell = 2 → s.recordOf pa = some r →
      (∀ x, loaderEval s loom ev who = some x → x.1 ≠ r.sid ∧ r.sid ∉ x.2) → s.waiterEntries (lineStack r.head) < 1024 →
      exec (.loaderArrival loom ev who) s = issued { s with waiters := s.waiters ++ [⟨r.head, loom, ev, who⟩] }) ∧
    (∀ (head headVa : Nat) (d : SuspDesc) (ls : List (Piece × BitVec 8)), (s.line pa).cell = 1 →
      s.regionOf p pa va = some (head, headVa, d, ls) → (∀ x, loaderEval s loom ev who = some x → x.2.length < 4) →
      s.waiterEntries (lineStack head) + 2 ≤ 1024 →
      ∃ t, exec (.loaderArrival loom ev who) s = issued t ∧ t.waiters = s.waiters ++ [⟨head, loom, ev, who⟩] ∧
        (∃ r ∈ t.evals, r.head = head ∧ r.headVa = headVa ∧ r.sid = d.sid ∧ r.extent = d.extent ∧ r.filled = false) ∧
        (d.place ≠ 2 → ∀ l ∈ ls, (t.line l.1.pa).cell = 2))) ∧
  (∀ (s : State) (loom : Nat) (e : Evaluation) (rest : List Evaluation) (p : Partition), (s.loom loom).evalQ = e :: rest →
    (s.loom loom).ev.act = .idle → (∀ q, (s.loom loom).pick.req = some q → q.preempt = false) → s.moveDue loom = false →
    s.part? e.peer = some p →
    ∃ t, exec (.evaluationStart loom) s = issued t ∧ (t.loom loom).evalQ = rest ∧
      let d := t.ctxAt loom true
      d.act = .running ∧ d.peer = e.peer ∧ d.eval = some e ∧ d.ea.pc = e.entry &&& 0xFFFFFFFFFFFFFFE0 ∧ d.ex.pc = d.ea.pc ∧ d.pass = 3 ∧
      d.picktag = e.picktag ∧ d.wver = e.wver ∧ d.gangid = e.gangid ∧
      d.a = (((Vector.replicate 64 0).set 1 e.arg).set 2 e.headVa).set 3 (BitVec.ofNat 64 e.extent) ∧
      d.s = Vector.replicate 32 0 ∧ d.v = Vector.replicate 32 0 ∧ d.k = Vector.replicate 8 0 ∧ d.vshape = 0x200 ∧ d.flags = 0) ∧
  (∀ (s : State) (loom : Nat) (ev : Bool) (id : Nat) (p : Partition) (w : Waiter) (r : EvalRec) (a : Access),
    let c := s.ctxAt loom ev
    s.part? c.peer = some p → p.suspLimit ≠ 0 → a ∈ c.accs → a.id = id →
    s.waiters.find? (fun x => x.loom == loom && x.ev == ev && x.who == .acc id) = some w →
    s.evals.find? (fun x => x.head == w.head) = some r → r.held = none → r.posting = false →
    exec (.suspensionLimit loom ev id) s = issued (s.failLoader loom ev (.acc id)
      { cls := 0x12, cause := 6, addr := r.headVa, d0 := r.headVa, d1 := p.suspLimit, precise := false, src := 4,
        unit := some (unitOf w.head) })) ∧
  (∀ (s u : State) (loom : Nat) (ev : Bool) (id q : Nat) (r : Request),
    s.requests.find? (fun r => s.requestOf loom ev id r && r.refused) = some r → s.transmit { r with refused := false } = some (u, q) →
    exec (.loaderRetry loom ev id) s = issued { u with requests := u.requests.map (fun x =>
      if x.rtag = r.rtag then { r with refused := false, port := q } else x) })

/-- R111, R166, R321, R376. An access on the module's own channels that gets no reply is sent again up to three times, and then faults; a
request to a peer is sent again the same way; an entry leaves its combining switch, alone or as one request with the sum of its addends,
from a bolt's switch to the switch of the panel that has the word, or to the peer that has it; and the reply to it gives each of its requests the base and the addends of the ports below.

The model's own choices and readings that it rests on: logs 37, 107, 108, 150. -/
def Obligations.RepliesAndSwitches : Prop :=
  (∀ (s : State) (loom : Nat) (ev : Bool) (id : Nat) (a : Access), let c := s.ctxAt loom ev
    c.accs.find? (fun x => x.id == id) = some a →
    (∀ sp, unanswered s loom ev id = [] → s.performable loom ev c a = true → s.awaited c a.undone = some sp →
      (a.replays < 3 → exec (.requestReplay loom ev id) s = issued (s.putAccess loom ev { a with replays := a.replays + 1 })) ∧
      (3 ≤ a.replays → exec (.requestReplay loom ev id) s = issued (({ s with freeIdx := s.freeIdx + 1 } : State).failAccess loom ev a
        { cls := 0x10, cause := 5, addr := sp.va, d0 := (Config.localSseq s.freeIdx).toNat, d1 := unitOf sp.pa, precise := false, src := 4,
          unit := some (unitOf sp.pa) }))) ∧
    (∀ (r : Request) (u : State) (q : Nat), unanswered s loom ev id = [r] → r ∈ s.requests → r.tries < 3 →
      (∀ p, s.part? r.peer = some p → p.resetting = false) → s.transmit { r with tries := r.tries + 1 } = some (u, q) →
      exec (.requestReplay loom ev id) s = issued { u with requests := u.requests.map (fun x =>
        if x.rtag = r.rtag then { r with tries := r.tries + 1, port := q } else x) })) ∧
  (∀ (s : State) (switch id : Nat) (e : Combining),
    s.combining.find? (fun e => e.id == id && e.switch == switch && !e.departed) = some e →
    let next : Option (Nat × Nat) := if switch < 40 then panelSwitch switch e.target else none
    let gone : State := s.dropEntry id
    let left : State := { s with combining := s.combining.map (fun x => if x.id = id then { x with departed := true } else x) }
    (∀ p, e.parts = [p] → next = none → exec (.combineDepart switch id) s = issued (gone.passOn p)) ∧
    (∀ p sw port u, e.parts = [p] → next = some (sw, port) →
      (gone.joinSwitch sw e.target { p with port := port } = (u, true) → exec (.combineDepart switch id) s = issued u) ∧
      (gone.joinSwitch sw e.target { p with port := port } = (u, false) → exec (.combineDepart switch id) s = issued (u.passOn p))) ∧
    (e.parts.length ≠ 1 → next = none → e.target < 2 ^ 60 → exec (.combineDepart switch id) s = issued left) ∧
    (e.parts.length ≠ 1 → next = none → 2 ^ 60 ≤ e.target → exec (.combineDepart switch id) s = issued (left.sendMerged e)) ∧
    (∀ sw port, e.parts.length ≠ 1 → next = some (sw, port) → exec (.combineDepart switch id) s =
      issued (left.joinSwitch sw e.target
        { port := port, child := id, addend := (e.parts.map (fun p => p.addend)).foldl (· + ·) 0 }).1)) ∧
  (∀ (bolt target sw port : Nat), panelSwitch bolt target = some (sw, port) →
    sw = 40 + panelOfPa target ∧ port = if panelOfPa target = bolt / 5 then bolt % 5 else 5) ∧
  (∀ (s : State) (switch id : Nat) (e : Combining),
    s.combining.find? (fun e => e.id == id && e.switch == switch && e.departed) = some e →
    (∀ b, e.base = some b →
      exec (.decombineReply switch id false) s = issued ((s.dropEntry e.id).splitReply e.target (prefixes b e.parts))) ∧
    (∀ (u : State) (v : Nat), e.base = none → e.target < 2 ^ 60 →
      (∀ x ∈ s.combining, ∀ p ∈ x.parts, p.req ≠ none ∨ p.far ≠ none ∨ p.child ≠ id) →
      s.meetsSuspension [s.partSpan e.target 3 e.parts] = false →
      s.atomicAt 512 (s.partSpan e.target 3 e.parts) .faaC e.sum ((s.firstReq 3 e.parts).map (fun r => (r.1, r.2.1))) = (u, v, none) →
      exec (.decombineReply switch id false) s =
        issued ((u.dropEntry e.id).splitReply e.target (prefixes (BitVec.ofNat 64 v) e.parts)))) ∧
  (∀ (b x y : W64) (p q r : CombPart), p.addend = x → q.addend = y →
    (prefixes b [p, q, r]).map (fun v => v.2) = [b, b + x, b + x + y])

namespace Sys2Proof.Claims

open Sys2Proof Sys2Proof.Machine

/-- A sequenced control flit of a kind that a port takes: the port is up, the flit carries its CRC, and LSEQ is the one that the port
waits for (R290, R396). -/
def takesFlit (s : State) (q kind : Nat) (f : Flit) : Prop :=
  (s.port q).up = true ∧ flitOk kind f = true ∧ f.lseq = (s.port q).lseqRx

/-- The state once a port has taken a sequenced control flit: it waits for the next, and a LACK follows every 256 flits (R396). -/
def flitTaken (s : State) (q : Nat) : State :=
  (s.setPort q { s.port q with lseqRx := (s.port q).lseqRx + 1, ctlWait := false, retries := 0 }).countReceived q

/-- A flit whose destination is the partition that owns the port (R294). -/
def forUs (s : State) (q : Nat) (f : Flit) (p : Partition) : Prop :=
  s.portOwner q = some f.dpeer.toNat ∧ s.part? f.dpeer.toNat = some p

/-- A request for this device of a source and tag that no earlier one of this device has, to a partition that is not in reset, while no
data flits wait for their request. -/
def firstRequest (s : State) (q kind : Nat) (f : Flit) (p : Partition) : Prop :=
  takesFlit s q kind f ∧ forUs s q f p ∧ p.resetting = false ∧ (∀ x ∈ s.incoming, reqKey x.flit ≠ reqKey f) ∧ (s.port q).unclaimed = []

/-- The record of a request as it comes in: the data that it still needs, and the sequence filter that has it (R295, R376). -/
def asIncoming (s : State) (q kind : Nat) (f : Flit) (need : Nat) : Incoming :=
  { port := q, flit := { f with data := [] }, kind := kind, need := need, chan := s.filterOf f }

/-- The state in which a request has come in. -/
def requestIn (s : State) (q kind : Nat) (f : Flit) (need : Nat) : State :=
  let u := flitTaken s q
  { u with incoming := u.incoming ++ [asIncoming u q kind f need] }

/-- The spans that a request of a peer names, where its partition's own pages admit them (R167, R290). -/
def requestAt (u : State) (p : Partition) (op : MemOp) (f : Flit) (n : Nat) (sps : List Span) : Prop :=
  f.addr.toNat + n ≤ 2 ^ 48 ∧ u.peerSpans p op 0 3 f.addr.toNat n = .ok sps

/-- The request of this device that a reply answers (R295). -/
def answers (u : State) (f : Flit) (r : Request) : Prop :=
  u.requests.find? (fun r => r.rtag == f.rtag.toNat && r.peer == f.dpeer.toNat && r.dpeer == f.speer.toNat) = some r

end Sys2Proof.Claims

open Sys2Proof Sys2Proof.Machine Sys2Proof.Claims

/-- R93, R167, R198, R290, R291, R295, R296, R321, R396. A request of a peer that its partition's pages admit is performed once it is
complete, and answered: a READ with its bytes, a WRITE, RELST or CHWRITE that its bytes are stored, an ATOMIC with the old value or an ACK,
a CAS once its CASNEW has come, and a REDUCE that is added, with its flags in the ACK; a FAA.C of a word of memory joins the switch of its
panel; a request that carries more than 8 bytes waits for its data flits.

The model's own choices and readings that it rests on: logs 27, 31, 73, 106, 107, 150. -/
def Obligations.PeerRequests : Prop :=
  ∀ (s : State) (q : Nat) (f : Flit) (p : Partition),
    let n := f.lenM1.toNat + 1
    let g : Flit := { f with data := [] }
    let first (kind : Nat) : Prop := firstRequest s q kind f p
    (∀ (sps : List Span) (v : State) (bs : List Byte), let u := requestIn s q kRead f 0
      first kRead → requestAt u p .load f n sps → u.meetsSuspension sps = false → u.readSpans sps = (v, bs, none) →
      exec (.read q f) s = issued (v.answer q g kReadReply 0 (inline bs) (if bs.length ≤ 8 then [] else bs))) ∧
    (∀ (sps : List Span) (v : State), let u := requestIn s q kWrite f 0
      first kWrite → n ≤ 8 → requestAt u p .store f n sps → u.writeSpans (leBytes n f.opa.toNat) sps = (v, none) →
      exec (.write q f) s = issued (v.answer q g kAck 0 0 [])) ∧
    (first kWrite → 8 < n → exec (.write q f) s = issued (requestIn s q kWrite f n)) ∧
    (∀ (sps : List Span) (v : State), let u := requestIn s q kRelSt f 0
      first kRelSt → requestAt u p .store f 8 sps → u.writeSpans (leBytes 8 f.opa.toNat) sps = (v, none) →
      exec (.relst q f) s = issued (v.answer q g kAck 0 0 [])) ∧
    (∀ (sps : List Span) (v : State), let u := requestIn s q kChWrite f 0
      first kChWrite → n ≤ 8 → requestAt u p .copyDst f n sps → u.writeSpans (leBytes n f.opa.toNat) sps = (v, none) →
      exec (.chwrite q f) s =
        issued ((v.slotWritten f.dpeer.toNat f.aop.toNat f.addr.toNat n).answer q g kAck 0 0 [])) ∧
    (∀ (op : AtomicOp) (ret : Bool) (sp : Span) (v : State) (old : Nat), let u := requestIn s q kAtomic f 0
      first kAtomic → f.aop.toNat ≠ 0x21 → AtomicOp.ofWire f.aop.toNat 0 = some (op, ret) → f.addr.toNat % 8 = 0 →
      requestAt u p .atomic f 8 [sp] → u.meetsSuspension [sp] = false → (f.aop.toNat = 0x20 → offChip sp.pa = false) →
      u.atomicAt 512 sp op f.opa = (v, old, none) →
      exec (.atomic q f) s = issued (if ret then v.answer q g kAtomicReply 0 (BitVec.ofNat 64 old) [] else v.answer q g kAck 0 0 [])) ∧
    (∀ (sp : Span) (v : State), let u := requestIn s q kAtomic f 0
      first kAtomic → f.aop.toNat = 0x20 → f.addr.toNat % 8 = 0 → requestAt u p .atomic f 8 [sp] → u.meetsSuspension [sp] = false →
      offChip sp.pa = true →
      u.joinSwitch (40 + panelOfPa sp.pa) sp.pa { port := 6 + q % 2, far := some (q, reqKey f), addend := f.opa } = (v, true) →
      exec (.atomic q f) s = issued (v.modIncoming q (reqKey f) (fun i => { i with taken := true, combined := true }))) ∧
    (first kAtomic → f.aop.toNat = 0x21 → exec (.atomic q f) s = issued (requestIn s q kAtomic f 0)) ∧
    (∀ (sp : Span) (v : State) (fl : Flags) (loom : Nat) (ev : Bool) (seq : BitVec 16) (closes : Bool), let u := requestIn s q kReduce f 0
      let ty : BitVec 2 := f.aop.setWidth 2
      let len := n / (redWidths ty).2 * (redWidths ty).1
      first kReduce → n ≤ 8 → u.reduceSpan p f.addr.toNat len = .ok sp → Config.reduceKey u.freeIdx = (loom, ev, seq, closes) →
      ({ u with freeIdx := u.freeIdx + 1 } : State).reduceHere ty { sp with len := len }
        { key := ⟨f.speer.toNat, ev, loom % 512, seq⟩, first := 0, int := ty == 3,
          values := redValues ty (n / (redWidths ty).2) (leBytes n f.opa.toNat), flags := 0, remote := some (q, reqKey f),
          closes := closes } none
        = (v, .ok (some fl)) →
      exec (.reduce q f) s = issued (v.answer q g kAck 0 (fl.setWidth 64) [])) ∧
    (∀ (i : Incoming) (sp : Span) (v : State) (old : Nat), takesFlit s q kCasNew f → forUs s q f p → p.resetting = false →
      let u := flitTaken s q
      let w : State := { u with incoming := u.incoming.map (fun x => if x = i then { i with casNew := some f.opa } else x) }
      s.incoming? q (reqKey f) = some i → i.kind = kAtomic → i.flit.aop = 0x21 → i.casNew = none → i.taken = false → i.need = 0 →
      i.flit.dpeer = f.dpeer → i.flit.addr.toNat % 8 = 0 → requestAt w p .atomic i.flit 8 [sp] → w.meetsSuspension [sp] = false →
      w.atomicAt 512 sp (.cas f.opa) i.flit.opa = (v, old, none) →
      exec (.casnew q f) s = issued (v.answer q i.flit kAtomicReply 0 (BitVec.ofNat 64 old) []))

/-- R288, R291, R295, R296, R297, R298, R396. A reply ends the request that it answers, with its bytes or its value; a WINDOW raises
the window of a send channel, a CONGESTION the level of a destination, and a DRAIN is noted. A DATA_FLIT of the sequence number that is
awaited joins those that wait for their request, and one that comes before an earlier one waits for it.

The model's own choices and readings that it rests on: log 110. -/
def Obligations.PeerReplies : Prop :=
  ∀ (s : State) (q : Nat) (f : Flit) (p : Partition),
    let u := flitTaken s q
    (forUs s q f p →
      (∀ r, answers u f r → f.status = 0 →
        (takesFlit s q kAck f → exec (.ack q f) s = issued ((u.dropRequest r.rtag).requestDone r f.opa [])) ∧
        (takesFlit s q kAtomicReply f → exec (.atomicReply q f) s = issued ((u.dropRequest r.rtag).requestDone r f.opa []))) ∧
      (∀ r, takesFlit s q kReadReply f → answers u f r → f.status = 0 → f.lenM1.toNat < 8 → (s.port q).unclaimed = [] →
        (∀ x ∈ s.incoming, x ≠ asIncoming u q kReadReply f 0) →
        exec (.readReply q f) s = issued ((u.dropRequest r.rtag).requestDone r f.opa (leBytes (f.lenM1.toNat + 1) f.opa.toNat))) ∧
      (takesFlit s q kReadReply f → f.status = 0 → 8 ≤ f.lenM1.toNat → (s.port q).unclaimed = [] →
        exec (.readReply q f) s = issued (requestIn s q kReadReply f (f.lenM1.toNat + 1))) ∧
      (∀ (r : Request), takesFlit s q kReadReply f → answers u f r → f.status.toNat ≠ 0 → f.status.toNat ≠ 6 →
        exec (.readReply q f) s =
          issued ((u.dropRequest r.rtag).requestFails r (statusFault f.status.toNat r.flit.addr.toNat))) ∧
      (∀ (t : Fabric) (e : Channel) (x : Partition), takesFlit s q kWindow f → u.part? f.dpeer.toNat = some x → x.fabric = some t →
        t.send[f.addr.toNat % 64]? = some e → e.slots ≠ 0 →
        exec (.window q f) s = issued (u.raiseWindow f.dpeer.toNat (f.addr.toNat % 64) f.opa.toNat (some q))) ∧
      (∀ (x : Partition), takesFlit s q kCongestion f → u.part? f.dpeer.toNat = some x → let m := f.opa.toNat % 4096
        exec (.congestion q f) s =
          issued (u.setPart f.dpeer.toNat { x with cong := SMap.set x.cong m (min 7 (x.level m + 1)) }))) ∧
    (takesFlit s q kDrain f → exec (.drainFlit q f) s = issued (u.setPort q { u.port q with drainGot := true })) ∧
    (∀ (d : DataFlit), (s.port q).up = true → dataOk d = true →
      (d.dseq = (s.port q).dseqRx → (∀ x ∈ (s.port q).early, x.dseq ≠ d.dseq + 1) →
        (∀ x ∈ s.incoming, x.port ≠ q ∨ x.lacks = false ∨ x.flit.rtag ≠ d.rtag ∨ x.flit.speer ≠ d.speer) → (s.port q).unclaimed = [] →
        exec (.dataFlit q d) s = issued ((s.setPort q ({ s.port q with
          dseqRx := (s.port q).dseqRx + 1, dataWait := false, badWaves := [], unclaimed := [d] } : Port).settleRx).countReceived q)) ∧
      (d.dseq ≠ (s.port q).dseqRx → (d.dseq - (s.port q).dseqRx).toNat < 2 ^ 15 → (s.port q).dataWait = false →
        exec (.dataFlit q d) s = issued (s.setPort q { s.port q with
          early := (s.port q).early.filter (fun x => x.dseq != d.dseq) ++ [d] })))

/-- R289, R290, R297, R298, R396 to R399. The 256 bits of a control flit give its kind and fields back. The flits and events of the links themselves: a PARK flit sets the width that is received from the data flit that it names on, a LACK
releases what it covers, an LRETRY, and a LACK that does not come, has what is held sent again, a port that has received flits
acknowledges them, a flit in error is asked for again, a woken set is taken, a lost wavelength narrows the port, a port goes down, and a
port that relocks comes up.

The model's own choices and readings that it rests on: logs 101, 102, 103, 104, 111. -/
def Obligations.LinksRun : Prop :=
  (∀ (s : State) (q : Nat) (f : Flit), let u := flitTaken s q
    (∀ c : BitVec 2, takesFlit s q kPark f → (f.aop = 7 ∧ c = 0) ∨ (f.aop = 3 ∧ c = 1) ∨ (f.aop = 1 ∧ c = 2) →
      let d : BitVec 16 := f.opa.setWidth 16
      exec (.park q f) s = issued (u.setPort q ({ u.port q with
        rxPark := (u.port q).rxPark.filter (fun x => decide (2 ^ 15 ≤ (x.1 - d).toNat)) ++ [(d, c)] } : Port).settleRx)) ∧
    (takesFlit s q kWake f → exec (.wake q f) s = issued u)) ∧
  (∀ (kind : Nat) (g : Flit), kind < 256 → g.data = [] → flitOf (flitWord kind g) = (kind, g)) ∧
  (∀ (p : Port) (d : BitVec 16) (c : BitVec 2), p.rxPark = [(d, c)] →
    ((p.dseqRx - d).toNat < 2 ^ 15 → p.settleRx = { p with rxWidth := c, rxPark := [] }) ∧
    (2 ^ 15 ≤ (p.dseqRx - d).toNat → p.settleRx = p)) ∧
  (∀ (s : State) (q : Nat) (f : Flit), (s.port q).up = true →
    let p := s.port q
    (flitOk kIdle f = true → exec (.idle q f) s = issued s) ∧
    (flitOk kLRetry f = true → exec (.lretry q f) s = issued (s.resend q f.lseq (f.opa.setWidth 16))) ∧
    (flitOk kLack f = true → (p.waiting = [] → exec (.lack q f) s = issued (s.setPort q { p with
        held := p.held.filter (fun h => h.2.lseq != f.lseq && decide ((h.2.lseq - f.lseq).toNat < 2 ^ 15)),
        heldData := p.heldData.filter (fun d => d.dseq != f.opa.setWidth 16 && decide ((d.dseq - f.opa.setWidth 16).toNat < 2 ^ 15)) }))) ∧
    (flitOk kIdle f = false → p.ctlWait = false → p.retries < 8 →
      ∃ t, exec (.idle q f) s = issued t ∧ (t.port q).ctlWait = true ∧ (t.port q).retries = p.retries + 1 ∧
        t.out.getLast? = some (.flit q kLRetry (sealFlit kLRetry { noFlit with lseq := p.lseqRx, opa := p.dseqRx.setWidth 64 }))) ∧
    (p.gotSince ≠ 0 → exec (.lackInterval q) s = issued (s.sendLack q)) ∧
    (∀ (k : Nat) (h : Flit) (rest : List (Nat × Flit)), p.held = (k, h) :: rest → p.heldData = [] →
      exec (.lackTimeout q) s = issued (s.resend q h.lseq p.dseqTx)) ∧
    (∀ w, p.pendingWidth = some w → exec (.wakeLock q) s =
      issued ((s.setPort q { p with pendingWidth := none }).sendPark q (p.achievable w) p.dseqTx)) ∧
    (∀ wave, 1 ≤ wave → wave ≤ 7 → wave ∉ p.lost → ∃ t, exec (.wavelengthLoss q wave) s = issued t ∧ (t.port q).lost = wave :: p.lost) ∧
    (∀ reason, (∀ peer x, s.portOwner q = some peer → s.part? peer = some x → x.fabricNext = none) →
      ∃ t, exec (.portDown q reason) s = issued t ∧ (t.port q).up = false ∧ (t.port q).held = [] ∧ (t.port q).waiting = [])) ∧
  (∀ (s : State) (q peer : Nat) (f : Flit) (p : Partition) (req : HostReq) (t : Fabric) (role group : Nat), s.portOwner q = some peer →
    s.part? peer = some p → p.fabricNext = some (req, t) → (q, role, group) ∈ t.roles → role ≠ 0 → (s.port q).up = false →
    (s.port q).relockIn = none → flitOk kRelock f = true → f.opa.setWidth 32 = t.phase →
    exec (.relock q f) s = issued (s.setPort q { up := true, errors := (s.port q).errors, errWaves := (s.port q).errWaves,
                                                 relockIn := some t.phase }))

namespace Sys2Proof.Claims

open Sys2Proof Sys2Proof.Machine

/-- The firmware has been verified, and no ARRIVALS message of the partition waits for room: a message of the host is taken (R323,
R403). -/
def listens (s : State) (peer : Nat) (p : Partition) : Prop :=
  s.agate.failed = false ∧ s.agate.verified = true ∧ s.part? peer = some p ∧ p.arrWait = none

/-- A request that its partition takes: the fields that must be zero are, and the partition is neither in a reset nor being resized, nor
held (R2, R301, R314, R409). -/
def takesRequest (s : State) (peer : Nat) (req : HostReq) (p : Partition) : Prop :=
  listens s peer p ∧ req.zeros = 0 ∧ p.resetReq = none ∧ p.resizing = none ∧ p.held = false

/-- The ports of a partition. -/
def portsOf (p : Partition) : List Nat := p.owned.flatMap (fun n => [2 * n, 2 * n + 1])

/-- A state in which a launch has been armed with a counter (R21, R22, R314). -/
def launched (u : State) (peer : Nat) (p : Partition) (a : ArmArgs) (i : Nat) : State :=
  ((u.newCounter peer i 1 (p.param a.panel a.stage 0x30 4) a.step).modPart peer (fun p =>
    { p with launches := p.launches ++ [{ counter := i, panel := a.panel, stage := a.stage, gangs := a.gangs }] })).armStage p a.panel a.stage

/-- The bytes of a report's signed part, its signature and the certificate of a first one (R329, R330; DESIGN CHOICE, log 8). -/
def reportOf (u : State) (peer : Nat) (p : Partition) (nonce : BitVec 256) : List Byte :=
  let head := u.reportBytes peer p nonce
  head ++ leBytes 96 (Config.signature p.key (BitVec.ofNat 384 (leNat (sha384 head).reverse)) u.freeIdx).toNat
    ++ (if p.attested then [] else Config.certificate p.key)

end Sys2Proof.Claims

open Sys2Proof Sys2Proof.Machine Sys2Proof.Claims

/-- R299 to R301, R318, R329. What the host asks of a partition that takes requests: a launch is armed, a level cancelled, a counter read,
arrivals posted, an image written or read, a report signed; and what the transport does with acknowledgements and silence.

The model's own choices and readings that it rests on: logs 8, 82, 113, 114, 153, 154, 158. -/
def Obligations.HostMessages : Prop :=
  (∀ (s : State) (peer : Nat) (req : HostReq) (p : Partition), takesRequest s peer req p →
    let u := s.receive peer req.endpoint
    (∀ (a : ArmArgs) (i : Nat), u.armStatus p a = 0 → u.mustWait p a = false → u.freeCounter p = some i →
      exec (.launch peer req a) s = issued ((launched u peer p a i).reply peer 1 1 req 0 (leBytes 2 i)) ∧
      exec (.arm peer req a) s = issued ((launched u peer p a i).reply peer 4 8 req 0 (leBytes 2 i))) ∧
    (∀ (index level : Nat), index ∈ p.counters → (s.counter p index).level = level →
      exec (.cancel peer req index level) s = issued ((u.cancelCounter peer 6 index).reply peer 1 2 req 0)) ∧
    (∀ (index : Nat), index ∈ p.counters →
      exec (.status peer req index) s = issued (u.reply peer 1 3 req 0 (leBytes 16 (s.counter p index).toNat))) ∧
    (∀ (count : Nat) (ops : List W64) (v : State), 1 ≤ count → count ≤ 64 → ops.length = count →
      (∀ o ∈ ops, p.arrivalOk o = true) → u.postHost peer ops = (v, []) →
      exec (.arrivals peer req count (16 + 8 * count) ops) s =
        issued ((v.modPart peer (fun p => { p with arrWait := none })).reply peer 1 0x10 req 0)) ∧
    (∀ (va : W64) (n : Nat) (sps : List Span) (v : State) (bs : List Byte), 0 < n → n ≤ 8192 → va.toNat + n ≤ 2 ^ 48 →
      u.peerSpans p .load 0 3 va.toNat n = .ok sps → u.meetsSuspension sps = false → u.readSpans sps = (v, bs, none) →
      exec (.imageRead peer req va n) s = issued (v.reply peer 3 0 req 0 bs))) ∧
  (∀ (s : State) (peer : Nat) (req : HostReq) (p : Partition), listens s peer p →
    (∀ (va : W64) (data : List Byte) (sps : List Span) (v : State), req.id = 0 → req.zeros = 0 → p.resetReq = none → p.resizing = none →
      data ≠ [] → data.length ≤ 8192 → va.toNat + data.length ≤ 2 ^ 48 → s.peerSpans p .store 0 3 va.toNat data.length = .ok sps →
      s.meetsSuspension sps = false → s.writeSpans data sps = (v, none) →
      exec (.imageWrite peer va ⟨req, data⟩) s = issued (v.receive peer req.endpoint)) ∧
    (∀ nonce, let u := s.receive peer req.endpoint
      exec (.attestationRequest peer ⟨req, nonce⟩) s = issued ((({ u with freeIdx := u.freeIdx + 1 } : State).sendMessage peer req.endpoint 6
        (reportOf u peer p nonce)).setPart peer { p with attested := true }))) ∧
  (∀ (s : State) (peer : Nat) (req : HostReq) (index : Nat), s.agate.failed = false → s.agate.verified = true → s.part? peer = none →
    exec (.status peer req index) s = issued ((s.receive peer req.endpoint).reply peer 1 3 req 3)) ∧
  (∀ (s : State) (peer endpoint seq cls : Nat) (bs : List Byte), let e := s.endpoint (endpointKey peer endpoint)
    e.unacked.find? (fun m => m.1 == seq) = some (seq, cls, bs) →
    exec (.fleolapinAck peer endpoint seq) s = issued { s with
      endpoints := SMap.set s.endpoints (endpointKey peer endpoint) { e with unacked := e.unacked.filter (fun m => m.1 != seq) } } ∧
    exec (.fleolapinRetransmit peer endpoint seq) s = issued { s with out := s.out ++ [.message peer cls endpoint bs] })

/-- R301, R314 to R317, R329. FORM gives a partition its panels and an attestation key; the commands that change a partition as a whole
are performed in the states in which R314 admits them. How a COUNTER names the timing mode of a job is the model's choice (log 152). -/
def Obligations.PartitionCommands : Prop :=
  (∀ (s : State) (req : HostReq) (f : FormArgs), s.agate.failed = false → s.agate.verified = true → s.part? 0xFFF = none →
    (∀ n ∈ panelsOf f.panels, (s.panel n).owner = none ∧ s.offers n = true) → req.zeros = 0 →
    formOk f = true → s.part? f.peer = none → s.ringOk (formPartition f) = true →
    ∃ t, exec (.form req f) s = issued t ∧ t.part? f.peer = some { formPartition f with key := Config.attestKey s.freeIdx } ∧
      ∀ n ∈ panelsOf f.panels, (t.panel n).owner = some f.peer) ∧
  (∀ (s : State) (peer : Nat) (req : HostReq) (p : Partition), takesRequest s peer req p →
    let u := s.receive peer req.endpoint
    (p.launches = [] → let v := p.owned.foldl State.releasePanel (u.failPending peer p)
      exec (.dissolve peer req) s = issued (({ v with parts := SMap.erase v.parts peer,
                                                      keptCounters := v.keptCounters.filter (fun x => x.1 / 65536 != peer) } : State).reply
        peer 4 2 req 0)) ∧
    (∀ mask, p.launches = [] → mask < 256 → mask &&& p.panels.toNat ≠ 0 →
      (∀ n ∈ panelsOf mask, p.panels.getLsbD n = true ∨
        ((s.panel n).owner = none ∧ s.offers n = true)) →
      s.ringOk { p with panels := BitVec.ofNat 8 mask } = true →
      ∃ t q, exec (.resize peer req mask) s = issued t ∧ State.part? t peer = some q ∧ q.panels = BitVec.ofNat 8 mask ∧
        q.resizing = some req) ∧
    (∃ t q, exec (.reset peer req) s = issued t ∧ State.part? t peer = some q ∧ q.resetReq = some (some req) ∧ q.preempts = [] ∧
      q.heldArms = [] ∧ q.invalidations = [] ∧ q.drainReq = none ∧ q.fabricNext = none) ∧
    (∀ (va : W64) (len : Nat), exec (.invalidate peer req va len) s = issued (((u.dropTranslations peer va.toNat len).setPart peer
      { p with invalidations := p.invalidations ++ [(req, va.toNat, len)] }))) ∧
    (∀ (va : W64) (bs : List Byte), p.launches = [] → u.readVa p va.toNat 0x7100 = some bs → planeLE bs 4 4 = planeCrc bs →
      planeOk bs = true → exec (.loadplane peer req va) s = issued ((u.switchPlane peer { p with planeStale := false } bs).reply peer 4 6 req 0)) ∧
    (∀ (level expect parent i : Nat) (det : Bool), 2 ≤ level → expect < 2 ^ 32 →
      (level = 4 ∧ parent = 0xFFFF ∨ (level < 4 ∧ parent ∈ p.counters ∧ (s.counter p parent).level = level + 1 ∧
        (s.counter p parent).state = 0)) →
      u.freeCounter p = some i →
      let v := if level = 4 ∧ p.launches = [] then u.modPart peer (fun p => { p with determinate := det }) else u
      exec (.counter peer req ⟨level, det⟩ expect parent) s =
        issued ((v.newCounter peer i level expect parent).reply peer 4 7 req 0 (leBytes 2 i))))

/-- R298, R312 to R314, R326. PREEMPT asks the running looms of a launch to park, RESUME reloads them, DRAIN holds the requests of a
partition, FABRIC takes a new table once it has drained, and LIMITS and POWER set what they name.

The model's own choices and readings that it rests on: logs 95, 97, 121, 127, 128, 151. -/
def Obligations.LaunchAndFabricCommands : Prop :=
  ∀ (s : State) (peer : Nat) (req : HostReq) (p : Partition), takesRequest s peer req p →
    let u := s.receive peer req.endpoint
    (∀ (launch limit : Nat) (l : Launch), p.launches.find? (fun x => x.counter == launch) = some l → l.parked = false →
      l.preempting = false → ∃ t q, exec (.preempt peer req launch limit) s = issued t ∧ State.part? t peer = some q ∧
        q.preempts = p.preempts ++ [(launch, req, false)] ∧
        q.launches = p.launches.map (fun x => if x.counter = launch then { x with preempting := true } else x) ∧
        ∀ k ∈ p.picks, k.launch = launch → k.started = true → ∀ n ∈ k.looms, (s.ctxAt n false).act = .running →
          (State.ctxAt t n false).req ≠ none) ∧
    (∀ (launch : Nat) (l : Launch), p.launches.find? (fun x => x.counter == launch) = some l → l.parked = true →
      ∃ t q, exec (.resume peer req launch) s = issued t ∧ State.part? t peer = some q ∧
        (∀ k ∈ q.picks, k.launch = launch → k.parked = []) ∧ (State.stage t l.panel l.stage).due = true) ∧
    (∀ phase, p.drain = none ∨ p.drained = true → phase < 2 ^ 32 → exec (.drain peer req phase) s =
      issued (((portsOf p).foldl (fun v q => v.setPort q { v.port q with drainSent := false }) u).setPart peer { p with drain := some (BitVec.ofNat 32 phase), drainReq := some req, drained := false })) ∧
    (∀ (va : W64) (t : Fabric), p.drained = true → u.fabricAt peer p va.toNat = some t →
      ∃ v q, exec (.fabric peer req va) s = issued v ∧ State.part? v peer = some q ∧ q.fabricNext = some (req, t) ∧ q.drained = false ∧
        ∀ r ∈ t.roles, (State.port v r.1).up = false) ∧
    (∀ barrier suspension stall, exec (.limits peer req barrier suspension stall) s =
      issued ((u.setPart peer { p with barrierLimit := barrier, suspLimit := suspension, stallLimit := stall }).reply peer 4 0xD req 0)) ∧
    let unparked := if p.powerMode = 2 then p.owned.foldl State.unparkPanel u else u
    (∀ budget, exec (.power peer req 0 budget) s = issued ((unparked.setPart peer
      { p with powerMode := 0, budget := 0, duty := 16 }).reply peer 4 0xE req 0)) ∧
    (∀ budget, 250 * p.owned.length ≤ budget → budget ≤ 750 * p.owned.length → exec (.power peer req 1 budget) s =
      issued ((unparked.setPart peer { p with powerMode := 1, budget := budget }).reply peer 4 0xE req 0)) ∧
    (∀ budget, p.launches = [] → exec (.power peer req 2 budget) s = issued ((u.setPart peer
      { p with powerMode := 2, budget := 0, duty := 16, drain := some (p.drain.getD 0), drained := false }).reply peer 4 0xE req 0))

namespace Sys2Proof.Claims

open Sys2Proof Sys2Proof.Machine

/-- A panel that has its rails and works. -/
def works (s : State) (n : Nat) : Prop :=
  n < 8 ∧ (s.panel n).faulted = false ∧ (s.panel n).service ≠ .reset ∧ (s.panel n).service ≠ .down

/-- A panel that has lost its rails, with one more fault counted. -/
def stopped (s t : State) (n : Nat) : Prop := (t.panel n).faulted = true ∧ (t.panel n).trips = (s.panel n).trips + 1 ∧ (t.panel n).walks = []

end Sys2Proof.Claims

open Sys2Proof Sys2Proof.Machine Sys2Proof.Claims

/-- R323 to R325, R327, R328. A module reset leaves everything as after reset, with panel 0 in training if the firmware verifies; a panel
that has trained offers early service, one that has calibrated moves its looms to full service one by one, and the duties follow what is
measured by one step; a budget that the lowest duty does not keep is recorded, no more than once in 100,000 measures, and a panel at
115 degrees trips.

The model's own choices and readings that it rests on: logs 116, 131, 132, 133. -/
def Obligations.BringUpAndDuty : Prop :=
  (∀ s : State,
    exec (.moduleReset true) s = issued (({ State.reset with freeIdx := s.freeIdx, out := s.out, agate := { verified := true } } : State).setPanel
      0 { service := .training }) ∧
    exec (.moduleReset false) s = issued { State.reset with freeIdx := s.freeIdx, out := s.out, agate := { failed := true } }) ∧
  (∀ (s : State) (n : Nat), let q := s.panel n
    n < 8 → q.service = .training → q.faulted = false →
    (∃ t, exec (.trainingEnd n true) s = issued t ∧ (t.panel n).service = .early) ∧
    (q.tries < 2 → exec (.trainingEnd n false) s = issued (s.setPanel n { q with tries := q.tries + 1 }))) ∧
  (∀ (s : State) (n : Nat), let q := s.panel n
    n < 8 → q.service = .early → q.calibrated = false → q.faulted = false →
    exec (.calibrationEnd n true) s = issued (s.setPanel n { q with calibrated := true }) ∧
    (q.tries < 2 → exec (.calibrationEnd n false) s = issued (s.setPanel n { q with tries := q.tries + 1 }))) ∧
  (∀ (s : State) (loom : Nat), let q := s.panel (loom / 40)
    loom < 320 → q.service = .early → q.calibrated = true → loom ∉ q.moved → (s.ctxAt loom true).act = .idle →
    (∀ peer p, q.owner = some peer → s.part? peer = some p → ∀ k ∈ p.picks, k.started = false ∨ loom ∉ k.looms) →
    exec (.loomServiceMove loom) s = issued (s.setPanel (loom / 40)
      (if q.moved.length = 39 then { q with service := .full, moved := [] } else { q with moved := q.moved ++ [loom] }))) ∧
  (∀ (s : State) (peer watts : Nat) (p : Partition), s.part? peer = some p → p.powerMode = 1 →
    (p.budget < watts → 1 < p.duty →
      exec (.cappedMeasure peer watts) s = issued (s.setPart peer { p with duty := p.duty - 1, capSince := p.capSince - 1 })) ∧
    (p.budget < watts → p.duty ≤ 1 → 1 < p.capSince →
      exec (.cappedMeasure peer watts) s = issued (s.setPart peer { p with capSince := p.capSince - 1 })) ∧
    (p.budget < watts → p.duty ≤ 1 → p.capSince ≤ 1 → exec (.cappedMeasure peer watts) s =
      issued ((s.setPart peer { p with capSince := 100000 }).unitRecord peer (12 * 512) { cls := 0x31, cause := 1, precise := false })) ∧
    (watts < p.budget → p.duty < 16 →
      exec (.cappedMeasure peer watts) s = issued (s.setPart peer { p with duty := p.duty + 1, capSince := p.capSince - 1 }))) ∧
  (∀ (s : State) (n hottest : Nat), n < 8 →
    (115 ≤ hottest → works s n → exec (.thermalStep n hottest) s = exec (.panelFault n 1) s) ∧
    (105 ≤ hottest → hottest < 115 ∨ (s.panel n).faulted = true →
      exec (.thermalStep n hottest) s = issued (s.setPanel n { s.panel n with thermal := max 1 ((s.panel n).thermal - 1) })) ∧
    (hottest ≤ 100 → exec (.thermalStep n hottest) s = issued (s.setPanel n { s.panel n with thermal := min 16 ((s.panel n).thermal + 1) })) ∧
    (100 < hottest → hottest < 105 → exec (.thermalStep n hottest) s = issued s))

/-- R369, R374, R409 to R411, with log 13. A panel fault, a bridge that fails and a half of a gate that should be closed and is not take their panels or
their partition down; a panel whose fault clears lets its partition be reset; the loss of the module's input cancels every job; and the
upkeep of memory poisons a line in error and records it.

The model's own choices and readings that it rests on: logs 13, 39, 40, 115, 124. -/
def Obligations.ModuleFaults : Prop :=
  (∀ (s : State) (n reason : Nat), works s n → 1 ≤ reason → reason ≤ 4 → ∃ t, exec (.panelFault n reason) s = issued t ∧ stopped s t n) ∧
  (∀ (s : State) (n m : Nat), works s n → n ≠ m → m < 8 → ((s.panel n).owner = none ∨ (s.panel n).owner ≠ (s.panel m).owner) →
    exec (.gateTest n m false) s = issued s ∧ ∃ t, exec (.gateTest n m true) s = issued t ∧ stopped s t n) ∧
  (∀ (s : State) (n : Nat), (s.panel n).faulted = true → (s.panel n).service ≠ .down →
    (∀ (peer : Nat) (p : Partition), (s.panel n).owner = some peer → s.part? peer = some p → p.resetReq = none →
      ∃ t q, exec (.panelFaultClear n) s = issued t ∧ State.part? t peer = some q ∧ q.resetReq = some none) ∧
    ((s.panel n).owner = none → ∃ t, exec (.panelFaultClear n) s = issued t ∧ (t.panel n).faulted = false ∧
      (t.panel n).service = .training)) ∧
  (∀ (s : State) (n m reason peer : Nat) (p : Partition), n < 8 → m < 8 → n ≠ m → reason ≤ 1 → (s.panel n).owner = some peer →
    (s.panel m).owner = some peer → s.part? peer = some p →
    ∃ t q, exec (.bridge n m reason) s = issued t ∧ State.part? t peer = some q ∧ (n, m) ∈ q.badBridges ∧ q.resetReq ≠ none) ∧
  (∀ s : State, s.agate.failed = false → let f : FaultInfo :=
        { cls := (Config.inputCause.extractLsb' 8 8).toNat, cause := (Config.inputCause.extractLsb' 0 8).toNat, precise := false }
    let u : State := s.moduleRecord (12 * 512) f
    exec .moduleInputFault s = issued (s.parts.foldl (fun v x => v.cancelJob x.1) u)) ∧
  (∀ (s : State) (pa : Nat), offChip pa = true →
    ((s.line pa).damage = .none → exec (.patrolScrub pa) s = issued s) ∧
    (∀ d peer, d ≠ Damage.none → (s.line pa).damage = d → (s.line pa).poison = false →
      s.ownerOf (panelOfChannel (channelOf pa)) = some peer →
      exec (.patrolScrub pa) s = issued ((s.meetError pa).unitRecord peer (unitOfChannel (channelOf pa))
        { cls := 0x10, cause := 8, d0 := pa / 128 * 128, d1 := channelOf pa, precise := false }))) ∧
  (∀ (s : State) (channel count peer : Nat), channel < 528 → 1 ≤ count → s.ownerOf (panelOfChannel channel) = some peer →
    let old := if Config.newSecond s.freeIdx then 0 else SMap.getD s.corrections channel 0
    let u : State := { s with freeIdx := s.freeIdx + 1, corrections := SMap.set s.corrections channel (old + count) }
    (old < 1024 → 1024 ≤ old + count → exec (.corrected channel count) s = issued (u.unitRecord peer (unitOfChannel channel)
      { cls := 0x10, cause := 7, d0 := 1024, d1 := channel, precise := false })) ∧
    (1024 ≤ old ∨ old + count < 1024 → exec (.corrected channel count) s = issued u))

namespace Sys2Proof.Claims

open Sys2Proof Sys2Proof.Machine

/-- The words of the line at which an engine stands, and the state in which it has them: its loom's instruction cache holds them, or they
come from memory through a page with X (R54, R112). -/
def lineThere (s : State) (e : Sel) (u : State) (ws : List W32) : Prop :=
  let c := s.ctxAt e.loom e.ev
  let pc := (c.eng e.eng).pc.toNat
  (SMap.find? (s.loom e.loom).icache pc = some ws ∧ u = { s with cur := e }) ∨
  (SMap.find? (s.loom e.loom).icache pc = none ∧ pc < 2 ^ 48 ∧ ∃ (t : TlbEntry) (v : State) (bs : List Byte),
    s.translate e.who c.peer pc = .ok t ∧ MemOp.fetch.inPage t.attrs = true ∧
    ({ s with cur := e } : State).readSpan { pa := t.pa + (pc - t.va), va := pc, len := 32, off := 0, attrs := t.attrs } = (v, bs, none) ∧
    ws = lineWords bs ∧ u = ({ v with freeIdx := v.freeIdx + 1 } : State).setLoom e.loom
      { v.loom e.loom with icache := icacheInsert (v.loom e.loom).icache v.freeIdx pc ws })

/-- An engine that may start the scoreboard line l: its context has priority in its loom or the other context does not run, nothing
holds it, and its line count has not run out. -/
def mayStart (s u : State) (e : Sel) (l : Line) : Prop :=
  (s.priority e = true ∨ (s.ctxAt e.loom (!e.ev)).act ≠ .running) ∧
  let c := s.ctxAt e.loom e.ev
  let d := u.ctxAt e.loom e.ev
  let g := c.eng e.eng
  c.act = .running ∧ g.ended = false ∧ g.inLine = false ∧ g.stoppedSafept = false ∧ c.startHeld e.eng = none ∧ l.exposed = false ∧
    d.eng e.eng = g ∧ d.tframe = c.tframe ∧ d.act = .running ∧ (g.ran = false ∨ g.mode = false) ∧ d.dataHeld e.eng = false ∧
    ((e.ev = true ∧ c.tframe = 0) ∨ g.lineCount < 2047 ∨ l.exempt (c.tframe != 0) = true)

/-- The state in which an engine has started a line and stands at the instruction o of it, with its due results landed. -/
def atOp (u : State) (e : Sel) (l : Line) (o : LaneOp) : State :=
  let c := (u.ctxAt e.loom e.ev).land e.eng
  u.setCtxAt e.loom e.ev (c.setEng e.eng
    { c.eng e.eng with mode := l.exposed, inLine := true, waiting := none, lane := o.lane, word := o.word,
                       began := (c.inFlight.length, c.nextId) })

/-- The engine at the lane after an instruction that has issued. -/
def pastOp (t : State) (e : Sel) (o : LaneOp) : State :=
  let c := t.ctxAt e.loom e.ev
  t.setCtxAt e.loom e.ev (c.setEng e.eng { c.eng e.eng with lane := o.lane + 1, waiting := none })

/-- The end of a step: the agenda's rest stays, and what is left to do is done. -/
def stepped (t : State) (rest : List Move) : Host.Outcome State Fault Refusal := .next { t.settle with agenda := rest }

/-- The next move of the machine is a try of an engine. -/
def movesEngine (s : State) (e : Sel) (rest : List Move) : Prop :=
  s.agenda = .issue e :: rest ∨ (s.agenda = [] ∧ rest = [] ∧ e = s.cur)

/-- The bits of an A-space word of a major, a first register field and the bits below it (R117, R118). -/
def wordA (t : Tok) (major : Nat) (rd : BitVec 6) (low : Nat) : W32 :=
  BitVec.ofNat 32 (t.wt.toNat * 2 ^ 31 + t.ps.toNat * 2 ^ 30 + major * 2 ^ 24 + rd.toNat * 2 ^ 18 + low)

/-- The majors that a joint word may have (R49). -/
def jointMajors : List Nat := [0x00, 0x01, 0x02, 0x03, 0x06]

/-- The word accesses with their operands, the address that must be aligned, and the cause for one that is not (R155, R156, R164, R177). -/
def wordForm (c : Ctx) : Instr → Option (Tok × List (BitVec 6) × W64 × Nat)
  | .lda t _ b _ off => some (t, [b], address c b off 8, 1)
  | .sta t r b _ off => some (t, [b, r], address c b off 8, 1)
  | .relSt t r b _ _ => if (c.aVal b).toNat / 2 ^ 60 = 15 then none else some (t, [b, r], c.aVal b, 1)
  | .amoAdd t _ b _ o | .amoAnd t _ b _ o | .amoOr t _ b _ o | .amoXor t _ b _ o | .amoMin t _ b _ o | .amoMax t _ b _ o
  | .amoMinu t _ b _ o | .amoMaxu t _ b _ o | .amoSwap t _ b _ o | .faaC t _ b _ o
  | .amoAddN t b _ o | .amoAndN t b _ o | .amoOrN t b _ o | .amoXorN t b _ o | .amoMinN t b _ o | .amoMaxN t b _ o
  | .amoMinuN t b _ o | .amoMaxuN t b _ o | .amoSwapN t b _ o => some (t, [b, o], c.aVal b, 2)
  | .cas t _ b _ x y => some (t, [b, x, y], c.aVal b, 2)
  | _ => none

end Sys2Proof.Claims

open Sys2Proof Sys2Proof.Machine Sys2Proof.Claims

/-- R30, R122, R124, R127, R304, R323, R324. The state after reset: no firmware verified, no partition, every panel in reset and unowned,
no line of memory listed, and every context idle with its registers at the values that their field maps give. The zero of a register that
no rule gives a reset value, and of memory, is the model's choice (logs 5 and 6). -/
def Obligations.ResetState : Prop :=
  let s := State.reset
  s.mem = [] ∧ s.mem.wf = true ∧ s.agate.verified = false ∧ s.agate.failed = false ∧ s.parts = [] ∧ s.requests = [] ∧
    (∀ n, (s.panel n).service = .reset ∧ (s.panel n).owner = none) ∧ (∀ q, (s.port q).up = false) ∧
    ∀ (loom : Nat) (ev : Bool), let c := s.ctxAt loom ev
      c.act = .idle ∧ c.vshape = 0x200 ∧ c.flags = 0 ∧ c.ftx = 3 ∧ c.ftbase = 3 ∧ c.slipw = 64 ∧ c.g = 0 ∧ c.tvec = 0 ∧ c.tframe = 0 ∧
        c.tcause = 0 ∧ (∀ r, c.aVal r = 0) ∧ (∀ r, c.sVal r = 0) ∧ c.outs = [] ∧ c.bq = [] ∧ c.tokAX = 0 ∧ c.tokXA = 0

/-- R98 with log 5. Every step keeps the memory in its canonical form: addresses strictly rising, and no byte listed that an unlisted
byte would read as. -/
def Obligations.MemoryCanonicalKept : Prop :=
  ∀ s t : State, s.mem.wf = true → step s = .next t → t.mem.wf = true

/-- R2, R115, R343. Every instruction and event answers a next state in every state, and every step does so too unless the agenda names a
loom that the device does not have: nothing that a program or the outside does ends a run.

The model's own choices and readings that it rests on: log 1. -/
def Obligations.StepsAnswer : Prop :=
  (∀ (i : Instr) (s : State), ∃ t, exec i s = .next t) ∧
  (∀ s : State, (∀ n, step s ≠ .fault (.noSuchLoom n)) → ∃ t, step s = .next t)

/-- R115 to R120, R125, R129 to R135. Every well-formed instruction's words decode to it, whatever its operands; and an instruction that is
decoded is well-formed and has exactly the words that it was decoded from.

The model's own choices and readings that it rests on: log 21. -/
def Obligations.DecodeOfEncode : Prop :=
  (∀ (i : Instr) (e : Words), i.WellFormed = true → encode i = some e → decodeInstr e.space e.word e.exts = .ok i) ∧
  (∀ (sp : Space) (w : W32) (ws : List W32) (i : Instr), decodeInstr sp w ws = .ok i →
    i.WellFormed = true ∧ ∃ e, encode i = some e ∧ e.space = sp ∧ e.word = w ∧ e.exts = ws.take e.exts.length)

/-- R40, R144, R146, R213, R230, R234, R235. The words that the spec itself writes out decode to the instructions that they stand for. -/
def Obligations.DecodeWords : Prop :=
  decodeInstr .A 0x01100040 [] = .ok (.addi ⟨false, false⟩ 4 0 64) ∧
  decodeInstr .A 0x0A140000 [0x00000080, 0x00000010] = .ok (.liw ⟨false, false⟩ 5 0x0000001000000080) ∧
  decodeInstr .X 0x03080007 [] = .ok (.sli ⟨false, false⟩ 2 7) ∧
  decodeInstr .X 0x1C040FFE [] = .ok (.brk ⟨false, false⟩ 1 0 (-2)) ∧
  decodeInstr .X 0x20001080 [] = .ok (.vseed ⟨false, false⟩ 1 2) ∧
  decodeInstr .X 0x21140001 [] = .ok (.sflags ⟨false, false⟩ 5 1) ∧
  decodeLine [0x00000004, 0x00080064, 0, 0, 0, 0, 0, 0] = .ok ⟨false, [⟨1, .J, 0x00080064, .loop 2 100⟩]⟩ ∧
  decodeInstr .A 0xC1100040 [] = .ok (.addi ⟨true, true⟩ 4 0 64)

/-- R31, R36, R42, R112, R116. A step of an engine that stands at the start of a scoreboard line runs the line's first instruction for it: it is
exec of the decoded instruction, after which the engine stands at the next lane or at the end of the line; an instruction that waits
holds the engine, and one that faults raises its fault at its lane. A step of an event is exec of it.

The model's own choices and readings that it rests on: logs 1, 2, 24, 55, 142. -/
def Obligations.StepRunsDecoded : Prop :=
  (∀ (s u t : State) (e : Sel) (rest : List Move) (ws : List W32) (l : Line) (o : LaneOp) (r : List LaneOp),
    movesEngine s e rest → e.loom < 320 → lineThere s e u ws → decodeLine ws = .ok l → l.opsFor e.eng = o :: r →
    (∀ x ∈ o :: r, ((s.ctxAt e.loom e.ev).eng e.eng).lane ≤ x.lane) → mayStart s u e l →
    exec o.instr { atOp u e l o with disp := .idle } = .next t →
    (∀ w, t.disp = .waits w → step s = stepped (s.spendShare ((atOp u e l o).hold e w) e) rest) ∧
    (∀ f, t.disp = .faults f → step s = stepped (s.spendShare ((atOp u e l o).laneFault e o f) e) rest) ∧
    (t.disp = .issued → (t.ctxAt e.loom e.ev).act = .running → ((t.ctxAt e.loom e.ev).eng e.eng).inLine = true →
      ((t.ctxAt e.loom e.ev).eng e.eng).ended = false →
      step s = stepped (s.spendShare (if r = [] then (pastOp t e o).afterLanes e l else { pastOp t e o with disp := .issued }) e) rest)) ∧
  (∀ (s t : State) (i : Instr) (rest : List Move), s.agenda = .event i :: rest → encode i = none → exec i s = .next t →
    step s = stepped t rest)

/-- R49. No joint instruction's word has bit 31 or 30 set, and a joint word with one of them set, or with a major other than the five,
decodes to no instruction. -/
def Obligations.JointWords : Prop :=
  (∀ (i : Instr) (e : Words), encode i = some e → e.space = .J → e.word.getLsbD 31 = false ∧ e.word.getLsbD 30 = false) ∧
  (∀ (w : W32) (ws : List W32), (w.getLsbD 31 = true ∨ w.getLsbD 30 = true ∨ (w.extractLsb' 24 6).toNat ∉ jointMajors) →
    ∃ f, decodeInstr .J w ws = .error f)

/-- R146. LIW has major 0x0A in format RL, its low 18 bits zero, and two extension words; it writes the second over the first to rd, and
the example of the rule.

R148, R149. SEL and AGEN: their words, and what they write. -/
def Obligations.ImmediatesAndSelection : Prop :=
  ((∀ (t : Tok) (rd : BitVec 6) (ext1 ext2 : W32), decodeInstr .A (wordA t 0x0A rd 0) [ext1, ext2] = .ok (.liw t rd (ext2 ++ ext1))) ∧
   (∀ (t : Tok) (rd : BitVec 6) (imm : BitVec 18) (ext1 ext2 : W32), imm ≠ 0 →
     decodeInstr .A (wordA t 0x0A rd imm.toNat) [ext1, ext2] = .error ⟨.reserved, (wordA t 0x0A rd imm.toNat).toNat⟩) ∧
   (∀ (t : Tok) (rd : BitVec 6) (ext1 : W32), decodeInstr .A (wordA t 0x0A rd 0) [ext1] = .error ⟨.missing, 2⟩) ∧
   encode (.liw ⟨false, false⟩ 5 0x0000001000000080) = some ⟨.A, 0x0A140000, [0x00000080, 0x00000010]⟩ ∧
   (∀ (s : State) (c : Ctx) (t : Tok) (rd : BitVec 6) (ext1 ext2 : W32), s.ctx.tokens .A t = .ok c → c.inFlight.length < 32 →
     exec (.liw t rd (ext2 ++ ext1)) s =
       issued (s.setCtx { c with inFlight := c.inFlight ++ [resultA c rd (ext2.toNat * 2 ^ 32 + ext1.toNat) 1 t] }))) ∧
  ((∀ (t : Tok) (rd x y ac : BitVec 6),
     decodeInstr .A (wordA t 0x0D rd (x.toNat * 4096 + y.toNat * 64 + ac.toNat)) [] = .ok (.sel t rd x y ac)) ∧
   (∀ (s : State) (c : Ctx) (t : Tok) (rd x y ac : BitVec 6), s.ctx.tokens .A t = .ok c → readyA c x → readyA c y → readyA c ac →
     c.inFlight.length < 32 →
     exec (.sel t rd x y ac) s = issued (s.setCtx { c with inFlight := c.inFlight ++
       [resultA c rd (if av c ac ≠ 0 then av c x else av c y) 1 t] })) ∧
   (∀ (t : Tok) (rd x y k : BitVec 6),
     decodeInstr .A (wordA t 0x0E rd (x.toNat * 4096 + y.toNat * 64 + k.toNat)) [] = .ok (.agen t rd x y k)) ∧
   (∀ (s : State) (c : Ctx) (t : Tok) (rd x y k : BitVec 6), s.ctx.tokens .A t = .ok c → readyA c x → readyA c y →
     c.inFlight.length < 32 →
     exec (.agen t rd x y k) s = issued (s.setCtx { c with inFlight := c.inFlight ++
       [resultA c rd (av c x / 2 ^ 48 * 2 ^ 48 + (av c x % 2 ^ 48 + av c y * 2 ^ k.toNat) % 2 ^ 48) 1 t] })))

/-- R229. BRQ: its words; it waits while bq is empty, pops an outcome entry and is taken if its bit is 1, and raises the queue-misuse fault
on an entry of another kind. -/
def Obligations.OutcomeBranch : Prop :=
  (∀ (t : Tok) (off : BitVec 24),
    decodeInstr .X (BitVec.ofNat 32 (t.wt.toNat * 2 ^ 31 + t.ps.toNat * 2 ^ 30 + 0x1B * 2 ^ 24 + off.toNat)) [] = .ok (.brq t off)) ∧
  (∀ (s : State) (c : Ctx) (t : Tok) (off : BitVec 24), s.ctx.tokens .X t = .ok c →
    (c.bq = [] → exec (.brq t off) s = .next { s with disp := .waits .bq }) ∧
    (∀ b r, c.bq = .outcome b :: r → exec (.brq t off) s = issued (s.setCtx
      ((if b then Ctx.goTo { c with bq := r } .X (lineFrom c.ex off.toInt) else { c with bq := r }).postNow .X t))) ∧
    (∀ x r, c.bq = x :: r → (∀ b, x ≠ .outcome b) →
      ∃ d, exec (.brq t off) s = .next { s with disp := .faults { cls := 5, cause := 3, d1 := d } }))

/-- R155, R156, R164, R341. A load, a store or a release store of a word whose address is not a multiple of 8 raises the alignment fault,
and an atomic the fault of a straddling word, with the address; nothing of the machine changes.

The model's own choices and readings that it rests on: log 57. -/
def Obligations.MisalignedWords : Prop :=
  ∀ (s : State) (c : Ctx) (i : Instr) (t : Tok) (srcs : List (BitVec 6)) (a : W64) (cause : Nat),
    wordForm c i = some (t, srcs, a, cause) → s.ctx.tokens .A t = .ok c → (∀ r ∈ srcs, readyA c r) → a.toNat % 8 ≠ 0 →
    exec i s = .next { s with disp := .faults { cls := 4, cause := cause, addr := a.toNat } }
end

