-- ==== Sys2Proof/Laws/Store.lean ====
section
/-!
SUPPORT. What reading and writing the sparse tables and the memory do: a read after a write, the frame of a write, and the canonical form,
which every operation keeps.
-/

namespace Sys2Proof.Laws

open Sys2Proof.Machine

/-! ## Sparse tables -/

/-- A listed key reads as what it was set to. -/
@[simp] theorem find_set_self {α : Type} (m : SMap α) (k : Nat) (v : α) : SMap.find? (SMap.set m k v) k = some v := by
  induction m with
  | nil => simp [SMap.set, SMap.find?]
  | cons x r ih =>
    obtain ⟨j, w⟩ := x
    simp only [SMap.set]
    split
    · simp [SMap.find?]
    · split
      · simp [SMap.find?]
      · simp [SMap.find?, *]

/-- Setting a key changes no other key. -/
theorem find_set_ne {α : Type} (m : SMap α) {j k : Nat} (v : α) (h : j ≠ k) : SMap.find? (SMap.set m k v) j = SMap.find? m j := by
  induction m with
  | nil => simp [SMap.set, SMap.find?, h]
  | cons x r ih =>
    obtain ⟨i, w⟩ := x
    simp only [SMap.set]
    split
    · next h' => subst h'; simp [SMap.find?, h]
    · split
      · next h1 h2 =>
        by_cases h3 : j < k
        · have h4 : j < i := by omega
          have h5 : j ≠ i := by omega
          simp [SMap.find?, h, h3, h4, h5]
        · simp [SMap.find?, h, h3]
      · simp [SMap.find?, ih]

/-- The same for reading with a default. -/
@[simp] theorem getD_set_self {α : Type} (m : SMap α) (k : Nat) (v d : α) : SMap.getD (SMap.set m k v) k d = v := by
  simp [SMap.getD]

/-- The same for another key. -/
theorem getD_set_ne {α : Type} (m : SMap α) {j k : Nat} (v d : α) (h : j ≠ k) : SMap.getD (SMap.set m k v) j d = SMap.getD m j d := by
  simp [SMap.getD, find_set_ne m v h]

/-- The later of two writes of a key stands alone. -/
@[simp] theorem set_set {α : Type} (m : SMap α) (k : Nat) (v w : α) : SMap.set (SMap.set m k v) k w = SMap.set m k w := by
  induction m with
  | nil => simp [SMap.set]
  | cons x r ih =>
    obtain ⟨j, u⟩ := x
    simp only [SMap.set]
    split
    · simp [SMap.set]
    · split
      · simp [SMap.set]
      · simp [SMap.set, *]

/-- A lower bound of the keys may be lowered. -/
theorem rising_mono {α : Type} {a b : Nat} {m : SMap α} (h : a ≤ b) (hm : SMap.risingFrom b m = true) : SMap.risingFrom a m = true := by
  cases m with
  | nil => rfl
  | cons x r =>
    obtain ⟨k, v⟩ := x
    simp only [SMap.risingFrom, Bool.and_eq_true, Nat.ble_eq] at hm ⊢
    exact ⟨by omega, hm.2⟩

/-- A key below every listed key is not listed. -/
theorem find_below {α : Type} {m : SMap α} {b k : Nat} (hm : SMap.risingFrom b m = true) (h : k < b) : SMap.find? m k = none := by
  cases m with
  | nil => rfl
  | cons x r =>
    obtain ⟨j, v⟩ := x
    simp only [SMap.risingFrom, Bool.and_eq_true, Nat.ble_eq] at hm
    have h1 : k ≠ j := by omega
    have h2 : k < j := by omega
    simp [SMap.find?, h1, h2]

/-- Setting keeps the keys rising. -/
theorem rising_set {α : Type} {m : SMap α} {b : Nat} (k : Nat) (v : α) (hb : b ≤ k) (hm : SMap.risingFrom b m = true) :
    SMap.risingFrom b (SMap.set m k v) = true := by
  induction m generalizing b with
  | nil => simp [SMap.set, SMap.risingFrom, hb]
  | cons x r ih =>
    obtain ⟨j, w⟩ := x
    simp only [SMap.risingFrom, Bool.and_eq_true, Nat.ble_eq] at hm
    simp only [SMap.set]
    split
    · next h => subst h; simp [SMap.risingFrom, hm.1, hm.2]
    · split
      · next h1 h2 => simp [SMap.risingFrom, hb, hm.2]; omega
      · next h1 h2 => simp [SMap.risingFrom, hm.1]; exact ih (by omega) hm.2

/-- Erasing keeps the keys rising. -/
theorem rising_erase {α : Type} {m : SMap α} {b : Nat} (k : Nat) (hm : SMap.risingFrom b m = true) :
    SMap.risingFrom b (SMap.erase m k) = true := by
  induction m generalizing b with
  | nil => rfl
  | cons x r ih =>
    obtain ⟨j, w⟩ := x
    simp only [SMap.risingFrom, Bool.and_eq_true, Nat.ble_eq] at hm
    simp only [SMap.erase]
    split
    · exact rising_mono (by omega) hm.2
    · split
      · simp [SMap.risingFrom, hm.1, hm.2]
      · simp [SMap.risingFrom, hm.1]; exact ih hm.2

/-- Keeping some of the entries keeps the keys rising. -/
theorem rising_filter {α : Type} {m : SMap α} {b : Nat} (p : Nat × α → Bool) (hm : SMap.risingFrom b m = true) :
    SMap.risingFrom b (m.filter p) = true := by
  induction m generalizing b with
  | nil => rfl
  | cons x r ih =>
    obtain ⟨j, w⟩ := x
    simp only [SMap.risingFrom, Bool.and_eq_true, Nat.ble_eq] at hm
    simp only [List.filter_cons]
    split
    · simp [SMap.risingFrom, hm.1]; exact ih hm.2
    · exact rising_mono (by omega) (ih hm.2)

/-- An erased key of a table whose keys rise is not listed. -/
theorem find_erase_self {α : Type} {m : SMap α} {b : Nat} (k : Nat) (hm : SMap.risingFrom b m = true) :
    SMap.find? (SMap.erase m k) k = none := by
  induction m generalizing b with
  | nil => rfl
  | cons x r ih =>
    obtain ⟨j, w⟩ := x
    simp only [SMap.risingFrom, Bool.and_eq_true, Nat.ble_eq] at hm
    simp only [SMap.erase]
    split
    · next h => subst h; exact find_below hm.2 (by omega)
    · split
      · next h1 h2 => simp [SMap.find?, h1, h2]
      · next h1 h2 => simp [SMap.find?, h1, h2]; exact ih hm.2

/-- Erasing changes no other key. -/
theorem find_erase_ne {α : Type} {m : SMap α} {b j k : Nat} (hm : SMap.risingFrom b m = true) (h : j ≠ k) :
    SMap.find? (SMap.erase m k) j = SMap.find? m j := by
  induction m generalizing b with
  | nil => rfl
  | cons x r ih =>
    obtain ⟨i, w⟩ := x
    simp only [SMap.risingFrom, Bool.and_eq_true, Nat.ble_eq] at hm
    simp only [SMap.erase]
    split
    · next h' =>
      subst h'
      by_cases h3 : j < k
      · simp [SMap.find?, h, h3, find_below hm.2 (Nat.lt_succ_of_lt h3)]
      · simp [SMap.find?, h, h3]
    · split
      · rfl
      · simp [SMap.find?, ih hm.2]

/-! ## Memory -/

/-- What a memory's canonical form says: the keys rise, and no byte is listed that an unlisted byte would read as. -/
theorem wf_iff {m : Memory} : m.wf = true ↔ SMap.risingFrom 0 m = true ∧ ∀ c ∈ m, c.2 ≠ Memory.unlisted := by
  simp [Memory.wf]

/-- An entry of a table after a write is the one written or one of before. -/
theorem mem_set {α : Type} {m : SMap α} {k : Nat} {v : α} {c : Nat × α} (h : c ∈ SMap.set m k v) : c = (k, v) ∨ c ∈ m := by
  induction m with
  | nil => simpa [SMap.set] using h
  | cons x r ih =>
    obtain ⟨j, w⟩ := x
    simp only [SMap.set] at h
    split at h
    · rcases List.mem_cons.1 h with h | h
      · exact .inl h
      · exact .inr (List.mem_cons_of_mem _ h)
    · split at h
      · rcases List.mem_cons.1 h with h | h
        · exact .inl h
        · exact .inr h
      · rcases List.mem_cons.1 h with h | h
        · exact .inr (h ▸ List.mem_cons_self)
        · exact (ih h).imp_right (List.mem_cons_of_mem _)

/-- An entry of a table after an erasure was there before. -/
theorem mem_erase {α : Type} {m : SMap α} {k : Nat} {c : Nat × α} (h : c ∈ SMap.erase m k) : c ∈ m := by
  induction m with
  | nil => exact h
  | cons x r ih =>
    obtain ⟨j, w⟩ := x
    simp only [SMap.erase] at h
    split at h
    · exact List.mem_cons_of_mem _ h
    · split at h
      · exact h
      · rcases List.mem_cons.1 h with h | h
        · exact h ▸ List.mem_cons_self
        · exact List.mem_cons_of_mem _ (ih h)

/-- A write keeps the canonical form. -/
theorem write_wf {m : Memory} (a : Nat) (v : Byte) (h : m.wf = true) : (m.write a v).wf = true := by
  rw [wf_iff] at h ⊢
  unfold Memory.write
  split
  · exact ⟨rising_erase a h.1, fun c hc => h.2 c (mem_erase hc)⟩
  · next hv =>
    refine ⟨rising_set a v (Nat.zero_le a) h.1, fun c hc => ?_⟩
    rcases mem_set hc with rfl | hc
    · exact hv
    · exact h.2 c hc

/-- Writing bytes keeps the canonical form. -/
theorem writeN_wf {m : Memory} (a : Nat) (bs : List Byte) (h : m.wf = true) : (m.writeN a bs).wf = true := by
  induction bs generalizing m a with
  | nil => exact h
  | cons b r ih => exact ih (a + 1) (write_wf a b h)

/-- Writing a number keeps the canonical form. -/
theorem writeLE_wf {m : Memory} (a n x : Nat) (h : m.wf = true) : (m.writeLE a n x).wf = true := writeN_wf a _ h

/-- Wiping bytes keeps the canonical form. -/
theorem filter_wf {m : Memory} (p : Host.Cell → Bool) (h : m.wf = true) : Memory.wf (m.filter p) = true := by
  rw [wf_iff] at h ⊢
  exact ⟨rising_filter p h.1, fun c hc => h.2 c (List.mem_filter.1 hc).1⟩

/-- A written byte reads as what was written. -/
theorem read_write_self {m : Memory} (a : Nat) (v : Byte) (h : m.wf = true) : (m.write a v).read a = v := by
  rw [wf_iff] at h
  unfold Memory.read Memory.write
  split
  · next hv => simp [SMap.getD, find_erase_self a h.1, hv]
  · simp

/-- A write changes no other byte. -/
theorem read_write_ne {m : Memory} {a b : Nat} (v : Byte) (h : m.wf = true) (hb : b ≠ a) : (m.write a v).read b = m.read b := by
  rw [wf_iff] at h
  unfold Memory.read Memory.write
  split
  · simp [SMap.getD, find_erase_ne h.1 hb]
  · simp [getD_set_ne m v _ hb]

/-- What every byte reads as after bytes have been written from an address. -/
theorem read_writeN {m : Memory} (a : Nat) (bs : List Byte) (h : m.wf = true) (x : Nat) :
    (m.writeN a bs).read x = if a ≤ x ∧ x < a + bs.length then bs.getD (x - a) 0 else m.read x := by
  induction bs generalizing m a with
  | nil =>
    have : ¬ (a ≤ x ∧ x < a) := by omega
    simp [Memory.writeN, this]
  | cons b r ih =>
    simp only [Memory.writeN, List.length_cons]
    rw [ih (a + 1) (write_wf a b h)]
    by_cases h1 : x = a
    · subst h1
      have h2 : ¬ (x + 1 ≤ x ∧ x < x + 1 + r.length) := by omega
      have h3 : x ≤ x ∧ x < x + (r.length + 1) := by omega
      rw [if_neg h2, if_pos h3, read_write_self x b h]
      simp
    · rw [read_write_ne b h h1]
      by_cases h2 : a + 1 ≤ x ∧ x < a + 1 + r.length
      · have h3 : a ≤ x ∧ x < a + (r.length + 1) := by omega
        have h4 : x - a = x - (a + 1) + 1 := by omega
        rw [if_pos h2, if_pos h3, h4, List.getD_cons_succ]
      · have h3 : ¬ (a ≤ x ∧ x < a + (r.length + 1)) := by omega
        rw [if_neg h2, if_neg h3]

/-- Reading bytes reads each of them. -/
theorem readN_length (m : Memory) (a n : Nat) : (m.readN a n).length = n := by
  induction n generalizing a with
  | zero => rfl
  | succ n ih => simp [Memory.readN, ih]

/-- The bytes of a number are as many as are asked for. -/
theorem leBytes_length (n x : Nat) : (leBytes n x).length = n := by
  induction n generalizing x with
  | zero => rfl
  | succ n ih => simp [leBytes, ih]

/-- The number that a number's bytes hold. -/
theorem leNat_leBytes (n x : Nat) : leNat (leBytes n x) = x % 256 ^ n := by
  induction n generalizing x with
  | zero => simp [leBytes, leNat, Nat.mod_one]
  | succ n ih =>
    simp only [leBytes, leNat, ih, BitVec.toNat_ofNat]
    have h : x % 2 ^ 8 + 256 * (x / 256 % 256 ^ n) = x % (256 * 256 ^ n) := (Nat.mod_mul).symm
    exact h.trans (by rw [Nat.pow_succ, Nat.mul_comm])

/-- A number of bytes is below the power of its length. -/
theorem leNat_lt (bs : List Byte) : leNat bs < 256 ^ bs.length := by
  induction bs with
  | nil => simp [leNat]
  | cons b r ih =>
    have := b.isLt
    simp only [leNat, List.length_cons, Nat.pow_succ]
    omega

end Sys2Proof.Laws
end

