-- ==== Sys2Proof/Laws/State.lean ====
section
/-!
SUPPORT. What each update of the state does to each field and to each table's reading, so that no later proof unfolds a record update.
-/

namespace Sys2Proof.Laws

open Sys2Proof.Machine

/-! ## The fields that an update leaves as they are -/



@[simp] theorem setLoom_mem (s : State) (n : Nat) (l : Loom) : (s.setLoom n l).mem = s.mem := rfl
@[simp] theorem setLoom_lineMeta (s : State) (n : Nat) (l : Loom) : (s.setLoom n l).lineMeta = s.lineMeta := rfl
@[simp] theorem setLoom_retiredPages (s : State) (n : Nat) (l : Loom) : (s.setLoom n l).retiredPages = s.retiredPages := rfl
@[simp] theorem setLoom_fencedChannels (s : State) (n : Nat) (l : Loom) : (s.setLoom n l).fencedChannels = s.fencedChannels := rfl
@[simp] theorem setLoom_fenceRecords (s : State) (n : Nat) (l : Loom) : (s.setLoom n l).fenceRecords = s.fenceRecords := rfl
@[simp] theorem setLoom_corrections (s : State) (n : Nat) (l : Loom) : (s.setLoom n l).corrections = s.corrections := rfl
@[simp] theorem setLoom_bolts (s : State) (n : Nat) (l : Loom) : (s.setLoom n l).bolts = s.bolts := rfl
@[simp] theorem setLoom_panels (s : State) (n : Nat) (l : Loom) : (s.setLoom n l).panels = s.panels := rfl
@[simp] theorem setLoom_bobbins (s : State) (n : Nat) (l : Loom) : (s.setLoom n l).bobbins = s.bobbins := rfl
@[simp] theorem setLoom_tally (s : State) (n : Nat) (l : Loom) : (s.setLoom n l).tally = s.tally := rfl
@[simp] theorem setLoom_waiters (s : State) (n : Nat) (l : Loom) : (s.setLoom n l).waiters = s.waiters := rfl
@[simp] theorem setLoom_evals (s : State) (n : Nat) (l : Loom) : (s.setLoom n l).evals = s.evals := rfl
@[simp] theorem setLoom_tiles (s : State) (n : Nat) (l : Loom) : (s.setLoom n l).tiles = s.tiles := rfl
@[simp] theorem setLoom_stages (s : State) (n : Nat) (l : Loom) : (s.setLoom n l).stages = s.stages := rfl
@[simp] theorem setLoom_stash (s : State) (n : Nat) (l : Loom) : (s.setLoom n l).stash = s.stash := rfl
@[simp] theorem setLoom_stashOps (s : State) (n : Nat) (l : Loom) : (s.setLoom n l).stashOps = s.stashOps := rfl
@[simp] theorem setLoom_nextStash (s : State) (n : Nat) (l : Loom) : (s.setLoom n l).nextStash = s.nextStash := rfl
@[simp] theorem setLoom_parts (s : State) (n : Nat) (l : Loom) : (s.setLoom n l).parts = s.parts := rfl
@[simp] theorem setLoom_keptCounters (s : State) (n : Nat) (l : Loom) : (s.setLoom n l).keptCounters = s.keptCounters := rfl
@[simp] theorem setLoom_ports (s : State) (n : Nat) (l : Loom) : (s.setLoom n l).ports = s.ports := rfl
@[simp] theorem setLoom_requests (s : State) (n : Nat) (l : Loom) : (s.setLoom n l).requests = s.requests := rfl
@[simp] theorem setLoom_incoming (s : State) (n : Nat) (l : Loom) : (s.setLoom n l).incoming = s.incoming := rfl
@[simp] theorem setLoom_nextTag (s : State) (n : Nat) (l : Loom) : (s.setLoom n l).nextTag = s.nextTag := rfl
@[simp] theorem setLoom_sseqs (s : State) (n : Nat) (l : Loom) : (s.setLoom n l).sseqs = s.sseqs := rfl
@[simp] theorem setLoom_endpoints (s : State) (n : Nat) (l : Loom) : (s.setLoom n l).endpoints = s.endpoints := rfl
@[simp] theorem setLoom_combining (s : State) (n : Nat) (l : Loom) : (s.setLoom n l).combining = s.combining := rfl
@[simp] theorem setLoom_nextCombining (s : State) (n : Nat) (l : Loom) : (s.setLoom n l).nextCombining = s.nextCombining := rfl
@[simp] theorem setLoom_agate (s : State) (n : Nat) (l : Loom) : (s.setLoom n l).agate = s.agate := rfl
@[simp] theorem setLoom_out (s : State) (n : Nat) (l : Loom) : (s.setLoom n l).out = s.out := rfl
@[simp] theorem setLoom_freeIdx (s : State) (n : Nat) (l : Loom) : (s.setLoom n l).freeIdx = s.freeIdx := rfl
@[simp] theorem setLoom_nextStamp (s : State) (n : Nat) (l : Loom) : (s.setLoom n l).nextStamp = s.nextStamp := rfl
@[simp] theorem setLoom_cur (s : State) (n : Nat) (l : Loom) : (s.setLoom n l).cur = s.cur := rfl
@[simp] theorem setLoom_agenda (s : State) (n : Nat) (l : Loom) : (s.setLoom n l).agenda = s.agenda := rfl
@[simp] theorem setLoom_disp (s : State) (n : Nat) (l : Loom) : (s.setLoom n l).disp = s.disp := rfl

@[simp] theorem setCtxAt_mem (s : State) (n : Nat) (ev : Bool) (c : Ctx) : (s.setCtxAt n ev c).mem = s.mem := rfl
@[simp] theorem setCtxAt_lineMeta (s : State) (n : Nat) (ev : Bool) (c : Ctx) : (s.setCtxAt n ev c).lineMeta = s.lineMeta := rfl
@[simp] theorem setCtxAt_retiredPages (s : State) (n : Nat) (ev : Bool) (c : Ctx) : (s.setCtxAt n ev c).retiredPages = s.retiredPages := rfl
@[simp] theorem setCtxAt_fencedChannels (s : State) (n : Nat) (ev : Bool) (c : Ctx) : (s.setCtxAt n ev c).fencedChannels = s.fencedChannels := rfl
@[simp] theorem setCtxAt_fenceRecords (s : State) (n : Nat) (ev : Bool) (c : Ctx) : (s.setCtxAt n ev c).fenceRecords = s.fenceRecords := rfl
@[simp] theorem setCtxAt_corrections (s : State) (n : Nat) (ev : Bool) (c : Ctx) : (s.setCtxAt n ev c).corrections = s.corrections := rfl
@[simp] theorem setCtxAt_bolts (s : State) (n : Nat) (ev : Bool) (c : Ctx) : (s.setCtxAt n ev c).bolts = s.bolts := rfl
@[simp] theorem setCtxAt_panels (s : State) (n : Nat) (ev : Bool) (c : Ctx) : (s.setCtxAt n ev c).panels = s.panels := rfl
@[simp] theorem setCtxAt_bobbins (s : State) (n : Nat) (ev : Bool) (c : Ctx) : (s.setCtxAt n ev c).bobbins = s.bobbins := rfl
@[simp] theorem setCtxAt_tally (s : State) (n : Nat) (ev : Bool) (c : Ctx) : (s.setCtxAt n ev c).tally = s.tally := rfl
@[simp] theorem setCtxAt_waiters (s : State) (n : Nat) (ev : Bool) (c : Ctx) : (s.setCtxAt n ev c).waiters = s.waiters := rfl
@[simp] theorem setCtxAt_evals (s : State) (n : Nat) (ev : Bool) (c : Ctx) : (s.setCtxAt n ev c).evals = s.evals := rfl
@[simp] theorem setCtxAt_tiles (s : State) (n : Nat) (ev : Bool) (c : Ctx) : (s.setCtxAt n ev c).tiles = s.tiles := rfl
@[simp] theorem setCtxAt_stages (s : State) (n : Nat) (ev : Bool) (c : Ctx) : (s.setCtxAt n ev c).stages = s.stages := rfl
@[simp] theorem setCtxAt_stash (s : State) (n : Nat) (ev : Bool) (c : Ctx) : (s.setCtxAt n ev c).stash = s.stash := rfl
@[simp] theorem setCtxAt_stashOps (s : State) (n : Nat) (ev : Bool) (c : Ctx) : (s.setCtxAt n ev c).stashOps = s.stashOps := rfl
@[simp] theorem setCtxAt_nextStash (s : State) (n : Nat) (ev : Bool) (c : Ctx) : (s.setCtxAt n ev c).nextStash = s.nextStash := rfl
@[simp] theorem setCtxAt_parts (s : State) (n : Nat) (ev : Bool) (c : Ctx) : (s.setCtxAt n ev c).parts = s.parts := rfl
@[simp] theorem setCtxAt_keptCounters (s : State) (n : Nat) (ev : Bool) (c : Ctx) : (s.setCtxAt n ev c).keptCounters = s.keptCounters := rfl
@[simp] theorem setCtxAt_ports (s : State) (n : Nat) (ev : Bool) (c : Ctx) : (s.setCtxAt n ev c).ports = s.ports := rfl
@[simp] theorem setCtxAt_requests (s : State) (n : Nat) (ev : Bool) (c : Ctx) : (s.setCtxAt n ev c).requests = s.requests := rfl
@[simp] theorem setCtxAt_incoming (s : State) (n : Nat) (ev : Bool) (c : Ctx) : (s.setCtxAt n ev c).incoming = s.incoming := rfl
@[simp] theorem setCtxAt_nextTag (s : State) (n : Nat) (ev : Bool) (c : Ctx) : (s.setCtxAt n ev c).nextTag = s.nextTag := rfl
@[simp] theorem setCtxAt_sseqs (s : State) (n : Nat) (ev : Bool) (c : Ctx) : (s.setCtxAt n ev c).sseqs = s.sseqs := rfl
@[simp] theorem setCtxAt_endpoints (s : State) (n : Nat) (ev : Bool) (c : Ctx) : (s.setCtxAt n ev c).endpoints = s.endpoints := rfl
@[simp] theorem setCtxAt_combining (s : State) (n : Nat) (ev : Bool) (c : Ctx) : (s.setCtxAt n ev c).combining = s.combining := rfl
@[simp] theorem setCtxAt_nextCombining (s : State) (n : Nat) (ev : Bool) (c : Ctx) : (s.setCtxAt n ev c).nextCombining = s.nextCombining := rfl
@[simp] theorem setCtxAt_agate (s : State) (n : Nat) (ev : Bool) (c : Ctx) : (s.setCtxAt n ev c).agate = s.agate := rfl
@[simp] theorem setCtxAt_out (s : State) (n : Nat) (ev : Bool) (c : Ctx) : (s.setCtxAt n ev c).out = s.out := rfl
@[simp] theorem setCtxAt_freeIdx (s : State) (n : Nat) (ev : Bool) (c : Ctx) : (s.setCtxAt n ev c).freeIdx = s.freeIdx := rfl
@[simp] theorem setCtxAt_nextStamp (s : State) (n : Nat) (ev : Bool) (c : Ctx) : (s.setCtxAt n ev c).nextStamp = s.nextStamp := rfl
@[simp] theorem setCtxAt_cur (s : State) (n : Nat) (ev : Bool) (c : Ctx) : (s.setCtxAt n ev c).cur = s.cur := rfl
@[simp] theorem setCtxAt_agenda (s : State) (n : Nat) (ev : Bool) (c : Ctx) : (s.setCtxAt n ev c).agenda = s.agenda := rfl
@[simp] theorem setCtxAt_disp (s : State) (n : Nat) (ev : Bool) (c : Ctx) : (s.setCtxAt n ev c).disp = s.disp := rfl

@[simp] theorem setCtx_mem (s : State) (c : Ctx) : (s.setCtx c).mem = s.mem := rfl
@[simp] theorem setCtx_lineMeta (s : State) (c : Ctx) : (s.setCtx c).lineMeta = s.lineMeta := rfl
@[simp] theorem setCtx_retiredPages (s : State) (c : Ctx) : (s.setCtx c).retiredPages = s.retiredPages := rfl
@[simp] theorem setCtx_fencedChannels (s : State) (c : Ctx) : (s.setCtx c).fencedChannels = s.fencedChannels := rfl
@[simp] theorem setCtx_fenceRecords (s : State) (c : Ctx) : (s.setCtx c).fenceRecords = s.fenceRecords := rfl
@[simp] theorem setCtx_corrections (s : State) (c : Ctx) : (s.setCtx c).corrections = s.corrections := rfl
@[simp] theorem setCtx_bolts (s : State) (c : Ctx) : (s.setCtx c).bolts = s.bolts := rfl
@[simp] theorem setCtx_panels (s : State) (c : Ctx) : (s.setCtx c).panels = s.panels := rfl
@[simp] theorem setCtx_bobbins (s : State) (c : Ctx) : (s.setCtx c).bobbins = s.bobbins := rfl
@[simp] theorem setCtx_tally (s : State) (c : Ctx) : (s.setCtx c).tally = s.tally := rfl
@[simp] theorem setCtx_waiters (s : State) (c : Ctx) : (s.setCtx c).waiters = s.waiters := rfl
@[simp] theorem setCtx_evals (s : State) (c : Ctx) : (s.setCtx c).evals = s.evals := rfl
@[simp] theorem setCtx_tiles (s : State) (c : Ctx) : (s.setCtx c).tiles = s.tiles := rfl
@[simp] theorem setCtx_stages (s : State) (c : Ctx) : (s.setCtx c).stages = s.stages := rfl
@[simp] theorem setCtx_stash (s : State) (c : Ctx) : (s.setCtx c).stash = s.stash := rfl
@[simp] theorem setCtx_stashOps (s : State) (c : Ctx) : (s.setCtx c).stashOps = s.stashOps := rfl
@[simp] theorem setCtx_nextStash (s : State) (c : Ctx) : (s.setCtx c).nextStash = s.nextStash := rfl
@[simp] theorem setCtx_parts (s : State) (c : Ctx) : (s.setCtx c).parts = s.parts := rfl
@[simp] theorem setCtx_keptCounters (s : State) (c : Ctx) : (s.setCtx c).keptCounters = s.keptCounters := rfl
@[simp] theorem setCtx_ports (s : State) (c : Ctx) : (s.setCtx c).ports = s.ports := rfl
@[simp] theorem setCtx_requests (s : State) (c : Ctx) : (s.setCtx c).requests = s.requests := rfl
@[simp] theorem setCtx_incoming (s : State) (c : Ctx) : (s.setCtx c).incoming = s.incoming := rfl
@[simp] theorem setCtx_nextTag (s : State) (c : Ctx) : (s.setCtx c).nextTag = s.nextTag := rfl
@[simp] theorem setCtx_sseqs (s : State) (c : Ctx) : (s.setCtx c).sseqs = s.sseqs := rfl
@[simp] theorem setCtx_endpoints (s : State) (c : Ctx) : (s.setCtx c).endpoints = s.endpoints := rfl
@[simp] theorem setCtx_combining (s : State) (c : Ctx) : (s.setCtx c).combining = s.combining := rfl
@[simp] theorem setCtx_nextCombining (s : State) (c : Ctx) : (s.setCtx c).nextCombining = s.nextCombining := rfl
@[simp] theorem setCtx_agate (s : State) (c : Ctx) : (s.setCtx c).agate = s.agate := rfl
@[simp] theorem setCtx_out (s : State) (c : Ctx) : (s.setCtx c).out = s.out := rfl
@[simp] theorem setCtx_freeIdx (s : State) (c : Ctx) : (s.setCtx c).freeIdx = s.freeIdx := rfl
@[simp] theorem setCtx_nextStamp (s : State) (c : Ctx) : (s.setCtx c).nextStamp = s.nextStamp := rfl
@[simp] theorem setCtx_cur (s : State) (c : Ctx) : (s.setCtx c).cur = s.cur := rfl
@[simp] theorem setCtx_agenda (s : State) (c : Ctx) : (s.setCtx c).agenda = s.agenda := rfl
@[simp] theorem setCtx_disp (s : State) (c : Ctx) : (s.setCtx c).disp = s.disp := rfl

@[simp] theorem setBolt_mem (s : State) (n : Nat) (b : Bolt) : (s.setBolt n b).mem = s.mem := rfl
@[simp] theorem setBolt_lineMeta (s : State) (n : Nat) (b : Bolt) : (s.setBolt n b).lineMeta = s.lineMeta := rfl
@[simp] theorem setBolt_retiredPages (s : State) (n : Nat) (b : Bolt) : (s.setBolt n b).retiredPages = s.retiredPages := rfl
@[simp] theorem setBolt_fencedChannels (s : State) (n : Nat) (b : Bolt) : (s.setBolt n b).fencedChannels = s.fencedChannels := rfl
@[simp] theorem setBolt_fenceRecords (s : State) (n : Nat) (b : Bolt) : (s.setBolt n b).fenceRecords = s.fenceRecords := rfl
@[simp] theorem setBolt_corrections (s : State) (n : Nat) (b : Bolt) : (s.setBolt n b).corrections = s.corrections := rfl
@[simp] theorem setBolt_looms (s : State) (n : Nat) (b : Bolt) : (s.setBolt n b).looms = s.looms := rfl
@[simp] theorem setBolt_panels (s : State) (n : Nat) (b : Bolt) : (s.setBolt n b).panels = s.panels := rfl
@[simp] theorem setBolt_bobbins (s : State) (n : Nat) (b : Bolt) : (s.setBolt n b).bobbins = s.bobbins := rfl
@[simp] theorem setBolt_tally (s : State) (n : Nat) (b : Bolt) : (s.setBolt n b).tally = s.tally := rfl
@[simp] theorem setBolt_waiters (s : State) (n : Nat) (b : Bolt) : (s.setBolt n b).waiters = s.waiters := rfl
@[simp] theorem setBolt_evals (s : State) (n : Nat) (b : Bolt) : (s.setBolt n b).evals = s.evals := rfl
@[simp] theorem setBolt_tiles (s : State) (n : Nat) (b : Bolt) : (s.setBolt n b).tiles = s.tiles := rfl
@[simp] theorem setBolt_stages (s : State) (n : Nat) (b : Bolt) : (s.setBolt n b).stages = s.stages := rfl
@[simp] theorem setBolt_stash (s : State) (n : Nat) (b : Bolt) : (s.setBolt n b).stash = s.stash := rfl
@[simp] theorem setBolt_stashOps (s : State) (n : Nat) (b : Bolt) : (s.setBolt n b).stashOps = s.stashOps := rfl
@[simp] theorem setBolt_nextStash (s : State) (n : Nat) (b : Bolt) : (s.setBolt n b).nextStash = s.nextStash := rfl
@[simp] theorem setBolt_parts (s : State) (n : Nat) (b : Bolt) : (s.setBolt n b).parts = s.parts := rfl
@[simp] theorem setBolt_keptCounters (s : State) (n : Nat) (b : Bolt) : (s.setBolt n b).keptCounters = s.keptCounters := rfl
@[simp] theorem setBolt_ports (s : State) (n : Nat) (b : Bolt) : (s.setBolt n b).ports = s.ports := rfl
@[simp] theorem setBolt_requests (s : State) (n : Nat) (b : Bolt) : (s.setBolt n b).requests = s.requests := rfl
@[simp] theorem setBolt_incoming (s : State) (n : Nat) (b : Bolt) : (s.setBolt n b).incoming = s.incoming := rfl
@[simp] theorem setBolt_nextTag (s : State) (n : Nat) (b : Bolt) : (s.setBolt n b).nextTag = s.nextTag := rfl
@[simp] theorem setBolt_sseqs (s : State) (n : Nat) (b : Bolt) : (s.setBolt n b).sseqs = s.sseqs := rfl
@[simp] theorem setBolt_endpoints (s : State) (n : Nat) (b : Bolt) : (s.setBolt n b).endpoints = s.endpoints := rfl
@[simp] theorem setBolt_combining (s : State) (n : Nat) (b : Bolt) : (s.setBolt n b).combining = s.combining := rfl
@[simp] theorem setBolt_nextCombining (s : State) (n : Nat) (b : Bolt) : (s.setBolt n b).nextCombining = s.nextCombining := rfl
@[simp] theorem setBolt_agate (s : State) (n : Nat) (b : Bolt) : (s.setBolt n b).agate = s.agate := rfl
@[simp] theorem setBolt_out (s : State) (n : Nat) (b : Bolt) : (s.setBolt n b).out = s.out := rfl
@[simp] theorem setBolt_freeIdx (s : State) (n : Nat) (b : Bolt) : (s.setBolt n b).freeIdx = s.freeIdx := rfl
@[simp] theorem setBolt_nextStamp (s : State) (n : Nat) (b : Bolt) : (s.setBolt n b).nextStamp = s.nextStamp := rfl
@[simp] theorem setBolt_cur (s : State) (n : Nat) (b : Bolt) : (s.setBolt n b).cur = s.cur := rfl
@[simp] theorem setBolt_agenda (s : State) (n : Nat) (b : Bolt) : (s.setBolt n b).agenda = s.agenda := rfl
@[simp] theorem setBolt_disp (s : State) (n : Nat) (b : Bolt) : (s.setBolt n b).disp = s.disp := rfl

@[simp] theorem setPanel_mem (s : State) (n : Nat) (p : Panel) : (s.setPanel n p).mem = s.mem := rfl
@[simp] theorem setPanel_lineMeta (s : State) (n : Nat) (p : Panel) : (s.setPanel n p).lineMeta = s.lineMeta := rfl
@[simp] theorem setPanel_retiredPages (s : State) (n : Nat) (p : Panel) : (s.setPanel n p).retiredPages = s.retiredPages := rfl
@[simp] theorem setPanel_fencedChannels (s : State) (n : Nat) (p : Panel) : (s.setPanel n p).fencedChannels = s.fencedChannels := rfl
@[simp] theorem setPanel_fenceRecords (s : State) (n : Nat) (p : Panel) : (s.setPanel n p).fenceRecords = s.fenceRecords := rfl
@[simp] theorem setPanel_corrections (s : State) (n : Nat) (p : Panel) : (s.setPanel n p).corrections = s.corrections := rfl
@[simp] theorem setPanel_looms (s : State) (n : Nat) (p : Panel) : (s.setPanel n p).looms = s.looms := rfl
@[simp] theorem setPanel_bolts (s : State) (n : Nat) (p : Panel) : (s.setPanel n p).bolts = s.bolts := rfl
@[simp] theorem setPanel_bobbins (s : State) (n : Nat) (p : Panel) : (s.setPanel n p).bobbins = s.bobbins := rfl
@[simp] theorem setPanel_tally (s : State) (n : Nat) (p : Panel) : (s.setPanel n p).tally = s.tally := rfl
@[simp] theorem setPanel_waiters (s : State) (n : Nat) (p : Panel) : (s.setPanel n p).waiters = s.waiters := rfl
@[simp] theorem setPanel_evals (s : State) (n : Nat) (p : Panel) : (s.setPanel n p).evals = s.evals := rfl
@[simp] theorem setPanel_tiles (s : State) (n : Nat) (p : Panel) : (s.setPanel n p).tiles = s.tiles := rfl
@[simp] theorem setPanel_stages (s : State) (n : Nat) (p : Panel) : (s.setPanel n p).stages = s.stages := rfl
@[simp] theorem setPanel_stash (s : State) (n : Nat) (p : Panel) : (s.setPanel n p).stash = s.stash := rfl
@[simp] theorem setPanel_stashOps (s : State) (n : Nat) (p : Panel) : (s.setPanel n p).stashOps = s.stashOps := rfl
@[simp] theorem setPanel_nextStash (s : State) (n : Nat) (p : Panel) : (s.setPanel n p).nextStash = s.nextStash := rfl
@[simp] theorem setPanel_parts (s : State) (n : Nat) (p : Panel) : (s.setPanel n p).parts = s.parts := rfl
@[simp] theorem setPanel_keptCounters (s : State) (n : Nat) (p : Panel) : (s.setPanel n p).keptCounters = s.keptCounters := rfl
@[simp] theorem setPanel_ports (s : State) (n : Nat) (p : Panel) : (s.setPanel n p).ports = s.ports := rfl
@[simp] theorem setPanel_requests (s : State) (n : Nat) (p : Panel) : (s.setPanel n p).requests = s.requests := rfl
@[simp] theorem setPanel_incoming (s : State) (n : Nat) (p : Panel) : (s.setPanel n p).incoming = s.incoming := rfl
@[simp] theorem setPanel_nextTag (s : State) (n : Nat) (p : Panel) : (s.setPanel n p).nextTag = s.nextTag := rfl
@[simp] theorem setPanel_sseqs (s : State) (n : Nat) (p : Panel) : (s.setPanel n p).sseqs = s.sseqs := rfl
@[simp] theorem setPanel_endpoints (s : State) (n : Nat) (p : Panel) : (s.setPanel n p).endpoints = s.endpoints := rfl
@[simp] theorem setPanel_combining (s : State) (n : Nat) (p : Panel) : (s.setPanel n p).combining = s.combining := rfl
@[simp] theorem setPanel_nextCombining (s : State) (n : Nat) (p : Panel) : (s.setPanel n p).nextCombining = s.nextCombining := rfl
@[simp] theorem setPanel_agate (s : State) (n : Nat) (p : Panel) : (s.setPanel n p).agate = s.agate := rfl
@[simp] theorem setPanel_out (s : State) (n : Nat) (p : Panel) : (s.setPanel n p).out = s.out := rfl
@[simp] theorem setPanel_freeIdx (s : State) (n : Nat) (p : Panel) : (s.setPanel n p).freeIdx = s.freeIdx := rfl
@[simp] theorem setPanel_nextStamp (s : State) (n : Nat) (p : Panel) : (s.setPanel n p).nextStamp = s.nextStamp := rfl
@[simp] theorem setPanel_cur (s : State) (n : Nat) (p : Panel) : (s.setPanel n p).cur = s.cur := rfl
@[simp] theorem setPanel_agenda (s : State) (n : Nat) (p : Panel) : (s.setPanel n p).agenda = s.agenda := rfl
@[simp] theorem setPanel_disp (s : State) (n : Nat) (p : Panel) : (s.setPanel n p).disp = s.disp := rfl

@[simp] theorem setBobbin_mem (s : State) (k : Nat) (b : Bobbin) : (s.setBobbin k b).mem = s.mem := rfl
@[simp] theorem setBobbin_lineMeta (s : State) (k : Nat) (b : Bobbin) : (s.setBobbin k b).lineMeta = s.lineMeta := rfl
@[simp] theorem setBobbin_retiredPages (s : State) (k : Nat) (b : Bobbin) : (s.setBobbin k b).retiredPages = s.retiredPages := rfl
@[simp] theorem setBobbin_fencedChannels (s : State) (k : Nat) (b : Bobbin) : (s.setBobbin k b).fencedChannels = s.fencedChannels := rfl
@[simp] theorem setBobbin_fenceRecords (s : State) (k : Nat) (b : Bobbin) : (s.setBobbin k b).fenceRecords = s.fenceRecords := rfl
@[simp] theorem setBobbin_corrections (s : State) (k : Nat) (b : Bobbin) : (s.setBobbin k b).corrections = s.corrections := rfl
@[simp] theorem setBobbin_looms (s : State) (k : Nat) (b : Bobbin) : (s.setBobbin k b).looms = s.looms := rfl
@[simp] theorem setBobbin_bolts (s : State) (k : Nat) (b : Bobbin) : (s.setBobbin k b).bolts = s.bolts := rfl
@[simp] theorem setBobbin_panels (s : State) (k : Nat) (b : Bobbin) : (s.setBobbin k b).panels = s.panels := rfl
@[simp] theorem setBobbin_tally (s : State) (k : Nat) (b : Bobbin) : (s.setBobbin k b).tally = s.tally := rfl
@[simp] theorem setBobbin_waiters (s : State) (k : Nat) (b : Bobbin) : (s.setBobbin k b).waiters = s.waiters := rfl
@[simp] theorem setBobbin_evals (s : State) (k : Nat) (b : Bobbin) : (s.setBobbin k b).evals = s.evals := rfl
@[simp] theorem setBobbin_tiles (s : State) (k : Nat) (b : Bobbin) : (s.setBobbin k b).tiles = s.tiles := rfl
@[simp] theorem setBobbin_stages (s : State) (k : Nat) (b : Bobbin) : (s.setBobbin k b).stages = s.stages := rfl
@[simp] theorem setBobbin_stash (s : State) (k : Nat) (b : Bobbin) : (s.setBobbin k b).stash = s.stash := rfl
@[simp] theorem setBobbin_stashOps (s : State) (k : Nat) (b : Bobbin) : (s.setBobbin k b).stashOps = s.stashOps := rfl
@[simp] theorem setBobbin_nextStash (s : State) (k : Nat) (b : Bobbin) : (s.setBobbin k b).nextStash = s.nextStash := rfl
@[simp] theorem setBobbin_parts (s : State) (k : Nat) (b : Bobbin) : (s.setBobbin k b).parts = s.parts := rfl
@[simp] theorem setBobbin_keptCounters (s : State) (k : Nat) (b : Bobbin) : (s.setBobbin k b).keptCounters = s.keptCounters := rfl
@[simp] theorem setBobbin_ports (s : State) (k : Nat) (b : Bobbin) : (s.setBobbin k b).ports = s.ports := rfl
@[simp] theorem setBobbin_requests (s : State) (k : Nat) (b : Bobbin) : (s.setBobbin k b).requests = s.requests := rfl
@[simp] theorem setBobbin_incoming (s : State) (k : Nat) (b : Bobbin) : (s.setBobbin k b).incoming = s.incoming := rfl
@[simp] theorem setBobbin_nextTag (s : State) (k : Nat) (b : Bobbin) : (s.setBobbin k b).nextTag = s.nextTag := rfl
@[simp] theorem setBobbin_sseqs (s : State) (k : Nat) (b : Bobbin) : (s.setBobbin k b).sseqs = s.sseqs := rfl
@[simp] theorem setBobbin_endpoints (s : State) (k : Nat) (b : Bobbin) : (s.setBobbin k b).endpoints = s.endpoints := rfl
@[simp] theorem setBobbin_combining (s : State) (k : Nat) (b : Bobbin) : (s.setBobbin k b).combining = s.combining := rfl
@[simp] theorem setBobbin_nextCombining (s : State) (k : Nat) (b : Bobbin) : (s.setBobbin k b).nextCombining = s.nextCombining := rfl
@[simp] theorem setBobbin_agate (s : State) (k : Nat) (b : Bobbin) : (s.setBobbin k b).agate = s.agate := rfl
@[simp] theorem setBobbin_out (s : State) (k : Nat) (b : Bobbin) : (s.setBobbin k b).out = s.out := rfl
@[simp] theorem setBobbin_freeIdx (s : State) (k : Nat) (b : Bobbin) : (s.setBobbin k b).freeIdx = s.freeIdx := rfl
@[simp] theorem setBobbin_nextStamp (s : State) (k : Nat) (b : Bobbin) : (s.setBobbin k b).nextStamp = s.nextStamp := rfl
@[simp] theorem setBobbin_cur (s : State) (k : Nat) (b : Bobbin) : (s.setBobbin k b).cur = s.cur := rfl
@[simp] theorem setBobbin_agenda (s : State) (k : Nat) (b : Bobbin) : (s.setBobbin k b).agenda = s.agenda := rfl
@[simp] theorem setBobbin_disp (s : State) (k : Nat) (b : Bobbin) : (s.setBobbin k b).disp = s.disp := rfl

@[simp] theorem setTile_mem (s : State) (n : Nat) (x : Tile) : (s.setTile n x).mem = s.mem := rfl
@[simp] theorem setTile_lineMeta (s : State) (n : Nat) (x : Tile) : (s.setTile n x).lineMeta = s.lineMeta := rfl
@[simp] theorem setTile_retiredPages (s : State) (n : Nat) (x : Tile) : (s.setTile n x).retiredPages = s.retiredPages := rfl
@[simp] theorem setTile_fencedChannels (s : State) (n : Nat) (x : Tile) : (s.setTile n x).fencedChannels = s.fencedChannels := rfl
@[simp] theorem setTile_fenceRecords (s : State) (n : Nat) (x : Tile) : (s.setTile n x).fenceRecords = s.fenceRecords := rfl
@[simp] theorem setTile_corrections (s : State) (n : Nat) (x : Tile) : (s.setTile n x).corrections = s.corrections := rfl
@[simp] theorem setTile_looms (s : State) (n : Nat) (x : Tile) : (s.setTile n x).looms = s.looms := rfl
@[simp] theorem setTile_bolts (s : State) (n : Nat) (x : Tile) : (s.setTile n x).bolts = s.bolts := rfl
@[simp] theorem setTile_panels (s : State) (n : Nat) (x : Tile) : (s.setTile n x).panels = s.panels := rfl
@[simp] theorem setTile_bobbins (s : State) (n : Nat) (x : Tile) : (s.setTile n x).bobbins = s.bobbins := rfl
@[simp] theorem setTile_tally (s : State) (n : Nat) (x : Tile) : (s.setTile n x).tally = s.tally := rfl
@[simp] theorem setTile_waiters (s : State) (n : Nat) (x : Tile) : (s.setTile n x).waiters = s.waiters := rfl
@[simp] theorem setTile_evals (s : State) (n : Nat) (x : Tile) : (s.setTile n x).evals = s.evals := rfl
@[simp] theorem setTile_stages (s : State) (n : Nat) (x : Tile) : (s.setTile n x).stages = s.stages := rfl
@[simp] theorem setTile_stash (s : State) (n : Nat) (x : Tile) : (s.setTile n x).stash = s.stash := rfl
@[simp] theorem setTile_stashOps (s : State) (n : Nat) (x : Tile) : (s.setTile n x).stashOps = s.stashOps := rfl
@[simp] theorem setTile_nextStash (s : State) (n : Nat) (x : Tile) : (s.setTile n x).nextStash = s.nextStash := rfl
@[simp] theorem setTile_parts (s : State) (n : Nat) (x : Tile) : (s.setTile n x).parts = s.parts := rfl
@[simp] theorem setTile_keptCounters (s : State) (n : Nat) (x : Tile) : (s.setTile n x).keptCounters = s.keptCounters := rfl
@[simp] theorem setTile_ports (s : State) (n : Nat) (x : Tile) : (s.setTile n x).ports = s.ports := rfl
@[simp] theorem setTile_requests (s : State) (n : Nat) (x : Tile) : (s.setTile n x).requests = s.requests := rfl
@[simp] theorem setTile_incoming (s : State) (n : Nat) (x : Tile) : (s.setTile n x).incoming = s.incoming := rfl
@[simp] theorem setTile_nextTag (s : State) (n : Nat) (x : Tile) : (s.setTile n x).nextTag = s.nextTag := rfl
@[simp] theorem setTile_sseqs (s : State) (n : Nat) (x : Tile) : (s.setTile n x).sseqs = s.sseqs := rfl
@[simp] theorem setTile_endpoints (s : State) (n : Nat) (x : Tile) : (s.setTile n x).endpoints = s.endpoints := rfl
@[simp] theorem setTile_combining (s : State) (n : Nat) (x : Tile) : (s.setTile n x).combining = s.combining := rfl
@[simp] theorem setTile_nextCombining (s : State) (n : Nat) (x : Tile) : (s.setTile n x).nextCombining = s.nextCombining := rfl
@[simp] theorem setTile_agate (s : State) (n : Nat) (x : Tile) : (s.setTile n x).agate = s.agate := rfl
@[simp] theorem setTile_out (s : State) (n : Nat) (x : Tile) : (s.setTile n x).out = s.out := rfl
@[simp] theorem setTile_freeIdx (s : State) (n : Nat) (x : Tile) : (s.setTile n x).freeIdx = s.freeIdx := rfl
@[simp] theorem setTile_nextStamp (s : State) (n : Nat) (x : Tile) : (s.setTile n x).nextStamp = s.nextStamp := rfl
@[simp] theorem setTile_cur (s : State) (n : Nat) (x : Tile) : (s.setTile n x).cur = s.cur := rfl
@[simp] theorem setTile_agenda (s : State) (n : Nat) (x : Tile) : (s.setTile n x).agenda = s.agenda := rfl
@[simp] theorem setTile_disp (s : State) (n : Nat) (x : Tile) : (s.setTile n x).disp = s.disp := rfl

@[simp] theorem setStage_mem (s : State) (panel idx : Nat) (x : Stage) : (s.setStage panel idx x).mem = s.mem := rfl
@[simp] theorem setStage_lineMeta (s : State) (panel idx : Nat) (x : Stage) : (s.setStage panel idx x).lineMeta = s.lineMeta := rfl
@[simp] theorem setStage_retiredPages (s : State) (panel idx : Nat) (x : Stage) : (s.setStage panel idx x).retiredPages = s.retiredPages := rfl
@[simp] theorem setStage_fencedChannels (s : State) (panel idx : Nat) (x : Stage) : (s.setStage panel idx x).fencedChannels = s.fencedChannels := rfl
@[simp] theorem setStage_fenceRecords (s : State) (panel idx : Nat) (x : Stage) : (s.setStage panel idx x).fenceRecords = s.fenceRecords := rfl
@[simp] theorem setStage_corrections (s : State) (panel idx : Nat) (x : Stage) : (s.setStage panel idx x).corrections = s.corrections := rfl
@[simp] theorem setStage_looms (s : State) (panel idx : Nat) (x : Stage) : (s.setStage panel idx x).looms = s.looms := rfl
@[simp] theorem setStage_bolts (s : State) (panel idx : Nat) (x : Stage) : (s.setStage panel idx x).bolts = s.bolts := rfl
@[simp] theorem setStage_panels (s : State) (panel idx : Nat) (x : Stage) : (s.setStage panel idx x).panels = s.panels := rfl
@[simp] theorem setStage_bobbins (s : State) (panel idx : Nat) (x : Stage) : (s.setStage panel idx x).bobbins = s.bobbins := rfl
@[simp] theorem setStage_tally (s : State) (panel idx : Nat) (x : Stage) : (s.setStage panel idx x).tally = s.tally := rfl
@[simp] theorem setStage_waiters (s : State) (panel idx : Nat) (x : Stage) : (s.setStage panel idx x).waiters = s.waiters := rfl
@[simp] theorem setStage_evals (s : State) (panel idx : Nat) (x : Stage) : (s.setStage panel idx x).evals = s.evals := rfl
@[simp] theorem setStage_tiles (s : State) (panel idx : Nat) (x : Stage) : (s.setStage panel idx x).tiles = s.tiles := rfl
@[simp] theorem setStage_stash (s : State) (panel idx : Nat) (x : Stage) : (s.setStage panel idx x).stash = s.stash := rfl
@[simp] theorem setStage_stashOps (s : State) (panel idx : Nat) (x : Stage) : (s.setStage panel idx x).stashOps = s.stashOps := rfl
@[simp] theorem setStage_nextStash (s : State) (panel idx : Nat) (x : Stage) : (s.setStage panel idx x).nextStash = s.nextStash := rfl
@[simp] theorem setStage_parts (s : State) (panel idx : Nat) (x : Stage) : (s.setStage panel idx x).parts = s.parts := rfl
@[simp] theorem setStage_keptCounters (s : State) (panel idx : Nat) (x : Stage) : (s.setStage panel idx x).keptCounters = s.keptCounters := rfl
@[simp] theorem setStage_ports (s : State) (panel idx : Nat) (x : Stage) : (s.setStage panel idx x).ports = s.ports := rfl
@[simp] theorem setStage_requests (s : State) (panel idx : Nat) (x : Stage) : (s.setStage panel idx x).requests = s.requests := rfl
@[simp] theorem setStage_incoming (s : State) (panel idx : Nat) (x : Stage) : (s.setStage panel idx x).incoming = s.incoming := rfl
@[simp] theorem setStage_nextTag (s : State) (panel idx : Nat) (x : Stage) : (s.setStage panel idx x).nextTag = s.nextTag := rfl
@[simp] theorem setStage_sseqs (s : State) (panel idx : Nat) (x : Stage) : (s.setStage panel idx x).sseqs = s.sseqs := rfl
@[simp] theorem setStage_endpoints (s : State) (panel idx : Nat) (x : Stage) : (s.setStage panel idx x).endpoints = s.endpoints := rfl
@[simp] theorem setStage_combining (s : State) (panel idx : Nat) (x : Stage) : (s.setStage panel idx x).combining = s.combining := rfl
@[simp] theorem setStage_nextCombining (s : State) (panel idx : Nat) (x : Stage) : (s.setStage panel idx x).nextCombining = s.nextCombining := rfl
@[simp] theorem setStage_agate (s : State) (panel idx : Nat) (x : Stage) : (s.setStage panel idx x).agate = s.agate := rfl
@[simp] theorem setStage_out (s : State) (panel idx : Nat) (x : Stage) : (s.setStage panel idx x).out = s.out := rfl
@[simp] theorem setStage_freeIdx (s : State) (panel idx : Nat) (x : Stage) : (s.setStage panel idx x).freeIdx = s.freeIdx := rfl
@[simp] theorem setStage_nextStamp (s : State) (panel idx : Nat) (x : Stage) : (s.setStage panel idx x).nextStamp = s.nextStamp := rfl
@[simp] theorem setStage_cur (s : State) (panel idx : Nat) (x : Stage) : (s.setStage panel idx x).cur = s.cur := rfl
@[simp] theorem setStage_agenda (s : State) (panel idx : Nat) (x : Stage) : (s.setStage panel idx x).agenda = s.agenda := rfl
@[simp] theorem setStage_disp (s : State) (panel idx : Nat) (x : Stage) : (s.setStage panel idx x).disp = s.disp := rfl

@[simp] theorem setPort_mem (s : State) (q : Nat) (p : Port) : (s.setPort q p).mem = s.mem := rfl
@[simp] theorem setPort_lineMeta (s : State) (q : Nat) (p : Port) : (s.setPort q p).lineMeta = s.lineMeta := rfl
@[simp] theorem setPort_retiredPages (s : State) (q : Nat) (p : Port) : (s.setPort q p).retiredPages = s.retiredPages := rfl
@[simp] theorem setPort_fencedChannels (s : State) (q : Nat) (p : Port) : (s.setPort q p).fencedChannels = s.fencedChannels := rfl
@[simp] theorem setPort_fenceRecords (s : State) (q : Nat) (p : Port) : (s.setPort q p).fenceRecords = s.fenceRecords := rfl
@[simp] theorem setPort_corrections (s : State) (q : Nat) (p : Port) : (s.setPort q p).corrections = s.corrections := rfl
@[simp] theorem setPort_looms (s : State) (q : Nat) (p : Port) : (s.setPort q p).looms = s.looms := rfl
@[simp] theorem setPort_bolts (s : State) (q : Nat) (p : Port) : (s.setPort q p).bolts = s.bolts := rfl
@[simp] theorem setPort_panels (s : State) (q : Nat) (p : Port) : (s.setPort q p).panels = s.panels := rfl
@[simp] theorem setPort_bobbins (s : State) (q : Nat) (p : Port) : (s.setPort q p).bobbins = s.bobbins := rfl
@[simp] theorem setPort_tally (s : State) (q : Nat) (p : Port) : (s.setPort q p).tally = s.tally := rfl
@[simp] theorem setPort_waiters (s : State) (q : Nat) (p : Port) : (s.setPort q p).waiters = s.waiters := rfl
@[simp] theorem setPort_evals (s : State) (q : Nat) (p : Port) : (s.setPort q p).evals = s.evals := rfl
@[simp] theorem setPort_tiles (s : State) (q : Nat) (p : Port) : (s.setPort q p).tiles = s.tiles := rfl
@[simp] theorem setPort_stages (s : State) (q : Nat) (p : Port) : (s.setPort q p).stages = s.stages := rfl
@[simp] theorem setPort_stash (s : State) (q : Nat) (p : Port) : (s.setPort q p).stash = s.stash := rfl
@[simp] theorem setPort_stashOps (s : State) (q : Nat) (p : Port) : (s.setPort q p).stashOps = s.stashOps := rfl
@[simp] theorem setPort_nextStash (s : State) (q : Nat) (p : Port) : (s.setPort q p).nextStash = s.nextStash := rfl
@[simp] theorem setPort_parts (s : State) (q : Nat) (p : Port) : (s.setPort q p).parts = s.parts := rfl
@[simp] theorem setPort_keptCounters (s : State) (q : Nat) (p : Port) : (s.setPort q p).keptCounters = s.keptCounters := rfl
@[simp] theorem setPort_requests (s : State) (q : Nat) (p : Port) : (s.setPort q p).requests = s.requests := rfl
@[simp] theorem setPort_incoming (s : State) (q : Nat) (p : Port) : (s.setPort q p).incoming = s.incoming := rfl
@[simp] theorem setPort_nextTag (s : State) (q : Nat) (p : Port) : (s.setPort q p).nextTag = s.nextTag := rfl
@[simp] theorem setPort_sseqs (s : State) (q : Nat) (p : Port) : (s.setPort q p).sseqs = s.sseqs := rfl
@[simp] theorem setPort_endpoints (s : State) (q : Nat) (p : Port) : (s.setPort q p).endpoints = s.endpoints := rfl
@[simp] theorem setPort_combining (s : State) (q : Nat) (p : Port) : (s.setPort q p).combining = s.combining := rfl
@[simp] theorem setPort_nextCombining (s : State) (q : Nat) (p : Port) : (s.setPort q p).nextCombining = s.nextCombining := rfl
@[simp] theorem setPort_agate (s : State) (q : Nat) (p : Port) : (s.setPort q p).agate = s.agate := rfl
@[simp] theorem setPort_out (s : State) (q : Nat) (p : Port) : (s.setPort q p).out = s.out := rfl
@[simp] theorem setPort_freeIdx (s : State) (q : Nat) (p : Port) : (s.setPort q p).freeIdx = s.freeIdx := rfl
@[simp] theorem setPort_nextStamp (s : State) (q : Nat) (p : Port) : (s.setPort q p).nextStamp = s.nextStamp := rfl
@[simp] theorem setPort_cur (s : State) (q : Nat) (p : Port) : (s.setPort q p).cur = s.cur := rfl
@[simp] theorem setPort_agenda (s : State) (q : Nat) (p : Port) : (s.setPort q p).agenda = s.agenda := rfl
@[simp] theorem setPort_disp (s : State) (q : Nat) (p : Port) : (s.setPort q p).disp = s.disp := rfl

@[simp] theorem setPart_mem (s : State) (peer : Nat) (p : Partition) : (s.setPart peer p).mem = s.mem := rfl
@[simp] theorem setPart_lineMeta (s : State) (peer : Nat) (p : Partition) : (s.setPart peer p).lineMeta = s.lineMeta := rfl
@[simp] theorem setPart_retiredPages (s : State) (peer : Nat) (p : Partition) : (s.setPart peer p).retiredPages = s.retiredPages := rfl
@[simp] theorem setPart_fencedChannels (s : State) (peer : Nat) (p : Partition) : (s.setPart peer p).fencedChannels = s.fencedChannels := rfl
@[simp] theorem setPart_fenceRecords (s : State) (peer : Nat) (p : Partition) : (s.setPart peer p).fenceRecords = s.fenceRecords := rfl
@[simp] theorem setPart_corrections (s : State) (peer : Nat) (p : Partition) : (s.setPart peer p).corrections = s.corrections := rfl
@[simp] theorem setPart_looms (s : State) (peer : Nat) (p : Partition) : (s.setPart peer p).looms = s.looms := rfl
@[simp] theorem setPart_bolts (s : State) (peer : Nat) (p : Partition) : (s.setPart peer p).bolts = s.bolts := rfl
@[simp] theorem setPart_panels (s : State) (peer : Nat) (p : Partition) : (s.setPart peer p).panels = s.panels := rfl
@[simp] theorem setPart_bobbins (s : State) (peer : Nat) (p : Partition) : (s.setPart peer p).bobbins = s.bobbins := rfl
@[simp] theorem setPart_tally (s : State) (peer : Nat) (p : Partition) : (s.setPart peer p).tally = s.tally := rfl
@[simp] theorem setPart_waiters (s : State) (peer : Nat) (p : Partition) : (s.setPart peer p).waiters = s.waiters := rfl
@[simp] theorem setPart_evals (s : State) (peer : Nat) (p : Partition) : (s.setPart peer p).evals = s.evals := rfl
@[simp] theorem setPart_tiles (s : State) (peer : Nat) (p : Partition) : (s.setPart peer p).tiles = s.tiles := rfl
@[simp] theorem setPart_stages (s : State) (peer : Nat) (p : Partition) : (s.setPart peer p).stages = s.stages := rfl
@[simp] theorem setPart_stash (s : State) (peer : Nat) (p : Partition) : (s.setPart peer p).stash = s.stash := rfl
@[simp] theorem setPart_stashOps (s : State) (peer : Nat) (p : Partition) : (s.setPart peer p).stashOps = s.stashOps := rfl
@[simp] theorem setPart_nextStash (s : State) (peer : Nat) (p : Partition) : (s.setPart peer p).nextStash = s.nextStash := rfl
@[simp] theorem setPart_keptCounters (s : State) (peer : Nat) (p : Partition) : (s.setPart peer p).keptCounters = s.keptCounters := rfl
@[simp] theorem setPart_ports (s : State) (peer : Nat) (p : Partition) : (s.setPart peer p).ports = s.ports := rfl
@[simp] theorem setPart_requests (s : State) (peer : Nat) (p : Partition) : (s.setPart peer p).requests = s.requests := rfl
@[simp] theorem setPart_incoming (s : State) (peer : Nat) (p : Partition) : (s.setPart peer p).incoming = s.incoming := rfl
@[simp] theorem setPart_nextTag (s : State) (peer : Nat) (p : Partition) : (s.setPart peer p).nextTag = s.nextTag := rfl
@[simp] theorem setPart_sseqs (s : State) (peer : Nat) (p : Partition) : (s.setPart peer p).sseqs = s.sseqs := rfl
@[simp] theorem setPart_endpoints (s : State) (peer : Nat) (p : Partition) : (s.setPart peer p).endpoints = s.endpoints := rfl
@[simp] theorem setPart_combining (s : State) (peer : Nat) (p : Partition) : (s.setPart peer p).combining = s.combining := rfl
@[simp] theorem setPart_nextCombining (s : State) (peer : Nat) (p : Partition) : (s.setPart peer p).nextCombining = s.nextCombining := rfl
@[simp] theorem setPart_agate (s : State) (peer : Nat) (p : Partition) : (s.setPart peer p).agate = s.agate := rfl
@[simp] theorem setPart_out (s : State) (peer : Nat) (p : Partition) : (s.setPart peer p).out = s.out := rfl
@[simp] theorem setPart_freeIdx (s : State) (peer : Nat) (p : Partition) : (s.setPart peer p).freeIdx = s.freeIdx := rfl
@[simp] theorem setPart_nextStamp (s : State) (peer : Nat) (p : Partition) : (s.setPart peer p).nextStamp = s.nextStamp := rfl
@[simp] theorem setPart_cur (s : State) (peer : Nat) (p : Partition) : (s.setPart peer p).cur = s.cur := rfl
@[simp] theorem setPart_agenda (s : State) (peer : Nat) (p : Partition) : (s.setPart peer p).agenda = s.agenda := rfl
@[simp] theorem setPart_disp (s : State) (peer : Nat) (p : Partition) : (s.setPart peer p).disp = s.disp := rfl

@[simp] theorem setLine_mem (s : State) (pa : Nat) (m : LineMeta) : (s.setLine pa m).mem = s.mem := rfl
@[simp] theorem setLine_retiredPages (s : State) (pa : Nat) (m : LineMeta) : (s.setLine pa m).retiredPages = s.retiredPages := rfl
@[simp] theorem setLine_fencedChannels (s : State) (pa : Nat) (m : LineMeta) : (s.setLine pa m).fencedChannels = s.fencedChannels := rfl
@[simp] theorem setLine_fenceRecords (s : State) (pa : Nat) (m : LineMeta) : (s.setLine pa m).fenceRecords = s.fenceRecords := rfl
@[simp] theorem setLine_corrections (s : State) (pa : Nat) (m : LineMeta) : (s.setLine pa m).corrections = s.corrections := rfl
@[simp] theorem setLine_looms (s : State) (pa : Nat) (m : LineMeta) : (s.setLine pa m).looms = s.looms := rfl
@[simp] theorem setLine_bolts (s : State) (pa : Nat) (m : LineMeta) : (s.setLine pa m).bolts = s.bolts := rfl
@[simp] theorem setLine_panels (s : State) (pa : Nat) (m : LineMeta) : (s.setLine pa m).panels = s.panels := rfl
@[simp] theorem setLine_bobbins (s : State) (pa : Nat) (m : LineMeta) : (s.setLine pa m).bobbins = s.bobbins := rfl
@[simp] theorem setLine_tally (s : State) (pa : Nat) (m : LineMeta) : (s.setLine pa m).tally = s.tally := rfl
@[simp] theorem setLine_waiters (s : State) (pa : Nat) (m : LineMeta) : (s.setLine pa m).waiters = s.waiters := rfl
@[simp] theorem setLine_evals (s : State) (pa : Nat) (m : LineMeta) : (s.setLine pa m).evals = s.evals := rfl
@[simp] theorem setLine_tiles (s : State) (pa : Nat) (m : LineMeta) : (s.setLine pa m).tiles = s.tiles := rfl
@[simp] theorem setLine_stages (s : State) (pa : Nat) (m : LineMeta) : (s.setLine pa m).stages = s.stages := rfl
@[simp] theorem setLine_stash (s : State) (pa : Nat) (m : LineMeta) : (s.setLine pa m).stash = s.stash := rfl
@[simp] theorem setLine_stashOps (s : State) (pa : Nat) (m : LineMeta) : (s.setLine pa m).stashOps = s.stashOps := rfl
@[simp] theorem setLine_nextStash (s : State) (pa : Nat) (m : LineMeta) : (s.setLine pa m).nextStash = s.nextStash := rfl
@[simp] theorem setLine_parts (s : State) (pa : Nat) (m : LineMeta) : (s.setLine pa m).parts = s.parts := rfl
@[simp] theorem setLine_keptCounters (s : State) (pa : Nat) (m : LineMeta) : (s.setLine pa m).keptCounters = s.keptCounters := rfl
@[simp] theorem setLine_ports (s : State) (pa : Nat) (m : LineMeta) : (s.setLine pa m).ports = s.ports := rfl
@[simp] theorem setLine_requests (s : State) (pa : Nat) (m : LineMeta) : (s.setLine pa m).requests = s.requests := rfl
@[simp] theorem setLine_incoming (s : State) (pa : Nat) (m : LineMeta) : (s.setLine pa m).incoming = s.incoming := rfl
@[simp] theorem setLine_nextTag (s : State) (pa : Nat) (m : LineMeta) : (s.setLine pa m).nextTag = s.nextTag := rfl
@[simp] theorem setLine_sseqs (s : State) (pa : Nat) (m : LineMeta) : (s.setLine pa m).sseqs = s.sseqs := rfl
@[simp] theorem setLine_endpoints (s : State) (pa : Nat) (m : LineMeta) : (s.setLine pa m).endpoints = s.endpoints := rfl
@[simp] theorem setLine_combining (s : State) (pa : Nat) (m : LineMeta) : (s.setLine pa m).combining = s.combining := rfl
@[simp] theorem setLine_nextCombining (s : State) (pa : Nat) (m : LineMeta) : (s.setLine pa m).nextCombining = s.nextCombining := rfl
@[simp] theorem setLine_agate (s : State) (pa : Nat) (m : LineMeta) : (s.setLine pa m).agate = s.agate := rfl
@[simp] theorem setLine_out (s : State) (pa : Nat) (m : LineMeta) : (s.setLine pa m).out = s.out := rfl
@[simp] theorem setLine_freeIdx (s : State) (pa : Nat) (m : LineMeta) : (s.setLine pa m).freeIdx = s.freeIdx := rfl
@[simp] theorem setLine_nextStamp (s : State) (pa : Nat) (m : LineMeta) : (s.setLine pa m).nextStamp = s.nextStamp := rfl
@[simp] theorem setLine_cur (s : State) (pa : Nat) (m : LineMeta) : (s.setLine pa m).cur = s.cur := rfl
@[simp] theorem setLine_agenda (s : State) (pa : Nat) (m : LineMeta) : (s.setLine pa m).agenda = s.agenda := rfl
@[simp] theorem setLine_disp (s : State) (pa : Nat) (m : LineMeta) : (s.setLine pa m).disp = s.disp := rfl

@[simp] theorem setBarrier_retiredPages (s : State) (sp : Span) (b : Barrier) : (s.setBarrier sp b).retiredPages = s.retiredPages := setLine_retiredPages _ _ _
@[simp] theorem setBarrier_fencedChannels (s : State) (sp : Span) (b : Barrier) : (s.setBarrier sp b).fencedChannels = s.fencedChannels := setLine_fencedChannels _ _ _
@[simp] theorem setBarrier_fenceRecords (s : State) (sp : Span) (b : Barrier) : (s.setBarrier sp b).fenceRecords = s.fenceRecords := setLine_fenceRecords _ _ _
@[simp] theorem setBarrier_corrections (s : State) (sp : Span) (b : Barrier) : (s.setBarrier sp b).corrections = s.corrections := setLine_corrections _ _ _
@[simp] theorem setBarrier_looms (s : State) (sp : Span) (b : Barrier) : (s.setBarrier sp b).looms = s.looms := setLine_looms _ _ _
@[simp] theorem setBarrier_bolts (s : State) (sp : Span) (b : Barrier) : (s.setBarrier sp b).bolts = s.bolts := setLine_bolts _ _ _
@[simp] theorem setBarrier_panels (s : State) (sp : Span) (b : Barrier) : (s.setBarrier sp b).panels = s.panels := setLine_panels _ _ _
@[simp] theorem setBarrier_bobbins (s : State) (sp : Span) (b : Barrier) : (s.setBarrier sp b).bobbins = s.bobbins := setLine_bobbins _ _ _
@[simp] theorem setBarrier_tally (s : State) (sp : Span) (b : Barrier) : (s.setBarrier sp b).tally = s.tally := setLine_tally _ _ _
@[simp] theorem setBarrier_waiters (s : State) (sp : Span) (b : Barrier) : (s.setBarrier sp b).waiters = s.waiters := setLine_waiters _ _ _
@[simp] theorem setBarrier_evals (s : State) (sp : Span) (b : Barrier) : (s.setBarrier sp b).evals = s.evals := setLine_evals _ _ _
@[simp] theorem setBarrier_tiles (s : State) (sp : Span) (b : Barrier) : (s.setBarrier sp b).tiles = s.tiles := setLine_tiles _ _ _
@[simp] theorem setBarrier_stages (s : State) (sp : Span) (b : Barrier) : (s.setBarrier sp b).stages = s.stages := setLine_stages _ _ _
@[simp] theorem setBarrier_stash (s : State) (sp : Span) (b : Barrier) : (s.setBarrier sp b).stash = s.stash := setLine_stash _ _ _
@[simp] theorem setBarrier_stashOps (s : State) (sp : Span) (b : Barrier) : (s.setBarrier sp b).stashOps = s.stashOps := setLine_stashOps _ _ _
@[simp] theorem setBarrier_nextStash (s : State) (sp : Span) (b : Barrier) : (s.setBarrier sp b).nextStash = s.nextStash := setLine_nextStash _ _ _
@[simp] theorem setBarrier_parts (s : State) (sp : Span) (b : Barrier) : (s.setBarrier sp b).parts = s.parts := setLine_parts _ _ _
@[simp] theorem setBarrier_keptCounters (s : State) (sp : Span) (b : Barrier) : (s.setBarrier sp b).keptCounters = s.keptCounters := setLine_keptCounters _ _ _
@[simp] theorem setBarrier_ports (s : State) (sp : Span) (b : Barrier) : (s.setBarrier sp b).ports = s.ports := setLine_ports _ _ _
@[simp] theorem setBarrier_requests (s : State) (sp : Span) (b : Barrier) : (s.setBarrier sp b).requests = s.requests := setLine_requests _ _ _
@[simp] theorem setBarrier_incoming (s : State) (sp : Span) (b : Barrier) : (s.setBarrier sp b).incoming = s.incoming := setLine_incoming _ _ _
@[simp] theorem setBarrier_nextTag (s : State) (sp : Span) (b : Barrier) : (s.setBarrier sp b).nextTag = s.nextTag := setLine_nextTag _ _ _
@[simp] theorem setBarrier_sseqs (s : State) (sp : Span) (b : Barrier) : (s.setBarrier sp b).sseqs = s.sseqs := setLine_sseqs _ _ _
@[simp] theorem setBarrier_endpoints (s : State) (sp : Span) (b : Barrier) : (s.setBarrier sp b).endpoints = s.endpoints := setLine_endpoints _ _ _
@[simp] theorem setBarrier_combining (s : State) (sp : Span) (b : Barrier) : (s.setBarrier sp b).combining = s.combining := setLine_combining _ _ _
@[simp] theorem setBarrier_nextCombining (s : State) (sp : Span) (b : Barrier) : (s.setBarrier sp b).nextCombining = s.nextCombining := setLine_nextCombining _ _ _
@[simp] theorem setBarrier_agate (s : State) (sp : Span) (b : Barrier) : (s.setBarrier sp b).agate = s.agate := setLine_agate _ _ _
@[simp] theorem setBarrier_out (s : State) (sp : Span) (b : Barrier) : (s.setBarrier sp b).out = s.out := setLine_out _ _ _
@[simp] theorem setBarrier_freeIdx (s : State) (sp : Span) (b : Barrier) : (s.setBarrier sp b).freeIdx = s.freeIdx := setLine_freeIdx _ _ _
@[simp] theorem setBarrier_nextStamp (s : State) (sp : Span) (b : Barrier) : (s.setBarrier sp b).nextStamp = s.nextStamp := setLine_nextStamp _ _ _
@[simp] theorem setBarrier_cur (s : State) (sp : Span) (b : Barrier) : (s.setBarrier sp b).cur = s.cur := setLine_cur _ _ _
@[simp] theorem setBarrier_agenda (s : State) (sp : Span) (b : Barrier) : (s.setBarrier sp b).agenda = s.agenda := setLine_agenda _ _ _
@[simp] theorem setBarrier_disp (s : State) (sp : Span) (b : Barrier) : (s.setBarrier sp b).disp = s.disp := setLine_disp _ _ _

/-! ## The tables that an update leaves as they are -/

@[simp] theorem setLoom_at_bolt (s : State) (n : Nat) (l : Loom) (i : Nat) : (s.setLoom n l).bolt i = s.bolt i := rfl
@[simp] theorem setLoom_at_panel (s : State) (n : Nat) (l : Loom) (i : Nat) : (s.setLoom n l).panel i = s.panel i := rfl
@[simp] theorem setLoom_at_bobbin (s : State) (n : Nat) (l : Loom) (i : Nat) : (s.setLoom n l).bobbin i = s.bobbin i := rfl
@[simp] theorem setLoom_at_tile (s : State) (n : Nat) (l : Loom) (i : Nat) : (s.setLoom n l).tile i = s.tile i := rfl
@[simp] theorem setLoom_at_stage (s : State) (n : Nat) (l : Loom) (i j : Nat) : (s.setLoom n l).stage i j = s.stage i j := rfl
@[simp] theorem setLoom_at_port (s : State) (n : Nat) (l : Loom) (i : Nat) : (s.setLoom n l).port i = s.port i := rfl
@[simp] theorem setLoom_at_part (s : State) (n : Nat) (l : Loom) (i : Nat) : (s.setLoom n l).part? i = s.part? i := rfl
@[simp] theorem setLoom_at_line (s : State) (n : Nat) (l : Loom) (i : Nat) : (s.setLoom n l).line i = s.line i := rfl
@[simp] theorem setLoom_at_barrier (s : State) (n : Nat) (l : Loom) (i : Nat) : (s.setLoom n l).barrier i = s.barrier i := rfl

@[simp] theorem setCtxAt_at_bolt (s : State) (n : Nat) (ev : Bool) (c : Ctx) (i : Nat) : (s.setCtxAt n ev c).bolt i = s.bolt i := rfl
@[simp] theorem setCtxAt_at_panel (s : State) (n : Nat) (ev : Bool) (c : Ctx) (i : Nat) : (s.setCtxAt n ev c).panel i = s.panel i := rfl
@[simp] theorem setCtxAt_at_bobbin (s : State) (n : Nat) (ev : Bool) (c : Ctx) (i : Nat) : (s.setCtxAt n ev c).bobbin i = s.bobbin i := rfl
@[simp] theorem setCtxAt_at_tile (s : State) (n : Nat) (ev : Bool) (c : Ctx) (i : Nat) : (s.setCtxAt n ev c).tile i = s.tile i := rfl
@[simp] theorem setCtxAt_at_stage (s : State) (n : Nat) (ev : Bool) (c : Ctx) (i j : Nat) : (s.setCtxAt n ev c).stage i j = s.stage i j := rfl
@[simp] theorem setCtxAt_at_port (s : State) (n : Nat) (ev : Bool) (c : Ctx) (i : Nat) : (s.setCtxAt n ev c).port i = s.port i := rfl
@[simp] theorem setCtxAt_at_part (s : State) (n : Nat) (ev : Bool) (c : Ctx) (i : Nat) : (s.setCtxAt n ev c).part? i = s.part? i := rfl
@[simp] theorem setCtxAt_at_line (s : State) (n : Nat) (ev : Bool) (c : Ctx) (i : Nat) : (s.setCtxAt n ev c).line i = s.line i := rfl
@[simp] theorem setCtxAt_at_barrier (s : State) (n : Nat) (ev : Bool) (c : Ctx) (i : Nat) : (s.setCtxAt n ev c).barrier i = s.barrier i := rfl

@[simp] theorem setCtx_at_bolt (s : State) (c : Ctx) (i : Nat) : (s.setCtx c).bolt i = s.bolt i := rfl
@[simp] theorem setCtx_at_panel (s : State) (c : Ctx) (i : Nat) : (s.setCtx c).panel i = s.panel i := rfl
@[simp] theorem setCtx_at_bobbin (s : State) (c : Ctx) (i : Nat) : (s.setCtx c).bobbin i = s.bobbin i := rfl
@[simp] theorem setCtx_at_tile (s : State) (c : Ctx) (i : Nat) : (s.setCtx c).tile i = s.tile i := rfl
@[simp] theorem setCtx_at_stage (s : State) (c : Ctx) (i j : Nat) : (s.setCtx c).stage i j = s.stage i j := rfl
@[simp] theorem setCtx_at_port (s : State) (c : Ctx) (i : Nat) : (s.setCtx c).port i = s.port i := rfl
@[simp] theorem setCtx_at_part (s : State) (c : Ctx) (i : Nat) : (s.setCtx c).part? i = s.part? i := rfl
@[simp] theorem setCtx_at_line (s : State) (c : Ctx) (i : Nat) : (s.setCtx c).line i = s.line i := rfl
@[simp] theorem setCtx_at_barrier (s : State) (c : Ctx) (i : Nat) : (s.setCtx c).barrier i = s.barrier i := rfl

@[simp] theorem setBolt_at_loom (s : State) (n : Nat) (b : Bolt) (i : Nat) : (s.setBolt n b).loom i = s.loom i := rfl
@[simp] theorem setBolt_at_ctxAt (s : State) (n : Nat) (b : Bolt) (i : Nat) (e : Bool) : (s.setBolt n b).ctxAt i e = s.ctxAt i e := rfl
@[simp] theorem setBolt_at_panel (s : State) (n : Nat) (b : Bolt) (i : Nat) : (s.setBolt n b).panel i = s.panel i := rfl
@[simp] theorem setBolt_at_bobbin (s : State) (n : Nat) (b : Bolt) (i : Nat) : (s.setBolt n b).bobbin i = s.bobbin i := rfl
@[simp] theorem setBolt_at_tile (s : State) (n : Nat) (b : Bolt) (i : Nat) : (s.setBolt n b).tile i = s.tile i := rfl
@[simp] theorem setBolt_at_stage (s : State) (n : Nat) (b : Bolt) (i j : Nat) : (s.setBolt n b).stage i j = s.stage i j := rfl
@[simp] theorem setBolt_at_port (s : State) (n : Nat) (b : Bolt) (i : Nat) : (s.setBolt n b).port i = s.port i := rfl
@[simp] theorem setBolt_at_part (s : State) (n : Nat) (b : Bolt) (i : Nat) : (s.setBolt n b).part? i = s.part? i := rfl
@[simp] theorem setBolt_at_line (s : State) (n : Nat) (b : Bolt) (i : Nat) : (s.setBolt n b).line i = s.line i := rfl
@[simp] theorem setBolt_at_barrier (s : State) (n : Nat) (b : Bolt) (i : Nat) : (s.setBolt n b).barrier i = s.barrier i := rfl

@[simp] theorem setPanel_at_loom (s : State) (n : Nat) (p : Panel) (i : Nat) : (s.setPanel n p).loom i = s.loom i := rfl
@[simp] theorem setPanel_at_ctxAt (s : State) (n : Nat) (p : Panel) (i : Nat) (e : Bool) : (s.setPanel n p).ctxAt i e = s.ctxAt i e := rfl
@[simp] theorem setPanel_at_bolt (s : State) (n : Nat) (p : Panel) (i : Nat) : (s.setPanel n p).bolt i = s.bolt i := rfl
@[simp] theorem setPanel_at_bobbin (s : State) (n : Nat) (p : Panel) (i : Nat) : (s.setPanel n p).bobbin i = s.bobbin i := rfl
@[simp] theorem setPanel_at_tile (s : State) (n : Nat) (p : Panel) (i : Nat) : (s.setPanel n p).tile i = s.tile i := rfl
@[simp] theorem setPanel_at_stage (s : State) (n : Nat) (p : Panel) (i j : Nat) : (s.setPanel n p).stage i j = s.stage i j := rfl
@[simp] theorem setPanel_at_port (s : State) (n : Nat) (p : Panel) (i : Nat) : (s.setPanel n p).port i = s.port i := rfl
@[simp] theorem setPanel_at_part (s : State) (n : Nat) (p : Panel) (i : Nat) : (s.setPanel n p).part? i = s.part? i := rfl
@[simp] theorem setPanel_at_line (s : State) (n : Nat) (p : Panel) (i : Nat) : (s.setPanel n p).line i = s.line i := rfl
@[simp] theorem setPanel_at_barrier (s : State) (n : Nat) (p : Panel) (i : Nat) : (s.setPanel n p).barrier i = s.barrier i := rfl

@[simp] theorem setBobbin_at_loom (s : State) (k : Nat) (b : Bobbin) (i : Nat) : (s.setBobbin k b).loom i = s.loom i := rfl
@[simp] theorem setBobbin_at_ctxAt (s : State) (k : Nat) (b : Bobbin) (i : Nat) (e : Bool) : (s.setBobbin k b).ctxAt i e = s.ctxAt i e := rfl
@[simp] theorem setBobbin_at_bolt (s : State) (k : Nat) (b : Bobbin) (i : Nat) : (s.setBobbin k b).bolt i = s.bolt i := rfl
@[simp] theorem setBobbin_at_panel (s : State) (k : Nat) (b : Bobbin) (i : Nat) : (s.setBobbin k b).panel i = s.panel i := rfl
@[simp] theorem setBobbin_at_tile (s : State) (k : Nat) (b : Bobbin) (i : Nat) : (s.setBobbin k b).tile i = s.tile i := rfl
@[simp] theorem setBobbin_at_stage (s : State) (k : Nat) (b : Bobbin) (i j : Nat) : (s.setBobbin k b).stage i j = s.stage i j := rfl
@[simp] theorem setBobbin_at_port (s : State) (k : Nat) (b : Bobbin) (i : Nat) : (s.setBobbin k b).port i = s.port i := rfl
@[simp] theorem setBobbin_at_part (s : State) (k : Nat) (b : Bobbin) (i : Nat) : (s.setBobbin k b).part? i = s.part? i := rfl
@[simp] theorem setBobbin_at_line (s : State) (k : Nat) (b : Bobbin) (i : Nat) : (s.setBobbin k b).line i = s.line i := rfl
@[simp] theorem setBobbin_at_barrier (s : State) (k : Nat) (b : Bobbin) (i : Nat) : (s.setBobbin k b).barrier i = s.barrier i := rfl

@[simp] theorem setTile_at_loom (s : State) (n : Nat) (x : Tile) (i : Nat) : (s.setTile n x).loom i = s.loom i := rfl
@[simp] theorem setTile_at_ctxAt (s : State) (n : Nat) (x : Tile) (i : Nat) (e : Bool) : (s.setTile n x).ctxAt i e = s.ctxAt i e := rfl
@[simp] theorem setTile_at_bolt (s : State) (n : Nat) (x : Tile) (i : Nat) : (s.setTile n x).bolt i = s.bolt i := rfl
@[simp] theorem setTile_at_panel (s : State) (n : Nat) (x : Tile) (i : Nat) : (s.setTile n x).panel i = s.panel i := rfl
@[simp] theorem setTile_at_bobbin (s : State) (n : Nat) (x : Tile) (i : Nat) : (s.setTile n x).bobbin i = s.bobbin i := rfl
@[simp] theorem setTile_at_stage (s : State) (n : Nat) (x : Tile) (i j : Nat) : (s.setTile n x).stage i j = s.stage i j := rfl
@[simp] theorem setTile_at_port (s : State) (n : Nat) (x : Tile) (i : Nat) : (s.setTile n x).port i = s.port i := rfl
@[simp] theorem setTile_at_part (s : State) (n : Nat) (x : Tile) (i : Nat) : (s.setTile n x).part? i = s.part? i := rfl
@[simp] theorem setTile_at_line (s : State) (n : Nat) (x : Tile) (i : Nat) : (s.setTile n x).line i = s.line i := rfl
@[simp] theorem setTile_at_barrier (s : State) (n : Nat) (x : Tile) (i : Nat) : (s.setTile n x).barrier i = s.barrier i := rfl

@[simp] theorem setStage_at_loom (s : State) (panel idx : Nat) (x : Stage) (i : Nat) : (s.setStage panel idx x).loom i = s.loom i := rfl
@[simp] theorem setStage_at_ctxAt (s : State) (panel idx : Nat) (x : Stage) (i : Nat) (e : Bool) : (s.setStage panel idx x).ctxAt i e = s.ctxAt i e := rfl
@[simp] theorem setStage_at_bolt (s : State) (panel idx : Nat) (x : Stage) (i : Nat) : (s.setStage panel idx x).bolt i = s.bolt i := rfl
@[simp] theorem setStage_at_panel (s : State) (panel idx : Nat) (x : Stage) (i : Nat) : (s.setStage panel idx x).panel i = s.panel i := rfl
@[simp] theorem setStage_at_bobbin (s : State) (panel idx : Nat) (x : Stage) (i : Nat) : (s.setStage panel idx x).bobbin i = s.bobbin i := rfl
@[simp] theorem setStage_at_tile (s : State) (panel idx : Nat) (x : Stage) (i : Nat) : (s.setStage panel idx x).tile i = s.tile i := rfl
@[simp] theorem setStage_at_port (s : State) (panel idx : Nat) (x : Stage) (i : Nat) : (s.setStage panel idx x).port i = s.port i := rfl
@[simp] theorem setStage_at_part (s : State) (panel idx : Nat) (x : Stage) (i : Nat) : (s.setStage panel idx x).part? i = s.part? i := rfl
@[simp] theorem setStage_at_line (s : State) (panel idx : Nat) (x : Stage) (i : Nat) : (s.setStage panel idx x).line i = s.line i := rfl
@[simp] theorem setStage_at_barrier (s : State) (panel idx : Nat) (x : Stage) (i : Nat) : (s.setStage panel idx x).barrier i = s.barrier i := rfl

@[simp] theorem setPort_at_loom (s : State) (q : Nat) (p : Port) (i : Nat) : (s.setPort q p).loom i = s.loom i := rfl
@[simp] theorem setPort_at_ctxAt (s : State) (q : Nat) (p : Port) (i : Nat) (e : Bool) : (s.setPort q p).ctxAt i e = s.ctxAt i e := rfl
@[simp] theorem setPort_at_bolt (s : State) (q : Nat) (p : Port) (i : Nat) : (s.setPort q p).bolt i = s.bolt i := rfl
@[simp] theorem setPort_at_panel (s : State) (q : Nat) (p : Port) (i : Nat) : (s.setPort q p).panel i = s.panel i := rfl
@[simp] theorem setPort_at_bobbin (s : State) (q : Nat) (p : Port) (i : Nat) : (s.setPort q p).bobbin i = s.bobbin i := rfl
@[simp] theorem setPort_at_tile (s : State) (q : Nat) (p : Port) (i : Nat) : (s.setPort q p).tile i = s.tile i := rfl
@[simp] theorem setPort_at_stage (s : State) (q : Nat) (p : Port) (i j : Nat) : (s.setPort q p).stage i j = s.stage i j := rfl
@[simp] theorem setPort_at_part (s : State) (q : Nat) (p : Port) (i : Nat) : (s.setPort q p).part? i = s.part? i := rfl
@[simp] theorem setPort_at_line (s : State) (q : Nat) (p : Port) (i : Nat) : (s.setPort q p).line i = s.line i := rfl
@[simp] theorem setPort_at_barrier (s : State) (q : Nat) (p : Port) (i : Nat) : (s.setPort q p).barrier i = s.barrier i := rfl

@[simp] theorem setPart_at_loom (s : State) (peer : Nat) (p : Partition) (i : Nat) : (s.setPart peer p).loom i = s.loom i := rfl
@[simp] theorem setPart_at_ctxAt (s : State) (peer : Nat) (p : Partition) (i : Nat) (e : Bool) : (s.setPart peer p).ctxAt i e = s.ctxAt i e := rfl
@[simp] theorem setPart_at_bolt (s : State) (peer : Nat) (p : Partition) (i : Nat) : (s.setPart peer p).bolt i = s.bolt i := rfl
@[simp] theorem setPart_at_panel (s : State) (peer : Nat) (p : Partition) (i : Nat) : (s.setPart peer p).panel i = s.panel i := rfl
@[simp] theorem setPart_at_bobbin (s : State) (peer : Nat) (p : Partition) (i : Nat) : (s.setPart peer p).bobbin i = s.bobbin i := rfl
@[simp] theorem setPart_at_tile (s : State) (peer : Nat) (p : Partition) (i : Nat) : (s.setPart peer p).tile i = s.tile i := rfl
@[simp] theorem setPart_at_stage (s : State) (peer : Nat) (p : Partition) (i j : Nat) : (s.setPart peer p).stage i j = s.stage i j := rfl
@[simp] theorem setPart_at_port (s : State) (peer : Nat) (p : Partition) (i : Nat) : (s.setPart peer p).port i = s.port i := rfl
@[simp] theorem setPart_at_line (s : State) (peer : Nat) (p : Partition) (i : Nat) : (s.setPart peer p).line i = s.line i := rfl
@[simp] theorem setPart_at_barrier (s : State) (peer : Nat) (p : Partition) (i : Nat) : (s.setPart peer p).barrier i = s.barrier i := rfl

@[simp] theorem setLine_at_loom (s : State) (pa : Nat) (m : LineMeta) (i : Nat) : (s.setLine pa m).loom i = s.loom i := rfl
@[simp] theorem setLine_at_ctxAt (s : State) (pa : Nat) (m : LineMeta) (i : Nat) (e : Bool) : (s.setLine pa m).ctxAt i e = s.ctxAt i e := rfl
@[simp] theorem setLine_at_bolt (s : State) (pa : Nat) (m : LineMeta) (i : Nat) : (s.setLine pa m).bolt i = s.bolt i := rfl
@[simp] theorem setLine_at_panel (s : State) (pa : Nat) (m : LineMeta) (i : Nat) : (s.setLine pa m).panel i = s.panel i := rfl
@[simp] theorem setLine_at_bobbin (s : State) (pa : Nat) (m : LineMeta) (i : Nat) : (s.setLine pa m).bobbin i = s.bobbin i := rfl
@[simp] theorem setLine_at_tile (s : State) (pa : Nat) (m : LineMeta) (i : Nat) : (s.setLine pa m).tile i = s.tile i := rfl
@[simp] theorem setLine_at_stage (s : State) (pa : Nat) (m : LineMeta) (i j : Nat) : (s.setLine pa m).stage i j = s.stage i j := rfl
@[simp] theorem setLine_at_port (s : State) (pa : Nat) (m : LineMeta) (i : Nat) : (s.setLine pa m).port i = s.port i := rfl
@[simp] theorem setLine_at_part (s : State) (pa : Nat) (m : LineMeta) (i : Nat) : (s.setLine pa m).part? i = s.part? i := rfl
@[simp] theorem setLine_at_barrier (s : State) (pa : Nat) (m : LineMeta) (i : Nat) : (s.setLine pa m).barrier i = s.barrier i := rfl

@[simp] theorem setBarrier_at_loom (s : State) (sp : Span) (b : Barrier) (i : Nat) : (s.setBarrier sp b).loom i = s.loom i := by simp only [State.loom, setBarrier_looms]
@[simp] theorem setBarrier_at_ctxAt (s : State) (sp : Span) (b : Barrier) (i : Nat) (e : Bool) : (s.setBarrier sp b).ctxAt i e = s.ctxAt i e := by simp only [State.ctxAt, State.loom, setBarrier_looms]
@[simp] theorem setBarrier_at_bolt (s : State) (sp : Span) (b : Barrier) (i : Nat) : (s.setBarrier sp b).bolt i = s.bolt i := by simp only [State.bolt, setBarrier_bolts]
@[simp] theorem setBarrier_at_panel (s : State) (sp : Span) (b : Barrier) (i : Nat) : (s.setBarrier sp b).panel i = s.panel i := by simp only [State.panel, setBarrier_panels]
@[simp] theorem setBarrier_at_bobbin (s : State) (sp : Span) (b : Barrier) (i : Nat) : (s.setBarrier sp b).bobbin i = s.bobbin i := by simp only [State.bobbin, setBarrier_bobbins]
@[simp] theorem setBarrier_at_tile (s : State) (sp : Span) (b : Barrier) (i : Nat) : (s.setBarrier sp b).tile i = s.tile i := by simp only [State.tile, setBarrier_tiles]
@[simp] theorem setBarrier_at_stage (s : State) (sp : Span) (b : Barrier) (i j : Nat) : (s.setBarrier sp b).stage i j = s.stage i j := by simp only [State.stage, setBarrier_stages]
@[simp] theorem setBarrier_at_port (s : State) (sp : Span) (b : Barrier) (i : Nat) : (s.setBarrier sp b).port i = s.port i := by simp only [State.port, setBarrier_ports]
@[simp] theorem setBarrier_at_part (s : State) (sp : Span) (b : Barrier) (i : Nat) : (s.setBarrier sp b).part? i = s.part? i := by simp only [State.part?, setBarrier_parts]

/-! ## Reading what an update has written -/

@[simp] theorem loom_setLoom (s : State) (n : Nat) (l : Loom) : (s.setLoom n l).loom n = l := getD_set_self _ _ _ _
theorem loom_setLoom_ne (s : State) {i n : Nat} (l : Loom) (h : i ≠ n) : (s.setLoom n l).loom i = s.loom i := getD_set_ne _ _ _ h
@[simp] theorem setLoom_setLoom (s : State) (n : Nat) (l m : Loom) : (s.setLoom n l).setLoom n m = s.setLoom n m := by
  simp [State.setLoom]
@[simp] theorem bolt_setBolt (s : State) (n : Nat) (b : Bolt) : (s.setBolt n b).bolt n = b := getD_set_self _ _ _ _
theorem bolt_setBolt_ne (s : State) {i n : Nat} (b : Bolt) (h : i ≠ n) : (s.setBolt n b).bolt i = s.bolt i := getD_set_ne _ _ _ h
@[simp] theorem panel_setPanel (s : State) (n : Nat) (p : Panel) : (s.setPanel n p).panel n = p := getD_set_self _ _ _ _
theorem panel_setPanel_ne (s : State) {i n : Nat} (p : Panel) (h : i ≠ n) : (s.setPanel n p).panel i = s.panel i :=
  getD_set_ne _ _ _ h
@[simp] theorem bobbin_setBobbin (s : State) (k : Nat) (b : Bobbin) : (s.setBobbin k b).bobbin k = b := getD_set_self _ _ _ _
@[simp] theorem tile_setTile (s : State) (n : Nat) (x : Tile) : (s.setTile n x).tile n = x := getD_set_self _ _ _ _
@[simp] theorem stage_setStage (s : State) (panel idx : Nat) (x : Stage) : (s.setStage panel idx x).stage panel idx = x :=
  getD_set_self _ _ _ _
@[simp] theorem port_setPort (s : State) (q : Nat) (p : Port) : (s.setPort q p).port q = p := getD_set_self _ _ _ _
theorem port_setPort_ne (s : State) {i q : Nat} (p : Port) (h : i ≠ q) : (s.setPort q p).port i = s.port i := getD_set_ne _ _ _ h
@[simp] theorem part_setPart (s : State) (peer : Nat) (p : Partition) : (s.setPart peer p).part? peer = some p := find_set_self _ _ _
theorem part_setPart_ne (s : State) {i peer : Nat} (p : Partition) (h : i ≠ peer) : (s.setPart peer p).part? i = s.part? i :=
  find_set_ne _ _ h

/-- A loom's context after it has been replaced. -/
@[simp] theorem ctx_setCtx (l : Loom) (ev : Bool) (c : Ctx) : (l.setCtx ev c).ctx ev = c := by cases ev <;> rfl
/-- The other context of the loom. -/
theorem ctx_setCtx_ne (l : Loom) {e ev : Bool} (c : Ctx) (h : e ≠ ev) : (l.setCtx ev c).ctx e = l.ctx e := by
  cases ev <;> cases e <;> first | rfl | exact absurd rfl h
@[simp] theorem setCtx_l1 (l : Loom) (ev : Bool) (c : Ctx) : (l.setCtx ev c).l1 = l.l1 := by cases ev <;> rfl
@[simp] theorem setCtx_icache (l : Loom) (ev : Bool) (c : Ctx) : (l.setCtx ev c).icache = l.icache := by cases ev <;> rfl
@[simp] theorem setCtx_evalQ (l : Loom) (ev : Bool) (c : Ctx) : (l.setCtx ev c).evalQ = l.evalQ := by cases ev <;> rfl
@[simp] theorem setCtx_twice (l : Loom) (ev : Bool) (c d : Ctx) : (l.setCtx ev c).setCtx ev d = l.setCtx ev d := by cases ev <;> rfl
@[simp] theorem ctxAt_setCtxAt (s : State) (n : Nat) (ev : Bool) (c : Ctx) : (s.setCtxAt n ev c).ctxAt n ev = c := by
  simp [State.ctxAt, State.setCtxAt]
theorem ctxAt_setCtxAt_ne (s : State) {i n : Nat} (e ev : Bool) (c : Ctx) (h : i ≠ n) : (s.setCtxAt n ev c).ctxAt i e = s.ctxAt i e := by
  simp [State.ctxAt, State.setCtxAt, loom_setLoom_ne _ _ h]
@[simp] theorem setCtxAt_setCtxAt (s : State) (n : Nat) (ev : Bool) (c d : Ctx) :
    (s.setCtxAt n ev c).setCtxAt n ev d = s.setCtxAt n ev d := by
  simp [State.setCtxAt]
@[simp] theorem ctx_setCtx_state (s : State) (c : Ctx) : (s.setCtx c).ctx = c := ctxAt_setCtxAt s _ _ c
@[simp] theorem setCtx_setCtx_state (s : State) (c d : Ctx) : (s.setCtx c).setCtx d = s.setCtx d := setCtxAt_setCtxAt s _ _ c d
@[simp] theorem loom_l1_setCtxAt (s : State) (n : Nat) (ev : Bool) (c : Ctx) : ((s.setCtxAt n ev c).loom n).l1 = (s.loom n).l1 := by
  simp [State.setCtxAt]
@[simp] theorem loom_icache_setCtxAt (s : State) (n : Nat) (ev : Bool) (c : Ctx) :
    ((s.setCtxAt n ev c).loom n).icache = (s.loom n).icache := by
  simp [State.setCtxAt]

/-! ## An engine's sequencer in its context -/

@[simp] theorem eng_setEng (c : Ctx) (e : Eng) (g : Engine) : (c.setEng e g).eng e = g := by cases e <;> rfl
theorem eng_setEng_ne (c : Ctx) {d e : Eng} (g : Engine) (h : d ≠ e) : (c.setEng e g).eng d = c.eng d := by
  cases e <;> cases d <;> first | rfl | exact absurd rfl h
@[simp] theorem setEng_setEng (c : Ctx) (e : Eng) (g h : Engine) : (c.setEng e g).setEng e h = c.setEng e h := by cases e <;> rfl

@[simp] theorem setEng_act (c : Ctx) (e : Eng) (g : Engine) : (c.setEng e g).act = c.act := by cases e <;> rfl
@[simp] theorem setEng_peer (c : Ctx) (e : Eng) (g : Engine) : (c.setEng e g).peer = c.peer := by cases e <;> rfl
@[simp] theorem setEng_a (c : Ctx) (e : Eng) (g : Engine) : (c.setEng e g).a = c.a := by cases e <;> rfl
@[simp] theorem setEng_s (c : Ctx) (e : Eng) (g : Engine) : (c.setEng e g).s = c.s := by cases e <;> rfl
@[simp] theorem setEng_v (c : Ctx) (e : Eng) (g : Engine) : (c.setEng e g).v = c.v := by cases e <;> rfl
@[simp] theorem setEng_k (c : Ctx) (e : Eng) (g : Engine) : (c.setEng e g).k = c.k := by cases e <;> rfl
@[simp] theorem setEng_vshape (c : Ctx) (e : Eng) (g : Engine) : (c.setEng e g).vshape = c.vshape := by cases e <;> rfl
@[simp] theorem setEng_flags (c : Ctx) (e : Eng) (g : Engine) : (c.setEng e g).flags = c.flags := by cases e <;> rfl
@[simp] theorem setEng_pickFlags (c : Ctx) (e : Eng) (g : Engine) : (c.setEng e g).pickFlags = c.pickFlags := by cases e <;> rfl
@[simp] theorem setEng_ftx (c : Ctx) (e : Eng) (g : Engine) : (c.setEng e g).ftx = c.ftx := by cases e <;> rfl
@[simp] theorem setEng_g (c : Ctx) (e : Eng) (g : Engine) : (c.setEng e g).g = c.g := by cases e <;> rfl
@[simp] theorem setEng_picktag (c : Ctx) (e : Eng) (g : Engine) : (c.setEng e g).picktag = c.picktag := by cases e <;> rfl
@[simp] theorem setEng_pass (c : Ctx) (e : Eng) (g : Engine) : (c.setEng e g).pass = c.pass := by cases e <;> rfl
@[simp] theorem setEng_wver (c : Ctx) (e : Eng) (g : Engine) : (c.setEng e g).wver = c.wver := by cases e <;> rfl
@[simp] theorem setEng_gangid (c : Ctx) (e : Eng) (g : Engine) : (c.setEng e g).gangid = c.gangid := by cases e <;> rfl
@[simp] theorem setEng_slipw (c : Ctx) (e : Eng) (g : Engine) : (c.setEng e g).slipw = c.slipw := by cases e <;> rfl
@[simp] theorem setEng_ftbase (c : Ctx) (e : Eng) (g : Engine) : (c.setEng e g).ftbase = c.ftbase := by cases e <;> rfl
@[simp] theorem setEng_tvec (c : Ctx) (e : Eng) (g : Engine) : (c.setEng e g).tvec = c.tvec := by cases e <;> rfl
@[simp] theorem setEng_tframe (c : Ctx) (e : Eng) (g : Engine) : (c.setEng e g).tframe = c.tframe := by cases e <;> rfl
@[simp] theorem setEng_tcause (c : Ctx) (e : Eng) (g : Engine) : (c.setEng e g).tcause = c.tcause := by cases e <;> rfl
@[simp] theorem setEng_lq (c : Ctx) (e : Eng) (g : Engine) : (c.setEng e g).lq = c.lq := by cases e <;> rfl
@[simp] theorem setEng_sq (c : Ctx) (e : Eng) (g : Engine) : (c.setEng e g).sq = c.sq := by cases e <;> rfl
@[simp] theorem setEng_bq (c : Ctx) (e : Eng) (g : Engine) : (c.setEng e g).bq = c.bq := by cases e <;> rfl
@[simp] theorem setEng_tokAX (c : Ctx) (e : Eng) (g : Engine) : (c.setEng e g).tokAX = c.tokAX := by cases e <;> rfl
@[simp] theorem setEng_tokXA (c : Ctx) (e : Eng) (g : Engine) : (c.setEng e g).tokXA = c.tokXA := by cases e <;> rfl
@[simp] theorem setEng_resAX (c : Ctx) (e : Eng) (g : Engine) : (c.setEng e g).resAX = c.resAX := by cases e <;> rfl
@[simp] theorem setEng_resXA (c : Ctx) (e : Eng) (g : Engine) : (c.setEng e g).resXA = c.resXA := by cases e <;> rfl
@[simp] theorem setEng_inFlight (c : Ctx) (e : Eng) (g : Engine) : (c.setEng e g).inFlight = c.inFlight := by cases e <;> rfl
@[simp] theorem setEng_accs (c : Ctx) (e : Eng) (g : Engine) : (c.setEng e g).accs = c.accs := by cases e <;> rfl
@[simp] theorem setEng_outs (c : Ctx) (e : Eng) (g : Engine) : (c.setEng e g).outs = c.outs := by cases e <;> rfl
@[simp] theorem setEng_nextId (c : Ctx) (e : Eng) (g : Engine) : (c.setEng e g).nextId = c.nextId := by cases e <;> rfl
@[simp] theorem setEng_fences (c : Ctx) (e : Eng) (g : Engine) : (c.setEng e g).fences = c.fences := by cases e <;> rfl
@[simp] theorem setEng_rels (c : Ctx) (e : Eng) (g : Engine) : (c.setEng e g).rels = c.rels := by cases e <;> rfl
@[simp] theorem setEng_seen (c : Ctx) (e : Eng) (g : Engine) : (c.setEng e g).seen = c.seen := by cases e <;> rfl
@[simp] theorem setEng_barWait (c : Ctx) (e : Eng) (g : Engine) : (c.setEng e g).barWait = c.barWait := by cases e <;> rfl
@[simp] theorem setEng_barSeen (c : Ctx) (e : Eng) (g : Engine) : (c.setEng e g).barSeen = c.barSeen := by cases e <;> rfl
@[simp] theorem setEng_operands (c : Ctx) (e : Eng) (g : Engine) : (c.setEng e g).operands = c.operands := by cases e <;> rfl
@[simp] theorem setEng_seq (c : Ctx) (e : Eng) (g : Engine) : (c.setEng e g).seq = c.seq := by cases e <;> rfl
@[simp] theorem setEng_cmds (c : Ctx) (e : Eng) (g : Engine) : (c.setEng e g).cmds = c.cmds := by cases e <;> rfl
@[simp] theorem setEng_copyLoad (c : Ctx) (e : Eng) (g : Engine) : (c.setEng e g).copyLoad = c.copyLoad := by cases e <;> rfl
@[simp] theorem setEng_copyStore (c : Ctx) (e : Eng) (g : Engine) : (c.setEng e g).copyStore = c.copyStore := by cases e <;> rfl
@[simp] theorem setEng_accOps (c : Ctx) (e : Eng) (g : Engine) : (c.setEng e g).accOps = c.accOps := by cases e <;> rfl
@[simp] theorem setEng_detCyc (c : Ctx) (e : Eng) (g : Engine) : (c.setEng e g).detCyc = c.detCyc := by cases e <;> rfl
@[simp] theorem setEng_xferEnd (c : Ctx) (e : Eng) (g : Engine) : (c.setEng e g).xferEnd = c.xferEnd := by cases e <;> rfl
@[simp] theorem setEng_ahead (c : Ctx) (e : Eng) (g : Engine) : (c.setEng e g).ahead = c.ahead := by cases e <;> rfl
@[simp] theorem setEng_rvz (c : Ctx) (e : Eng) (g : Engine) : (c.setEng e g).rvz = c.rvz := by cases e <;> rfl
@[simp] theorem setEng_stop (c : Ctx) (e : Eng) (g : Engine) : (c.setEng e g).stop = c.stop := by cases e <;> rfl
@[simp] theorem setEng_more (c : Ctx) (e : Eng) (g : Engine) : (c.setEng e g).more = c.more := by cases e <;> rfl
@[simp] theorem setEng_req (c : Ctx) (e : Eng) (g : Engine) : (c.setEng e g).req = c.req := by cases e <;> rfl
@[simp] theorem setEng_eval (c : Ctx) (e : Eng) (g : Engine) : (c.setEng e g).eval = c.eval := by cases e <;> rfl
@[simp] theorem setEng_pick (c : Ctx) (e : Eng) (g : Engine) : (c.setEng e g).pick = c.pick := by cases e <;> rfl
@[simp] theorem setEng_yielding (c : Ctx) (e : Eng) (g : Engine) : (c.setEng e g).yielding = c.yielding := by cases e <;> rfl
@[simp] theorem setEng_faulted (c : Ctx) (e : Eng) (g : Engine) : (c.setEng e g).faulted = c.faulted := by cases e <;> rfl
@[simp] theorem setEng_cancelled (c : Ctx) (e : Eng) (g : Engine) : (c.setEng e g).cancelled = c.cancelled := by cases e <;> rfl
@[simp] theorem setEng_kept (c : Ctx) (e : Eng) (g : Engine) : (c.setEng e g).kept = c.kept := by cases e <;> rfl
@[simp] theorem setEng_safept (c : Ctx) (e : Eng) (g : Engine) : (c.setEng e g).safept = c.safept := by cases e <;> rfl
@[simp] theorem setEng_plane (c : Ctx) (e : Eng) (g : Engine) : (c.setEng e g).plane = c.plane := by cases e <;> rfl
@[simp] theorem setEng_lastStore (c : Ctx) (e : Eng) (g : Engine) : (c.setEng e g).lastStore = c.lastStore := by cases e <;> rfl

end Sys2Proof.Laws
end

