-- ==== Sys2Proof/Laws/Clean.lean ====
section
/-!
SUPPORT. Memory in which nothing has gone wrong: no line has metadata, no page is retired, no channel fenced and no panel failed. An
access to it meets no fault, and a write to a page without Z leaves it so.
-/

namespace Sys2Proof.Laws

open Sys2Proof Sys2Proof.Machine

/-- No line has metadata other than that of reset, no page is retired, no channel is fenced, no panel has failed. -/
def Sound (s : State) : Prop :=
  s.lineMeta = [] ∧ s.retiredPages = [] ∧ s.fencedChannels = [] ∧ s.panels.all (fun x => !x.2.faulted) = true

theorem sound_line {s : State} (h : Sound s) (pa : Nat) : s.line pa = {} := by
  simp [State.line, h.1, SMap.getD, SMap.find?]

/-- What every entry of a table holds, its value at a key holds, if the value of unlisted keys does. -/
theorem getD_all {α : Type} (f : α → Bool) (d : α) (hd : f d = true) (k : Nat) :
    ∀ m : SMap α, m.all (fun x => f x.2) = true → f (SMap.getD m k d) = true := by
  intro m
  induction m with
  | nil => exact fun _ => hd
  | cons x r ih =>
    obtain ⟨k', v⟩ := x
    intro h
    simp only [List.all_cons, Bool.and_eq_true] at h
    simp only [SMap.getD, SMap.find?] at ih ⊢
    split
    · exact h.1
    · split
      · exact hd
      · exact ih h.2

theorem sound_panel {s : State} (h : Sound s) (n : Nat) : (s.panel n).faulted = false := by
  simpa [State.panel] using getD_all (fun p : Panel => !p.faulted) {} rfl n s.panels h.2.2.2

/-- A sound line answers every access. -/
theorem meetLine_sound {s : State} (h : Sound s) (pa va : Nat) (at' : BitVec 8) (whole : Bool) (reads : BitVec 4) :
    s.meetLine pa va at' whole reads = (s, none) := by
  simp [State.meetLine, State.pageRetired, SMap.find?, Damage.in', sound_line h, sound_panel h, h.2.1, h.2.2.1]

theorem suspended_sound {s : State} (h : Sound s) (pa : Nat) : s.suspended pa = false := by
  simp [State.suspended, sound_line h]

theorem meetsCell_sound {s : State} (h : Sound s) (p : Piece) (at' : BitVec 8) : s.meetsCell p at' = false := by
  simp [State.meetsCell, suspended_sound h]

theorem meetsSuspension_sound {s : State} (h : Sound s) (sps : List Span) : s.meetsSuspension sps = false := by
  simp [State.meetsSuspension, meetsCell_sound h]

/-- A read of sound memory gives its bytes. -/
theorem readPieces_sound {s : State} (h : Sound s) (at' : BitVec 8) (ps : List Piece) :
    s.readPieces at' ps = (s, ps.flatMap (fun p => Memory.readN s.mem p.pa p.len), none) := by
  induction ps with
  | nil => rfl
  | cons p r ih => simp [State.readPieces, meetLine_sound h, ih]

theorem readSpan_sound {s : State} (h : Sound s) (sp : Span) :
    s.readSpan sp = (s, sp.pieces.flatMap (fun p => Memory.readN s.mem p.pa p.len), none) := readPieces_sound h sp.attrs sp.pieces

theorem readSpans_sound {s : State} (h : Sound s) (sps : List Span) :
    s.readSpans sps = (s, sps.flatMap (fun sp => sp.pieces.flatMap (fun p => Memory.readN s.mem p.pa p.len)), none) := by
  induction sps with
  | nil => rfl
  | cons sp r ih => simp [State.readSpans, State.readSpan, readPieces_sound h, ih]

/-- A piece written to a page without Z leaves memory sound. -/
theorem putPiece_sound {s : State} (h : Sound s) (at' : BitVec 8) (hz : at'.getLsbD attrZ = false) (p : Piece) (bs : List Byte) :
    Sound (s.putPiece at' p bs) := by
  have hm : ({ s with mem := Memory.writeN s.mem p.pa bs } : State).metaAfter p.pa at' (p.len == 128) = {} := by
    have hl : ({ s with mem := Memory.writeN s.mem p.pa bs } : State).line p.pa = {} := sound_line (s := { s with mem := _ }) h p.pa
    unfold State.metaAfter
    rw [hl, hz]
    cases p.len == 128 <;> simp
  have hs : ({ s with mem := Memory.writeN s.mem p.pa bs } : State).setLine p.pa {} =
      { s with mem := Memory.writeN s.mem p.pa bs, lineMeta := SMap.erase s.lineMeta (p.pa / 128) } := by
    simp [State.setLine]
  unfold State.putPiece
  simp only [hm, hs]
  exact ⟨by simp [h.1, SMap.erase], h.2⟩

theorem writePieces_sound {s : State} (h : Sound s) (at' : BitVec 8) (hz : at'.getLsbD attrZ = false) (data : List Byte) (ps : List Piece) :
    Sound (s.writePieces at' data ps).1 ∧ (s.writePieces at' data ps).2.2 = none := by
  induction ps generalizing s with
  | nil => exact ⟨h, rfl⟩
  | cons p r ih =>
    simp only [State.writePieces, State.refusesStore, suspended_sound h, meetLine_sound h]
    exact ih (putPiece_sound h at' hz p _)

theorem writeRuns_sound {s : State} (h : Sound s) (data : List Byte) (sps : List Span)
    (hz : ∀ sp ∈ sps, sp.attrs.getLsbD attrZ = false) :
    Sound (s.writeRuns data sps).1 ∧ (s.writeRuns data sps).2.2 = none := by
  induction sps generalizing s with
  | nil => exact ⟨h, rfl⟩
  | cons sp r ih =>
    have hw := writePieces_sound h sp.attrs (hz sp (by simp)) data sp.pieces
    simp only [State.writeRuns]
    revert hw
    generalize s.writePieces sp.attrs data sp.pieces = x
    obtain ⟨u, rs, f⟩ := x
    rintro ⟨hu, rfl⟩
    exact ih hu (fun x hx => hz x (by simp [hx]))

theorem writeSpans_sound {s : State} (h : Sound s) (data : List Byte) (sps : List Span) (who : Option (Nat × Bool))
    (hz : ∀ sp ∈ sps, sp.attrs.getLsbD attrZ = false) :
    Sound (s.writeSpans data sps who).1 ∧ (s.writeSpans data sps who).2 = none := writeRuns_sound h data sps hz

/-- What is saved to a sound area whose page has no Z is saved whole. -/
theorem savePieces_sound {s : State} (h : Sound s) (who : Nat × Bool) (sps : List Span)
    (hz : ∀ sp ∈ sps, sp.attrs.getLsbD attrZ = false) (ps : List (Nat × List Byte)) : (s.savePieces who sps ps).2 = none := by
  induction ps generalizing s with
  | nil => rfl
  | cons x r ih =>
    have hc : ∀ sp ∈ cutSpans sps x.1 x.2.length, sp.attrs.getLsbD attrZ = false := by
      intro sp hsp
      simp only [cutSpans, List.mem_filterMap] at hsp
      obtain ⟨y, hy, he⟩ := hsp
      split at he
      · simp only [Option.some.injEq] at he; subst he; exact hz y hy
      · cases he
    have hw := writeSpans_sound h x.2 (cutSpans sps x.1 x.2.length) (some who) hc
    simp only [State.savePieces]
    revert hw
    generalize s.writeSpans x.2 (cutSpans sps x.1 x.2.length) (some who) = y
    obtain ⟨u, f⟩ := y
    rintro ⟨hu, rfl⟩
    exact ih hu

end Sys2Proof.Laws
end

