-- ==== Sys2Proof/Laws/Issue.lean ====
section
/-!
SUPPORT. What the shared operations of the loom instructions do once their conditions hold: reading operands, putting a result in
flight, and the three ways in which a meaning ends.
-/

namespace Sys2Proof.Laws

open Sys2Proof.Machine Sys2Proof.Claims

/-- A check that holds answers. -/
@[simp] theorem check_true (f : Stop) : check true f = .ok () := rfl

/-- A check that fails stops. -/
@[simp] theorem check_false (f : Stop) : check false f = .error f := rfl

/-- A check whose proposition holds answers. -/
theorem check_ok {p : Bool} (h : p = true) (f : Stop) : check p f = .ok () := by simp [h]

/-- A register is ready if nothing in flight is bound for it, or in an exposed line. -/
theorem ready_ok {c : Ctx} {e : Eng} {d : Dest} (h : c.exposed e = true ∨ d = .none ∨ ∀ x ∈ c.inFlight, x.dest ≠ d) :
    c.ready e d = .ok () := by
  unfold Ctx.ready Ctx.pending
  rcases h with h | h | h
  · simp [h]
  · simp [h]
  · have : c.inFlight.any (fun r => r.dest == d) = false := by simpa using h
    simp [this]

/-- Reading an a-register that is ready gives its value. -/
theorem rdA_ok {c : Ctx} {r : BitVec 6} (h : readyA c r) : c.rdA r = .ok (c.aVal r) := by
  have : c.ready .A (if r = 0 then .none else .a r) = .ok () := by
    by_cases h0 : r = 0
    · exact ready_ok (.inr (.inl (if_pos h0)))
    · rw [if_neg h0]
      exact ready_ok (h.imp_right (fun h => .inr (h.resolve_left h0)))
  simp only [Ctx.rdA, this]

/-- Reading an s-register that is ready gives its value. -/
theorem rdS_ok {c : Ctx} {r : BitVec 6} (h : readyS c r) : c.rdS r = .ok (c.sVal (r.setWidth 5)) := by
  have : c.ready .X (if r.setWidth 5 = (0 : BitVec 5) then .none else .s (r.setWidth 5)) = .ok () := by
    by_cases h0 : r.setWidth 5 = (0 : BitVec 5)
    · exact ready_ok (.inr (.inl (if_pos h0)))
    · rw [if_neg h0]
      exact ready_ok (h.imp_right (fun h => .inr (h.resolve_left h0)))
  simp only [Ctx.rdS, this]

/-- Reading a mask register that is ready gives its value. -/
theorem rdK_ok {c : Ctx} {r : BitVec 3} (h : readyK c r) : c.rdK r = .ok (c.kVal r) := by
  have : c.ready .X (if r = 0 then .none else .k r) = .ok () := by
    by_cases h0 : r = 0
    · exact ready_ok (.inr (.inl (if_pos h0)))
    · rw [if_neg h0]
      exact ready_ok (h.imp_right (fun h => .inr (h.resolve_left h0)))
  simp only [Ctx.rdK, this]

/-- A result that needs no value slot joins those in flight while there are fewer than 32. -/
theorem addResult_ok {c : Ctx} {r : Result} (h : c.inFlight.length < 32)
    (hw : r.dest.wide = true → (c.inFlight.filter (·.dest.wide)).length < 30) :
    c.addResult r = .ok { c with inFlight := c.inFlight ++ [r] } := by
  have h1 : ¬ 32 ≤ c.inFlight.length := by omega
  have h2 : ¬ (r.dest.wide = true ∧ 30 ≤ (c.inFlight.filter (·.dest.wide)).length) := by
    rintro ⟨a, b⟩
    have := hw a
    omega
  unfold Ctx.addResult
  rw [if_neg h1, if_neg h2]

/-- A value for an a-register goes in flight. -/
theorem emitA_ok {c : Ctx} (h : c.inFlight.length < 32) (rd : BitVec 6) (v lat : Nat) (t : Tok) :
    c.emit .A (.a rd) v lat t = .ok { c with inFlight := c.inFlight ++
      [{ eng := .A, dest := .a rd, value := BitVec.ofNat 16384 v, due := c.ea.cyc + 1 + lat, flags := 0, post := t.ps }] } :=
  addResult_ok h (by simp [Dest.wide])

/-- A value for an s-register goes in flight. -/
theorem emitS_ok {c : Ctx} (h : c.inFlight.length < 32) (r : BitVec 5) (v lat : Nat) (t : Tok) (fl : Flags) :
    c.emit .X (.s r) v lat t fl = .ok { c with inFlight := c.inFlight ++
      [{ eng := .X, dest := .s r, value := BitVec.ofNat 16384 v, due := c.ex.cyc + 1 + lat, flags := fl, post := t.ps }] } :=
  addResult_ok h (by simp [Dest.wide])

/-- A value for a vector register, a mask register or a store queue goes in flight while fewer than 30 such do. -/
theorem emitWide_ok {c : Ctx} (h : c.inFlight.length < 32) (h' : (c.inFlight.filter (·.dest.wide)).length < 30) (d : Dest)
    (v lat : Nat) (t : Tok) (fl : Flags) :
    c.emit .X d v lat t fl = .ok { c with inFlight := c.inFlight ++
      [{ eng := .X, dest := d, value := BitVec.ofNat 16384 v, due := c.ex.cyc + 1 + lat, flags := fl, post := t.ps }] } :=
  addResult_ok h (fun _ => h')

/-- An effect on the moving context alone that answers has issued. -/
theorem local_ok {s : State} {e : Eng} {t : Tok} {f : Ctx → Act Ctx} {c d : Ctx} (ht : s.ctx.tokens e t = .ok c)
    (hf : f c = .ok d) : s.local e t f = issued (s.setCtx d) := by
  simp [State.local, State.done, ht, hf, issued, Bind.bind, Except.bind, pure, Except.pure]

/-- The same for an instruction whose token is pushed at issue. -/
theorem localNow_ok {s : State} {e : Eng} {t : Tok} {f : Ctx → Act Ctx} {c d : Ctx} (ht : s.ctx.tokens e t = .ok c)
    (hf : f c = .ok d) : s.localNow e t f = issued (s.setCtx (d.postNow e t)) :=
  local_ok ht (by simp [hf, Bind.bind, Except.bind, pure, Except.pure])

/-- An A-engine instruction whose own effect answers has issued. -/
theorem command_ok {s : State} {t : Tok} {f : Ctx → Act State} {c : Ctx} {u : State} (ht : s.ctx.tokens .A t = .ok c)
    (hf : f c = .ok u) : s.command t f = issued u := by
  simp [State.command, State.done, ht, hf, issued, Bind.bind, Except.bind]

/-- An event that the state enables has its effect. -/
theorem event_some {s t : State} {r : Option State} (h : r = some t) : s.event r = issued t := by
  simp [State.event, h, issued]

/-! ## How a meaning can end -/

/-- What the step can make of an instruction's effect: it has issued, it waits or it faults; in the last two cases nothing of the machine
has changed. -/
theorem done_cases {s t : State} {r : Act State} (h : s.done r = .next t) :
    (∃ u, r = .ok u ∧ t = { u with disp := .issued }) ∨ (∃ w, r = .error (.wait w) ∧ t = { s with disp := .waits w }) ∨
    (∃ f, r = .error (.fault f) ∧ t = { s with disp := .faults f }) := by
  unfold State.done at h
  split at h
  · exact .inl ⟨_, rfl, (by injection h with h; exact h.symm)⟩
  · exact .inr (.inl ⟨_, rfl, (by injection h with h; exact h.symm)⟩)
  · exact .inr (.inr ⟨_, rfl, (by injection h with h; exact h.symm)⟩)

/-- An effect always answers. -/
theorem done_next (s : State) (r : Act State) : ∃ t, s.done r = .next t := by
  unfold State.done
  split <;> exact ⟨_, rfl⟩

/-- What an event can do: its effect, or nothing where the state does not enable it. -/
theorem event_cases {s t : State} {r : Option State} (h : s.event r = .next t) :
    (∃ u, r = some u ∧ t = { u with disp := .issued }) ∨ (r = none ∧ t = { s with disp := .ignored }) := by
  unfold State.event at h
  split at h
  · exact .inl ⟨_, rfl, (by injection h with h; exact h.symm)⟩
  · exact .inr ⟨rfl, (by injection h with h; exact h.symm)⟩

/-- An event always answers. -/
theorem event_next (s : State) (r : Option State) : ∃ t, s.event r = .next t := by
  unfold State.event
  split <;> exact ⟨_, rfl⟩

/-- A command always answers. -/
theorem command_next (s : State) (t : Tok) (f : Ctx → Act State) : ∃ u, s.command t f = .next u := done_next _ _

/-- An effect on the moving context always answers. -/
theorem local_next (s : State) (e : Eng) (t : Tok) (f : Ctx → Act Ctx) : ∃ u, s.local e t f = .next u := done_next _ _

/-- The same with the token pushed at issue. -/
theorem localNow_next (s : State) (e : Eng) (t : Tok) (f : Ctx → Act Ctx) : ∃ u, s.localNow e t f = .next u := done_next _ _

/-- A command whose own effect faults raises that fault, with nothing changed. -/
theorem command_fault {s : State} {t : Tok} {f : Ctx → Act State} {c : Ctx} {x : FaultInfo} (ht : s.ctx.tokens .A t = .ok c)
    (hf : f c = .error (.fault x)) : s.command t f = .next { s with disp := .faults x } := by
  simp [State.command, State.done, ht, hf, Bind.bind, Except.bind]

/-- A command whose own effect must wait waits, with nothing changed. -/
theorem command_wait {s : State} {t : Tok} {f : Ctx → Act State} {c : Ctx} {w : Wait} (ht : s.ctx.tokens .A t = .ok c)
    (hf : f c = .error (.wait w)) : s.command t f = .next { s with disp := .waits w } := by
  simp [State.command, State.done, ht, hf, Bind.bind, Except.bind]

end Sys2Proof.Laws
end

