-- ==== Sys2Proof/Laws/Words.lean ====
section
/-!
SUPPORT. The fields of the words that the formats of R118 lay out: what is packed at a place is read there.
-/

namespace Sys2Proof.Laws

/-- The bits of a word of the format. -/
theorem pRR_bits (t : Tok) (m d a b f : BitVec 6) (k : Nat) : (pRR t m d a b f).getLsbD k =
    if k < 6 then f.getLsbD k else if k < 12 then b.getLsbD (k - 6) else if k < 18 then a.getLsbD (k - 12) else if k < 24 then d.getLsbD (k - 18) else if k < 30 then m.getLsbD (k - 24) else if k = 30 then t.ps else if k = 31 then t.wt else false := by
  unfold pRR hi8
  erw [BitVec.getLsbD_append, BitVec.getLsbD_append, BitVec.getLsbD_append, BitVec.getLsbD_append, BitVec.getLsbD_append, BitVec.getLsbD_append]
  grind

@[simp] theorem pRR_tok (t : Tok) (m d a b f : BitVec 6) : tokOf (pRR t m d a b f) = t := by
  unfold tokOf
  rw [pRR_bits, pRR_bits]
  simp

@[simp] theorem pRR_major (t : Tok) (m d a b f : BitVec 6) : fld (pRR t m d a b f) 24 6 = m := by
  apply BitVec.eq_of_getLsbD_eq
  intro k hk
  rw [BitVec.getLsbD_extractLsb', pRR_bits]
  grind

@[simp] theorem pRR_d (t : Tok) (m d a b f : BitVec 6) : fld (pRR t m d a b f) 18 6 = d := by
  apply BitVec.eq_of_getLsbD_eq
  intro k hk
  rw [BitVec.getLsbD_extractLsb', pRR_bits]
  grind

@[simp] theorem pRR_a (t : Tok) (m d a b f : BitVec 6) : fld (pRR t m d a b f) 12 6 = a := by
  apply BitVec.eq_of_getLsbD_eq
  intro k hk
  rw [BitVec.getLsbD_extractLsb', pRR_bits]
  grind

@[simp] theorem pRR_b (t : Tok) (m d a b f : BitVec 6) : fld (pRR t m d a b f) 6 6 = b := by
  apply BitVec.eq_of_getLsbD_eq
  intro k hk
  rw [BitVec.getLsbD_extractLsb', pRR_bits]
  grind

@[simp] theorem pRR_f (t : Tok) (m d a b f : BitVec 6) : fld (pRR t m d a b f) 0 6 = f := by
  apply BitVec.eq_of_getLsbD_eq
  intro k hk
  rw [BitVec.getLsbD_extractLsb', pRR_bits]
  grind

/-- The bits of a word of the format. -/
theorem pRI_bits (t : Tok) (m d a : BitVec 6) (i : BitVec 12) (k : Nat) : (pRI t m d a i).getLsbD k =
    if k < 12 then i.getLsbD k else if k < 18 then a.getLsbD (k - 12) else if k < 24 then d.getLsbD (k - 18) else if k < 30 then m.getLsbD (k - 24) else if k = 30 then t.ps else if k = 31 then t.wt else false := by
  unfold pRI hi8
  erw [BitVec.getLsbD_append, BitVec.getLsbD_append, BitVec.getLsbD_append, BitVec.getLsbD_append, BitVec.getLsbD_append]
  grind

@[simp] theorem pRI_tok (t : Tok) (m d a : BitVec 6) (i : BitVec 12) : tokOf (pRI t m d a i) = t := by
  unfold tokOf
  rw [pRI_bits, pRI_bits]
  simp

@[simp] theorem pRI_major (t : Tok) (m d a : BitVec 6) (i : BitVec 12) : fld (pRI t m d a i) 24 6 = m := by
  apply BitVec.eq_of_getLsbD_eq
  intro k hk
  rw [BitVec.getLsbD_extractLsb', pRI_bits]
  grind

@[simp] theorem pRI_d (t : Tok) (m d a : BitVec 6) (i : BitVec 12) : fld (pRI t m d a i) 18 6 = d := by
  apply BitVec.eq_of_getLsbD_eq
  intro k hk
  rw [BitVec.getLsbD_extractLsb', pRI_bits]
  grind

@[simp] theorem pRI_a (t : Tok) (m d a : BitVec 6) (i : BitVec 12) : fld (pRI t m d a i) 12 6 = a := by
  apply BitVec.eq_of_getLsbD_eq
  intro k hk
  rw [BitVec.getLsbD_extractLsb', pRI_bits]
  grind

@[simp] theorem pRI_i (t : Tok) (m d a : BitVec 6) (i : BitVec 12) : fld (pRI t m d a i) 0 12 = i := by
  apply BitVec.eq_of_getLsbD_eq
  intro k hk
  rw [BitVec.getLsbD_extractLsb', pRI_bits]
  grind

/-- The bits of a word of the format. -/
theorem pRL_bits (t : Tok) (m d : BitVec 6) (i : BitVec 18) (k : Nat) : (pRL t m d i).getLsbD k =
    if k < 18 then i.getLsbD k else if k < 24 then d.getLsbD (k - 18) else if k < 30 then m.getLsbD (k - 24) else if k = 30 then t.ps else if k = 31 then t.wt else false := by
  unfold pRL hi8
  erw [BitVec.getLsbD_append, BitVec.getLsbD_append, BitVec.getLsbD_append, BitVec.getLsbD_append]
  grind

@[simp] theorem pRL_tok (t : Tok) (m d : BitVec 6) (i : BitVec 18) : tokOf (pRL t m d i) = t := by
  unfold tokOf
  rw [pRL_bits, pRL_bits]
  simp

@[simp] theorem pRL_major (t : Tok) (m d : BitVec 6) (i : BitVec 18) : fld (pRL t m d i) 24 6 = m := by
  apply BitVec.eq_of_getLsbD_eq
  intro k hk
  rw [BitVec.getLsbD_extractLsb', pRL_bits]
  grind

@[simp] theorem pRL_d (t : Tok) (m d : BitVec 6) (i : BitVec 18) : fld (pRL t m d i) 18 6 = d := by
  apply BitVec.eq_of_getLsbD_eq
  intro k hk
  rw [BitVec.getLsbD_extractLsb', pRL_bits]
  grind

@[simp] theorem pRL_i (t : Tok) (m d : BitVec 6) (i : BitVec 18) : fld (pRL t m d i) 0 18 = i := by
  apply BitVec.eq_of_getLsbD_eq
  intro k hk
  rw [BitVec.getLsbD_extractLsb', pRL_bits]
  grind

/-- The bits of a word of the format. -/
theorem pBC_bits (t : Tok) (m a b : BitVec 6) (o : BitVec 12) (k : Nat) : (pBC t m a b o).getLsbD k =
    if k < 12 then o.getLsbD k else if k < 18 then b.getLsbD (k - 12) else if k < 24 then a.getLsbD (k - 18) else if k < 30 then m.getLsbD (k - 24) else if k = 30 then t.ps else if k = 31 then t.wt else false := by
  unfold pBC hi8
  erw [BitVec.getLsbD_append, BitVec.getLsbD_append, BitVec.getLsbD_append, BitVec.getLsbD_append, BitVec.getLsbD_append]
  grind

@[simp] theorem pBC_tok (t : Tok) (m a b : BitVec 6) (o : BitVec 12) : tokOf (pBC t m a b o) = t := by
  unfold tokOf
  rw [pBC_bits, pBC_bits]
  simp

@[simp] theorem pBC_major (t : Tok) (m a b : BitVec 6) (o : BitVec 12) : fld (pBC t m a b o) 24 6 = m := by
  apply BitVec.eq_of_getLsbD_eq
  intro k hk
  rw [BitVec.getLsbD_extractLsb', pBC_bits]
  grind

@[simp] theorem pBC_a (t : Tok) (m a b : BitVec 6) (o : BitVec 12) : fld (pBC t m a b o) 18 6 = a := by
  apply BitVec.eq_of_getLsbD_eq
  intro k hk
  rw [BitVec.getLsbD_extractLsb', pBC_bits]
  grind

@[simp] theorem pBC_b (t : Tok) (m a b : BitVec 6) (o : BitVec 12) : fld (pBC t m a b o) 12 6 = b := by
  apply BitVec.eq_of_getLsbD_eq
  intro k hk
  rw [BitVec.getLsbD_extractLsb', pBC_bits]
  grind

@[simp] theorem pBC_o (t : Tok) (m a b : BitVec 6) (o : BitVec 12) : fld (pBC t m a b o) 0 12 = o := by
  apply BitVec.eq_of_getLsbD_eq
  intro k hk
  rw [BitVec.getLsbD_extractLsb', pBC_bits]
  grind

/-- The bits of a word of the format. -/
theorem pBL_bits (t : Tok) (m : BitVec 6) (o : BitVec 24) (k : Nat) : (pBL t m o).getLsbD k =
    if k < 24 then o.getLsbD k else if k < 30 then m.getLsbD (k - 24) else if k = 30 then t.ps else if k = 31 then t.wt else false := by
  unfold pBL hi8
  erw [BitVec.getLsbD_append, BitVec.getLsbD_append, BitVec.getLsbD_append]
  grind

@[simp] theorem pBL_tok (t : Tok) (m : BitVec 6) (o : BitVec 24) : tokOf (pBL t m o) = t := by
  unfold tokOf
  rw [pBL_bits, pBL_bits]
  simp

@[simp] theorem pBL_major (t : Tok) (m : BitVec 6) (o : BitVec 24) : fld (pBL t m o) 24 6 = m := by
  apply BitVec.eq_of_getLsbD_eq
  intro k hk
  rw [BitVec.getLsbD_extractLsb', pBL_bits]
  grind

@[simp] theorem pBL_o (t : Tok) (m : BitVec 6) (o : BitVec 24) : fld (pBL t m o) 0 24 = o := by
  apply BitVec.eq_of_getLsbD_eq
  intro k hk
  rw [BitVec.getLsbD_extractLsb', pBL_bits]
  grind

/-- The bits of a word of the format. -/
theorem pM_bits (t : Tok) (m r b : BitVec 6) (st : BitVec 4) (o : BitVec 8) (k : Nat) : (pM t m r b st o).getLsbD k =
    if k < 8 then o.getLsbD k else if k < 12 then st.getLsbD (k - 8) else if k < 18 then b.getLsbD (k - 12) else if k < 24 then r.getLsbD (k - 18) else if k < 30 then m.getLsbD (k - 24) else if k = 30 then t.ps else if k = 31 then t.wt else false := by
  unfold pM hi8
  erw [BitVec.getLsbD_append, BitVec.getLsbD_append, BitVec.getLsbD_append, BitVec.getLsbD_append, BitVec.getLsbD_append, BitVec.getLsbD_append]
  grind

@[simp] theorem pM_tok (t : Tok) (m r b : BitVec 6) (st : BitVec 4) (o : BitVec 8) : tokOf (pM t m r b st o) = t := by
  unfold tokOf
  rw [pM_bits, pM_bits]
  simp

@[simp] theorem pM_major (t : Tok) (m r b : BitVec 6) (st : BitVec 4) (o : BitVec 8) : fld (pM t m r b st o) 24 6 = m := by
  apply BitVec.eq_of_getLsbD_eq
  intro k hk
  rw [BitVec.getLsbD_extractLsb', pM_bits]
  grind

@[simp] theorem pM_r (t : Tok) (m r b : BitVec 6) (st : BitVec 4) (o : BitVec 8) : fld (pM t m r b st o) 18 6 = r := by
  apply BitVec.eq_of_getLsbD_eq
  intro k hk
  rw [BitVec.getLsbD_extractLsb', pM_bits]
  grind

@[simp] theorem pM_b (t : Tok) (m r b : BitVec 6) (st : BitVec 4) (o : BitVec 8) : fld (pM t m r b st o) 12 6 = b := by
  apply BitVec.eq_of_getLsbD_eq
  intro k hk
  rw [BitVec.getLsbD_extractLsb', pM_bits]
  grind

@[simp] theorem pM_st (t : Tok) (m r b : BitVec 6) (st : BitVec 4) (o : BitVec 8) : fld (pM t m r b st o) 8 4 = st := by
  apply BitVec.eq_of_getLsbD_eq
  intro k hk
  rw [BitVec.getLsbD_extractLsb', pM_bits]
  grind

@[simp] theorem pM_o (t : Tok) (m r b : BitVec 6) (st : BitVec 4) (o : BitVec 8) : fld (pM t m r b st o) 0 8 = o := by
  apply BitVec.eq_of_getLsbD_eq
  intro k hk
  rw [BitVec.getLsbD_extractLsb', pM_bits]
  grind

/-- The bits of a word of the format. -/
theorem pQ_bits (t : Tok) (m a b : BitVec 6) (st : BitVec 4) (f : BitVec 5) (n : BitVec 3) (k : Nat) : (pQ t m a b st f n).getLsbD k =
    if k < 3 then n.getLsbD k else if k < 8 then f.getLsbD (k - 3) else if k < 12 then st.getLsbD (k - 8) else if k < 18 then b.getLsbD (k - 12) else if k < 24 then a.getLsbD (k - 18) else if k < 30 then m.getLsbD (k - 24) else if k = 30 then t.ps else if k = 31 then t.wt else false := by
  unfold pQ hi8
  erw [BitVec.getLsbD_append, BitVec.getLsbD_append, BitVec.getLsbD_append, BitVec.getLsbD_append, BitVec.getLsbD_append, BitVec.getLsbD_append, BitVec.getLsbD_append]
  by_cases h : k < 24
  · grind
  · have h1 : ¬ k < 18 := by omega
    grind

@[simp] theorem pQ_tok (t : Tok) (m a b : BitVec 6) (st : BitVec 4) (f : BitVec 5) (n : BitVec 3) : tokOf (pQ t m a b st f n) = t := by
  unfold tokOf
  rw [pQ_bits, pQ_bits]
  simp

@[simp] theorem pQ_major (t : Tok) (m a b : BitVec 6) (st : BitVec 4) (f : BitVec 5) (n : BitVec 3) : fld (pQ t m a b st f n) 24 6 = m := by
  apply BitVec.eq_of_getLsbD_eq
  intro k hk
  rw [BitVec.getLsbD_extractLsb', pQ_bits]
  grind

@[simp] theorem pQ_a (t : Tok) (m a b : BitVec 6) (st : BitVec 4) (f : BitVec 5) (n : BitVec 3) : fld (pQ t m a b st f n) 18 6 = a := by
  apply BitVec.eq_of_getLsbD_eq
  intro k hk
  rw [BitVec.getLsbD_extractLsb', pQ_bits]
  grind

@[simp] theorem pQ_b (t : Tok) (m a b : BitVec 6) (st : BitVec 4) (f : BitVec 5) (n : BitVec 3) : fld (pQ t m a b st f n) 12 6 = b := by
  apply BitVec.eq_of_getLsbD_eq
  intro k hk
  rw [BitVec.getLsbD_extractLsb', pQ_bits]
  grind

@[simp] theorem pQ_st (t : Tok) (m a b : BitVec 6) (st : BitVec 4) (f : BitVec 5) (n : BitVec 3) : fld (pQ t m a b st f n) 8 4 = st := by
  apply BitVec.eq_of_getLsbD_eq
  intro k hk
  rw [BitVec.getLsbD_extractLsb', pQ_bits]
  grind

@[simp] theorem pQ_f (t : Tok) (m a b : BitVec 6) (st : BitVec 4) (f : BitVec 5) (n : BitVec 3) : fld (pQ t m a b st f n) 3 5 = f := by
  apply BitVec.eq_of_getLsbD_eq
  intro k hk
  rw [BitVec.getLsbD_extractLsb', pQ_bits]
  grind

@[simp] theorem pQ_n (t : Tok) (m a b : BitVec 6) (st : BitVec 4) (f : BitVec 5) (n : BitVec 3) : fld (pQ t m a b st f n) 0 3 = n := by
  apply BitVec.eq_of_getLsbD_eq
  intro k hk
  rw [BitVec.getLsbD_extractLsb', pQ_bits]
  grind

/-- The bits of a vector extension word. -/
theorem vext_bits (h : VHdr) (o : BitVec 24) (k : Nat) : (vext h o).getLsbD k =
    if k < 24 then o.getLsbD k else if k < 25 then h.mz.getLsbD (k - 24) else if k < 28 then h.mask.getLsbD (k - 25)
    else h.ty.getLsbD (k - 28) := by
  unfold vext
  erw [BitVec.getLsbD_append, BitVec.getLsbD_append, BitVec.getLsbD_append]
  grind

/-- The header of a vector extension word. -/
@[simp] theorem vext_hdr (h : VHdr) (o : BitVec 24) : vhdrOf (vext h o) = h := by
  obtain ⟨ty, mask, mz⟩ := h
  unfold vhdrOf
  congr 1 <;>
  · apply BitVec.eq_of_getLsbD_eq
    intro k hk
    rw [BitVec.getLsbD_extractLsb', vext_bits]
    grind

/-- The low fields of a vector extension word are those of its last 24 bits. -/
theorem vext_low (h : VHdr) (o : BitVec 24) (lo n : Nat) (hn : lo + n ≤ 24) : fld (vext h o) lo n = o.extractLsb' lo n := by
  apply BitVec.eq_of_getLsbD_eq
  intro k hk
  rw [BitVec.getLsbD_extractLsb', BitVec.getLsbD_extractLsb', vext_bits]
  grind

/-- The bits of a word of LOOP or LOOPR. -/
theorem pJL_bits (m b : BitVec 6) (r : BitVec 18) (k : Nat) : (pJL m b r).getLsbD k =
    if k < 18 then r.getLsbD k else if k < 24 then b.getLsbD (k - 18) else if k < 30 then m.getLsbD (k - 24) else false := by
  unfold pJL
  erw [BitVec.getLsbD_append, BitVec.getLsbD_append, BitVec.getLsbD_append]
  grind

/-- The bits of another joint word. -/
theorem pJB_bits (m : BitVec 6) (o : BitVec 24) (k : Nat) : (pJB m o).getLsbD k =
    if k < 24 then o.getLsbD k else if k < 30 then m.getLsbD (k - 24) else false := by
  unfold pJB
  erw [BitVec.getLsbD_append, BitVec.getLsbD_append]
  grind

end Sys2Proof.Laws
end

