-- ==== Sys2Proof/Tests/Slice0.lean ====
section
/-!
SUPPORT. Tests: every instruction word by hand from the opcode maps, an ill-formed term for every limit of a field, and single
steps with results worked out from the spec's rules.
-/

namespace Sys2Proof.Tests

open Sys2Proof Sys2Proof.Machine

/-! ## Well-formedness: one term for every limit that a field has, each with the cause that refuses it -/

/-- Whether a term is ill formed for a cause. -/
def refused (x : Instr × EncCause) : Bool := !x.1.WellFormed && (match limit x.1 with | some l => decide (l.cause = x.2) | none => false)

theorem test_limits_refuse : [
    (.bfx ⟨false, false⟩ 1 2 32 32, .immediate),
    (.astep ⟨false, false⟩ 1 2 3 3 0, .subop),
    (.ldq ⟨false, false⟩ 4 0 0 0, .register),
    (.stq ⟨false, false⟩ 2 0 0 0, .register),
    (.pref ⟨false, false⟩ 2 0 0 0, .subop),
    (.ldq2d ⟨false, false⟩ 4 0 0 0 0 0, .register),
    (.stq2d ⟨false, false⟩ 2 0 0 0 0 0, .register),
    (.gathq ⟨false, false⟩ 4 0 0 0 0 0 0, .register),
    (.scatq ⟨false, false⟩ 2 0 0 0 0 0 0, .register),
    (.acq ⟨false, false⟩ 0 0 2, .subop),
    (.rel ⟨false, false⟩ 0 0 3, .subop),
    (.relSt ⟨false, false⟩ 0 0 0 3, .subop),
    (.bind ⟨false, false⟩ 0 0 0 4 0, .subop),
    (.barArrive ⟨false, false⟩ 0 0 0 3, .subop),
    (.barWait ⟨false, false⟩ 0 0 0 2, .subop),
    (.stashPut ⟨false, false⟩ 0 0 0 0 0 0 0 3 0, .subop),
    (.taskPut ⟨false, false⟩ 0 1 0 0 0 0 0, .register),
    (.taskPut ⟨false, false⟩ 1 63 0 0 0 0 0, .register),
    (.taskPutp ⟨false, false⟩ 1 1 0 0 0 0 4 0 0, .subop),
    (.csrr ⟨false, false⟩ 1 0xFF, .csr),
    (.linkPark ⟨false, false⟩ 1 3 0, .immediate),
    (.sadd ⟨false, false⟩ 32 1 2, .register),
    (.sadd ⟨false, false⟩ 1 32 2, .register),
    (.sadd ⟨false, false⟩ 1 2 32, .register),
    (.sfma ⟨false, false⟩ 1 2 3 32, .immediate),
    (.scvt ⟨false, false⟩ 1 2 7, .subop),
    (.sli ⟨false, false⟩ 32 0, .register),
    (.smovq ⟨false, false⟩ 32 0 0, .register),
    (.smovq ⟨false, false⟩ 0 36 0, .register),
    (.smovq ⟨false, false⟩ 0 0 1, .register),
    (.vadd ⟨false, false⟩ ⟨0, 0, 0⟩ 32 0 0 0, .register),
    (.vadd ⟨false, false⟩ ⟨0, 0, 0⟩ 0 36 0 0, .register),
    (.vadd ⟨false, false⟩ ⟨0, 0, 0⟩ 0 0 36 0, .register),
    (.vadd ⟨false, false⟩ ⟨15, 0, 0⟩ 0 0 0 0, .type),
    (.vadd ⟨false, false⟩ ⟨0, 0, 0⟩ 0 0 0 1, .type),
    (.vabs ⟨false, false⟩ ⟨7, 0, 0⟩ 0 0 0, .type),
    (.vand ⟨false, false⟩ ⟨0, 0, 0⟩ 0 0 0, .type),
    (.vaddVs ⟨false, false⟩ ⟨0, 0, 0⟩ 0 0 32 0, .register),
    (.vfma ⟨false, false⟩ ⟨0, 0, 0⟩ 0 0 0 36, .register),
    (.vcmp ⟨false, false⟩ ⟨0, 0, 0⟩ 0 0 0 7, .subop),
    (.vcmp ⟨false, false⟩ ⟨0, 0, 0⟩ 8 0 0 0, .register),
    (.vclamp ⟨false, false⟩ ⟨0, 0, 0⟩ 0 0 31, .register),
    (.vquant ⟨false, false⟩ ⟨0, 0, 0⟩ 1 2 1, .register),
    (.vquant ⟨false, false⟩ ⟨0, 1, 0⟩ 1 2 3, .type),
    (.vdeq ⟨false, false⟩ ⟨0, 0, 1⟩ 1 2 3, .type),
    (.vredSumRow ⟨false, false⟩ ⟨0, 0, 0⟩ 1 2 1 0, .type),
    (.vshuf ⟨false, false⟩ ⟨0, 0, 1⟩ 1 2 3, .type),
    (.shape ⟨false, false⟩ 6 1, .immediate),
    (.shape ⟨false, false⟩ 0 0, .immediate),
    (.kset ⟨false, false⟩ 8 0 0, .register),
    (.kset ⟨false, false⟩ 0 0 3, .subop),
    (.brk ⟨false, false⟩ 0 3 0, .subop),
    (.brx ⟨false, false⟩ 0 5 0, .subop),
    (.brx ⟨false, false⟩ 1 4 0, .reserved),
    (.qskip ⟨false, false⟩ 36 1, .register),
    (.qskip ⟨false, false⟩ 32 9, .immediate),
    (.vseed ⟨false, false⟩ 32 0, .register),
    (.safept 0 1 0 0 0, .reserved),
    (.safept 0 0 1 0 0, .reserved),
    (.safept 0 0 0 1 0, .reserved)].all refused = true := by
  decide +kernel

/-- Events have no words. -/
theorem test_event_has_no_words : (Instr.moduleReset true).WellFormed = false := by decide

/-- With every field within its limit the same instructions are well formed. -/
theorem test_well_formed : [
    .bfx ⟨false, false⟩ 1 2 32 31, .vadd ⟨false, false⟩ ⟨0, 0, 0⟩ 37 35 0 0, .taskPut ⟨false, false⟩ 1 62 0 0 0 0 3, .brx ⟨false, false⟩ 0 4 0, .safept 0 0xFE 0 0 0, .slip 0xFF
    ].all Instr.WellFormed = true := by
  decide +kernel

/-! ## Decoding -/

def decodes (sp : Space) (x : W32 × List W32 × Instr) : Bool :=
  match decodeInstr sp x.1 x.2.1 with
  | .ok i => decide (i = x.2.2)
  | .error _ => false
/-- Words of R118 and of the opcode maps R129 to R134, by hand from the places of their fields. -/
theorem test_decode_integer : [
    (0x8014A4C0, [], .add ⟨true, false⟩ 5 0xA 0x13),
    (0x4014A4C1, [], .sub ⟨false, true⟩ 5 0xA 0x13),
    (0xC014A4C2, [], .and ⟨true, true⟩ 5 0xA 0x13),
    (0x0014A4C3, [], .or ⟨false, false⟩ 5 0xA 0x13),
    (0x8014A4C4, [], .xor ⟨true, false⟩ 5 0xA 0x13),
    (0x4014A4C5, [], .andn ⟨false, true⟩ 5 0xA 0x13),
    (0xC014A4C6, [], .shl ⟨true, true⟩ 5 0xA 0x13),
    (0x0014A4C7, [], .shr ⟨false, false⟩ 5 0xA 0x13),
    (0x8014A4C8, [], .sar ⟨true, false⟩ 5 0xA 0x13),
    (0x4014A4C9, [], .mul ⟨false, true⟩ 5 0xA 0x13),
    (0xC014A4CA, [], .mulh ⟨true, true⟩ 5 0xA 0x13),
    (0x0014A4CB, [], .mulhu ⟨false, false⟩ 5 0xA 0x13),
    (0x8014A4CC, [], .min ⟨true, false⟩ 5 0xA 0x13),
    (0x4014A4CD, [], .max ⟨false, true⟩ 5 0xA 0x13),
    (0xC014A4CE, [], .minu ⟨true, true⟩ 5 0xA 0x13),
    (0x0014A4CF, [], .maxu ⟨false, false⟩ 5 0xA 0x13),
    (0x8014A4D0, [], .slt ⟨true, false⟩ 5 0xA 0x13),
    (0x4014A4D1, [], .sltu ⟨false, true⟩ 5 0xA 0x13),
    (0xC014A4D2, [], .seq ⟨true, true⟩ 5 0xA 0x13),
    (0x0014A4D3, [], .sne ⟨false, false⟩ 5 0xA 0x13),
    (0x8014A014, [], .clz ⟨true, false⟩ 5 0xA),
    (0x4014A015, [], .ctz ⟨false, true⟩ 5 0xA),
    (0xC014A016, [], .popc ⟨true, true⟩ 5 0xA),
    (0x0114AABC, [], .addi ⟨false, false⟩ 5 0xA 0xABC),
    (0x8214AABC, [], .andi ⟨true, false⟩ 5 0xA 0xABC),
    (0x4314AABC, [], .ori ⟨false, true⟩ 5 0xA 0xABC),
    (0xC414AABC, [], .xori ⟨true, true⟩ 5 0xA 0xABC),
    (0x0814AABC, [], .slti ⟨false, false⟩ 5 0xA 0xABC),
    (0x8514A025, [], .shli ⟨true, false⟩ 5 0xA 0x25),
    (0x4614A025, [], .shri ⟨false, true⟩ 5 0xA 0x25),
    (0xC714A025, [], .sari ⟨true, true⟩ 5 0xA 0x25),
    (0x0916ABCD, [], .lui ⟨false, false⟩ 5 0x2ABCD),
    (0x8A140000, [0x76543210, 0xFEDCBA98], .liw ⟨true, false⟩ 5 0xFEDCBA9876543210),
    (0x4B14A2E8, [], .bfx ⟨false, true⟩ 5 0xA 0xB 0x28),
    (0xCC14A2E8, [], .bfi ⟨true, true⟩ 5 0xA 0xB 0x28),
    (0x0D14A4EA, [], .sel ⟨false, false⟩ 5 0xA 0x13 0x2A),
    (0x8E14A4D5, [], .agen ⟨true, false⟩ 5 0xA 0x13 0x15),
    (0x4F14A4CD, [], .astep ⟨false, true⟩ 5 0xA 0x13 1 3)].all (decodes .A) = true := by decide

/-- Words of R118 and of the opcode maps R129 to R134, by hand from the places of their fields. -/
theorem test_decode_branches : [
    (0xD0FEDCBA, [], .br ⟨true, true⟩ 0xFEDCBA),
    (0x11293C35, [], .beq ⟨false, false⟩ 0xA 0x13 0xC35),
    (0x92293C35, [], .bne ⟨true, false⟩ 0xA 0x13 0xC35),
    (0x53293C35, [], .blt ⟨false, true⟩ 0xA 0x13 0xC35),
    (0xD4293C35, [], .bge ⟨true, true⟩ 0xA 0x13 0xC35),
    (0x15293C35, [], .bltu ⟨false, false⟩ 0xA 0x13 0xC35),
    (0x96293C35, [], .bgeu ⟨true, false⟩ 0xA 0x13 0xC35),
    (0x57876543, [], .call ⟨false, true⟩ 0x876543),
    (0xD800AABC, [], .jr ⟨true, true⟩ 0xA 0xABC),
    (0x1900A000, [], .bqp ⟨false, false⟩ 0xA)].all (decodes .A) = true := by decide

/-- Words of R118 and of the opcode maps R129 to R134, by hand from the places of their fields. -/
theorem test_decode_memory : [
    (0x9AB72935, [], .lda ⟨true, false⟩ 0x2D 0x32 9 0x35),
    (0x5BB72935, [], .sta ⟨false, true⟩ 0x2D 0x32 9 0x35),
    (0xDC0F2935, [], .ldq ⟨true, true⟩ 3 0x32 9 0x35),
    (0x1E072935, [], .stq ⟨false, false⟩ 1 0x32 9 0x35),
    (0xA2072935, [], .pref ⟨true, false⟩ 1 0x32 9 0x35),
    (0x5D072935, [0x362B8000], .ldq2d ⟨false, true⟩ 1 0x32 9 0x35 0xD 0x457),
    (0xDF072935, [0x362B8000], .stq2d ⟨true, true⟩ 1 0x32 9 0x35 0xD 0x457),
    (0x20072935, [0xB3000000], .gathq ⟨false, false⟩ 1 0x32 9 0x35 2 1 0x13),
    (0xA1072935, [0xB3000000], .scatq ⟨true, false⟩ 1 0x32 9 0x35 2 1 0x13)].all (decodes .A) = true := by decide

/-- Words of R118 and of the opcode maps R129 to R134, by hand from the places of their fields. -/
theorem test_decode_atomics : [
    (0x63B17901, [0xF0000000], .amoAdd ⟨false, true⟩ 0x2C 0x17 9 0x3C),
    (0xE3017909, [0xF0000000], .amoAddN ⟨true, true⟩ 0x17 9 0x3C),
    (0x23B17911, [0xF0000000], .amoAnd ⟨false, false⟩ 0x2C 0x17 9 0x3C),
    (0xA3017919, [0xF0000000], .amoAndN ⟨true, false⟩ 0x17 9 0x3C),
    (0x63B17921, [0xF0000000], .amoOr ⟨false, true⟩ 0x2C 0x17 9 0x3C),
    (0xE3017929, [0xF0000000], .amoOrN ⟨true, true⟩ 0x17 9 0x3C),
    (0x23B17931, [0xF0000000], .amoXor ⟨false, false⟩ 0x2C 0x17 9 0x3C),
    (0xA3017939, [0xF0000000], .amoXorN ⟨true, false⟩ 0x17 9 0x3C),
    (0x63B17941, [0xF0000000], .amoMin ⟨false, true⟩ 0x2C 0x17 9 0x3C),
    (0xE3017949, [0xF0000000], .amoMinN ⟨true, true⟩ 0x17 9 0x3C),
    (0x23B17951, [0xF0000000], .amoMax ⟨false, false⟩ 0x2C 0x17 9 0x3C),
    (0xA3017959, [0xF0000000], .amoMaxN ⟨true, false⟩ 0x17 9 0x3C),
    (0x63B17961, [0xF0000000], .amoMinu ⟨false, true⟩ 0x2C 0x17 9 0x3C),
    (0xE3017969, [0xF0000000], .amoMinuN ⟨true, true⟩ 0x17 9 0x3C),
    (0x23B17971, [0xF0000000], .amoMaxu ⟨false, false⟩ 0x2C 0x17 9 0x3C),
    (0xA3017979, [0xF0000000], .amoMaxuN ⟨true, false⟩ 0x17 9 0x3C),
    (0x63B17981, [0xF0000000], .amoSwap ⟨false, true⟩ 0x2C 0x17 9 0x3C),
    (0xE3017989, [0xF0000000], .amoSwapN ⟨true, true⟩ 0x17 9 0x3C),
    (0x24B17901, [0xA8300000], .cas ⟨false, false⟩ 0x2C 0x17 9 0x2A 3),
    (0xA5B17901, [0xF0000000], .faaC ⟨true, false⟩ 0x2C 0x17 9 0x3C)].all (decodes .A) = true := by decide

/-- Words of R118 and of the opcode maps R129 to R134, by hand from the places of their fields. -/
theorem test_decode_synchronisation : [
    (0x66000009, [], .fenceS ⟨false, true⟩ 9),
    (0xE601BEEF, [], .fenceX ⟨true, true⟩ 0xBEEF),
    (0x26020000, [], .fenceD ⟨false, false⟩),
    (0xA7017908, [], .acq ⟨true, false⟩ 0x17 9 1),
    (0x68017908, [], .rel ⟨false, true⟩ 0x17 9 1),
    (0xE9B17908, [], .relSt ⟨true, true⟩ 0x2C 0x17 9 1),
    (0x2AB17911, [0xF0000000], .bind ⟨false, false⟩ 0x2C 0x17 9 2 0x3C),
    (0xABB00900, [], .unbind ⟨true, false⟩ 0x2C 9),
    (0x6CB17901, [0x84000000], .barInit ⟨false, true⟩ 0x2C 0x17 9 0x21),
    (0xECB17920, [], .barExpect ⟨true, true⟩ 0x2C 0x17 9),
    (0x2CB17948, [], .barArrive ⟨false, false⟩ 0x2C 0x17 9 1),
    (0xACB17968, [], .barWait ⟨true, false⟩ 0x2C 0x17 9 1),
    (0x6CB17980, [], .barTest ⟨false, true⟩ 0x2C 0x17 9),
    (0xECB179A0, [], .barFlags ⟨true, true⟩ 0x2C 0x17 9),
    (0x2DFC2A09, [], .waitC ⟨false, false⟩ 0x3F 2 0x28 9)].all (decodes .A) = true := by decide

/-- Words of R118 and of the opcode maps R129 to R134, by hand from the places of their fields. -/
theorem test_decode_bobbins : [
    (0xAEB17900, [], .bobArm ⟨true, false⟩ 0x2C 0x17 9),
    (0x6EB17908, [], .bobDisarm ⟨false, true⟩ 0x2C 0x17 9),
    (0xEEB17910, [], .bobRead ⟨true, true⟩ 0x2C 0x17 9),
    (0x2FB17901, [0x1C000000], .suspMk ⟨false, false⟩ 0x2C 0x17 9 7),
    (0xAFB17909, [0x46100000], .suspFill ⟨true, false⟩ 0x2C 0x17 9 0x11 0x21),
    (0x6FB17910, [], .suspPeek ⟨false, true⟩ 0x2C 0x17 9)].all (decodes .A) = true := by decide

/-- Words of R118 and of the opcode maps R129 to R134, by hand from the places of their fields. -/
theorem test_decode_copies : [
    (0xF0B17902, [0x46100000, 0xC53A0000], .cpy ⟨true, true⟩ 0x2C 0x17 9 0x11 0x21 0xC5 0x3A),
    (0x31B17903, [0x46100000, 0xC53A0000, 0xE8000000], .cpy2d ⟨false, false⟩ 0x2C 0x17 9 0x11 0x21 0xC5 0x3A 0x3A),
    (0xB2B17912, [0x46100000, 0xC53A0000], .cpyRed ⟨true, false⟩ 0x2C 0x17 9 0x11 0x21 0xC5 0x3A 2),
    (0x73B17902, [0x46100000, 0xC53A0000], .cpyMc ⟨false, true⟩ 0x2C 0x17 9 0x11 0x21 0xC5 0x3A),
    (0xF4B1791A, [0x46100000, 0xC53A0000], .cpyDec ⟨true, true⟩ 0x2C 0x17 9 0x11 0x21 0xC5 0x3A 3),
    (0x35017918, [], .ctbl ⟨false, false⟩ 0x17 9 3),
    (0xB6B17902, [0x46100000, 0xC53A0000], .cpyCsum ⟨true, false⟩ 0x2C 0x17 9 0x11 0x21 0xC5 0x3A),
    (0x77B17902, [0x461F0000, 0x50000000], .stashPut ⟨false, true⟩ 0x2C 0x17 9 0x11 0x21 3 1 2 0x14),
    (0xF7017908, [], .stashDrop ⟨true, true⟩ 0x17 9),
    (0x37B17911, [0x02100000], .stashFetch ⟨false, false⟩ 0x2C 0x17 9 0x21),
    (0xB7017918, [], .stashFree ⟨true, false⟩ 0x17 9),
    (0x78B17902, [0x46100000, 0xC53A0000], .chSend ⟨false, true⟩ 0x2C 0x17 9 0x11 0x21 0xC5 0x3A),
    (0xF9B17900, [], .chFree ⟨true, true⟩ 0x2C 0x17 9),
    (0x3AB17900, [], .chWin ⟨false, false⟩ 0x2C 0x17 9)].all (decodes .A) = true := by decide

/-- Words of R118 and of the opcode maps R129 to R134, by hand from the places of their fields. -/
theorem test_decode_tasks : [
    (0xBBB17901, [0xAA1BCC00], .taskPut ⟨true, false⟩ 0x2C 0x17 9 0x2A 0x21 0x2F 3),
    (0x7BB1790A, [0xAA1BCC00, 0xC53A0000], .taskPutp ⟨false, true⟩ 0x2C 0x17 9 0x2A 0x21 0x2F 3 0xC5 0x3A),
    (0xFBB17910, [], .taskCancel ⟨true, true⟩ 0x2C 0x17 9),
    (0x3CB17901, [0x90000000], .accInit ⟨false, false⟩ 0x2C 0x17 9 0x24),
    (0xBCB17909, [0x72100000], .accDrain ⟨true, false⟩ 0x2C 0x17 9 0x1C 0x21),
    (0x7DB00900, [], .trdArrive ⟨false, true⟩ 0x2C 9),
    (0xFDB17909, [0xC50000C9], .trdVpin ⟨true, true⟩ 0x2C 0x17 9 1 1 5 0xC9),
    (0x3D017910, [], .trdVunpin ⟨false, false⟩ 0x17 9),
    (0xBDB17918, [], .trdInfo ⟨true, false⟩ 0x2C 0x17 9),
    (0x7D017921, [0x84000000], .trdDiff ⟨false, true⟩ 0x17 9 0x21),
    (0xFDB17928, [], .trdCancel ⟨true, true⟩ 0x2C 0x17 9)].all (decodes .A) = true := by decide

/-- Words of R118 and of the opcode maps R129 to R134, by hand from the places of their fields. -/
theorem test_decode_system : [
    (0x3E140081, [], .csrr ⟨false, false⟩ 5 0x81),
    (0xBE00A181, [], .csrw ⟨true, false⟩ 0xA 0x81),
    (0x7E00029D, [], .trap ⟨false, true⟩ 0x9D),
    (0xFE00A300, [], .rett ⟨true, true⟩ 0xA),
    (0x3E0004A5, [], .yield ⟨false, false⟩ 0xA5),
    (0xBE14A500, [], .ctxSave ⟨true, false⟩ 5 0xA),
    (0x7E00A600, [], .ctxLoad ⟨false, true⟩ 0xA),
    (0xFE14072B, [], .linkPark ⟨true, true⟩ 5 2 0xB),
    (0x3E14082B, [], .linkWake ⟨false, false⟩ 5 2 0xB)].all (decodes .A) = true := by decide

/-- Words of R118 and of the opcode maps R129 to R134, by hand from the places of their fields. -/
theorem test_decode_scalar : [
    (0x8014A4C0, [], .sadd ⟨true, false⟩ 5 0xA 0x13),
    (0x4014A4C1, [], .ssub ⟨false, true⟩ 5 0xA 0x13),
    (0xC014A4C2, [], .smul ⟨true, true⟩ 5 0xA 0x13),
    (0x0014A4C3, [], .smin ⟨false, false⟩ 5 0xA 0x13),
    (0x8014A4C4, [], .smax ⟨true, false⟩ 5 0xA 0x13),
    (0x4014A4C5, [], .sand ⟨false, true⟩ 5 0xA 0x13),
    (0xC014A4C6, [], .sor ⟨true, true⟩ 5 0xA 0x13),
    (0x0014A4C7, [], .sxor ⟨false, false⟩ 5 0xA 0x13),
    (0x8014A4C8, [], .sshl ⟨true, false⟩ 5 0xA 0x13),
    (0x4014A4C9, [], .sshr ⟨false, true⟩ 5 0xA 0x13),
    (0xC014A4CA, [], .fadd ⟨true, true⟩ 5 0xA 0x13),
    (0x0014A4CB, [], .fsub ⟨false, false⟩ 5 0xA 0x13),
    (0x8014A4CC, [], .fmul ⟨true, false⟩ 5 0xA 0x13),
    (0x4014A4CD, [], .fmin ⟨false, true⟩ 5 0xA 0x13),
    (0xC014A4CE, [], .fmax ⟨true, true⟩ 5 0xA 0x13),
    (0x007CA4CF, [], .fcmp ⟨false, false⟩ 0x1F 0xA 0x13),
    (0x8114A4DD, [], .sfma ⟨true, false⟩ 5 0xA 0x13 0x1D),
    (0x4214A005, [], .scvt ⟨false, true⟩ 5 0xA 5),
    (0xC3171234, [], .sli ⟨true, true⟩ 5 0x31234),
    (0x04922000, [], .smovq ⟨false, false⟩ 0x24 0x22 0)].all (decodes .X) = true := by decide

/-- Words of R118 and of the opcode maps R129 to R134, by hand from the places of their fields. -/
theorem test_decode_vectors : [
    (0x88449780, [0x8B000001], .vadd ⟨true, false⟩ ⟨8, 5, 1⟩ 0x11 9 0x1E 1),
    (0x48449781, [0x8B000001], .vsub ⟨false, true⟩ ⟨8, 5, 1⟩ 0x11 9 0x1E 1),
    (0xC8449782, [0x8B000001], .vmul ⟨true, true⟩ ⟨8, 5, 1⟩ 0x11 9 0x1E 1),
    (0x08449783, [0x8B000000], .vmin ⟨false, false⟩ ⟨8, 5, 1⟩ 0x11 9 0x1E),
    (0x88449784, [0x8B000000], .vmax ⟨true, false⟩ ⟨8, 5, 1⟩ 0x11 9 0x1E),
    (0x48449005, [0x8B000001], .vabs ⟨false, true⟩ ⟨8, 5, 1⟩ 0x11 9 1),
    (0xC8449006, [0x8B000001], .vneg ⟨true, true⟩ ⟨8, 5, 1⟩ 0x11 9 1),
    (0x08449787, [0x8B000000], .vand ⟨false, false⟩ ⟨8, 5, 1⟩ 0x11 9 0x1E),
    (0x88449788, [0x8B000000], .vor ⟨true, false⟩ ⟨8, 5, 1⟩ 0x11 9 0x1E),
    (0x48449789, [0x8B000000], .vxor ⟨false, true⟩ ⟨8, 5, 1⟩ 0x11 9 0x1E),
    (0xC844978A, [0x8B000000], .vshl ⟨true, true⟩ ⟨8, 5, 1⟩ 0x11 9 0x1E),
    (0x0844978B, [0x8B000000], .vshr ⟨false, false⟩ ⟨8, 5, 1⟩ 0x11 9 0x1E),
    (0x8844978C, [0x8B000000], .vsar ⟨true, false⟩ ⟨8, 5, 1⟩ 0x11 9 0x1E),
    (0x4844900D, [0x8B000000], .vmov ⟨false, true⟩ ⟨8, 5, 1⟩ 0x11 9)].all (decodes .X) = true := by decide

/-- Words of R118 and of the opcode maps R129 to R134, by hand from the places of their fields. -/
theorem test_decode_vectorScalars : [
    (0xC8449660, [0x8B000001], .vaddVs ⟨true, true⟩ ⟨8, 5, 1⟩ 0x11 9 0x19 1),
    (0x08449661, [0x8B000001], .vsubVs ⟨false, false⟩ ⟨8, 5, 1⟩ 0x11 9 0x19 1),
    (0x88449662, [0x8B000001], .vmulVs ⟨true, false⟩ ⟨8, 5, 1⟩ 0x11 9 0x19 1),
    (0x48449663, [0x8B000000], .vminVs ⟨false, true⟩ ⟨8, 5, 1⟩ 0x11 9 0x19),
    (0xC8449664, [0x8B000000], .vmaxVs ⟨true, true⟩ ⟨8, 5, 1⟩ 0x11 9 0x19),
    (0x08449667, [0x8B000000], .vandVs ⟨false, false⟩ ⟨8, 5, 1⟩ 0x11 9 0x19),
    (0x88449668, [0x8B000000], .vorVs ⟨true, false⟩ ⟨8, 5, 1⟩ 0x11 9 0x19),
    (0x48449669, [0x8B000000], .vxorVs ⟨false, true⟩ ⟨8, 5, 1⟩ 0x11 9 0x19),
    (0xC844966A, [0x8B000000], .vshlVs ⟨true, true⟩ ⟨8, 5, 1⟩ 0x11 9 0x19),
    (0x0844966B, [0x8B000000], .vshrVs ⟨false, false⟩ ⟨8, 5, 1⟩ 0x11 9 0x19),
    (0x8844966C, [0x8B000000], .vsarVs ⟨true, false⟩ ⟨8, 5, 1⟩ 0x11 9 0x19),
    (0x4844066D, [0x8B000000], .vmovVs ⟨false, true⟩ ⟨8, 5, 1⟩ 0x11 0x19)].all (decodes .X) = true := by decide

/-- Words of R118 and of the opcode maps R129 to R134, by hand from the places of their fields. -/
theorem test_decode_fused : [
    (0xC9449780, [0x1B000016], .vfma ⟨true, true⟩ ⟨1, 5, 1⟩ 0x11 9 0x1E 0x16),
    (0x0A449780, [0x1B000016], .vfms ⟨false, false⟩ ⟨1, 5, 1⟩ 0x11 9 0x1E 0x16),
    (0x8B189785, [0x8B000000], .vcmp ⟨true, false⟩ ⟨8, 5, 1⟩ 6 9 0x1E 5),
    (0x4C449785, [0x8B000000], .vsel ⟨false, true⟩ ⟨8, 5, 1⟩ 0x11 9 0x1E 5),
    (0xCD449640, [0x8B000000], .vclamp ⟨true, true⟩ ⟨8, 5, 1⟩ 0x11 9 0x19),
    (0x0E449000, [0x8B000000], .vcvt ⟨false, false⟩ ⟨8, 5, 1⟩ 0x11 9),
    (0x8F449000, [0x20000024], .vquant ⟨true, false⟩ ⟨2, 0, 0⟩ 0x11 9 0x24),
    (0x50449780, [0x20000000], .vdeq ⟨false, true⟩ ⟨2, 0, 0⟩ 0x11 9 0x1E)].all (decodes .X) = true := by decide

/-- Words of R118 and of the opcode maps R129 to R134, by hand from the places of their fields. -/
theorem test_decode_lanes : [
    (0xD1449000, [0x6A000003], .vredSumRow ⟨true, true⟩ ⟨6, 5, 0⟩ 0x11 9 1 1),
    (0x11449001, [0x6A000003], .vredSumCol ⟨false, false⟩ ⟨6, 5, 0⟩ 0x11 9 1 1),
    (0x91449002, [0x6A000003], .vredMaxRow ⟨true, false⟩ ⟨6, 5, 0⟩ 0x11 9 1 1),
    (0x51449003, [0x6A000003], .vredMaxCol ⟨false, true⟩ ⟨6, 5, 0⟩ 0x11 9 1 1),
    (0xD1449004, [0x6A000003], .vredMinRow ⟨true, true⟩ ⟨6, 5, 0⟩ 0x11 9 1 1),
    (0x11449005, [0x6A000003], .vredMinCol ⟨false, false⟩ ⟨6, 5, 0⟩ 0x11 9 1 1),
    (0x92449780, [0x6A000000], .vshuf ⟨true, false⟩ ⟨6, 5, 0⟩ 0x11 9 0x1E),
    (0x53449000, [0x6A0005A5], .vrotRow ⟨false, true⟩ ⟨6, 5, 0⟩ 0x11 9 0x5A5),
    (0xD3449001, [0x6A0003C3], .vrotCol ⟨true, true⟩ ⟨6, 5, 0⟩ 0x11 9 0x3C3),
    (0x14449000, [0x6A000000], .vtran ⟨false, false⟩ ⟨6, 5, 0⟩ 0x11 9),
    (0x95449000, [0x6A000000], .vbcRow ⟨true, false⟩ ⟨6, 5, 0⟩ 0x11 9),
    (0x55449001, [0x6A000000], .vbcCol ⟨false, true⟩ ⟨6, 5, 0⟩ 0x11 9),
    (0xD6449000, [0x1B000000], .vexp2 ⟨true, true⟩ ⟨1, 5, 1⟩ 0x11 9),
    (0x16449001, [0x1B000000], .vlog2 ⟨false, false⟩ ⟨1, 5, 1⟩ 0x11 9),
    (0x96449002, [0x1B000000], .vrcp ⟨true, false⟩ ⟨1, 5, 1⟩ 0x11 9),
    (0x56449003, [0x1B000000], .vrsq ⟨false, true⟩ ⟨1, 5, 1⟩ 0x11 9),
    (0xD6449004, [0x1B000000], .vtanh ⟨true, true⟩ ⟨1, 5, 1⟩ 0x11 9),
    (0x16449005, [0x1B000000], .vsigm ⟨false, false⟩ ⟨1, 5, 1⟩ 0x11 9)].all (decodes .X) = true := by decide

/-- Words of R118 and of the opcode maps R129 to R134, by hand from the places of their fields. -/
theorem test_decode_masks : [
    (0x980035A1, [], .shape ⟨true, false⟩ 3 0x5A1),
    (0x5918A002, [], .kset ⟨false, true⟩ 6 0xA 2),
    (0xDA183140, [], .kand ⟨true, true⟩ 6 3 5),
    (0x1A183141, [], .kor ⟨false, false⟩ 6 3 5),
    (0x9A183142, [], .kxor ⟨true, false⟩ 6 3 5),
    (0x5A183003, [], .knot ⟨false, true⟩ 6 3),
    (0xDBABCDEF, [], .brq ⟨true, true⟩ 0xABCDEF),
    (0x1C182C35, [], .brk ⟨false, false⟩ 6 2 0xC35),
    (0x9D004C35, [], .brx ⟨true, false⟩ 0 4 0xC35),
    (0x5E880007, [], .qskip ⟨false, true⟩ 0x22 7),
    (0xDF0000D2, [], .ftsel ⟨true, true⟩ 0xD2),
    (0x2000A4C0, [], .vseed ⟨false, false⟩ 0xA 0x13),
    (0xA1140001, [], .sflags ⟨true, false⟩ 5 1)].all (decodes .X) = true := by decide

/-- Words of R118 and of the opcode maps R129 to R134, by hand from the places of their fields. -/
theorem test_decode_joint : [
    (0x0094B1C2, [], .loop 0x25 0xB1C2),
    (0x0194B000, [], .loopr 0x25 0x2C),
    (0x029AA5C0, [0x00000022, 0x80000004, 0xC0000102, 0xA5000003], .safept 0xA5C 0x9A 0x8000000400000022 0xC0000102 0xA5000003),
    (0x03000000, [], .pickEnd),
    (0x060000C3, [], .slip 0xC3)].all (decodes .J) = true := by decide

/-! ## Single steps -/

/-- The value on its way to the destination after an instruction whose sources are a1 and a2, or s1 and s2. -/
def valueOf (i : Instr) (x y : Nat) : Option Nat :=
  let c : Ctx := { a := ((Vector.replicate 64 0).set 1 (BitVec.ofNat 64 x)).set 2 (BitVec.ofNat 64 y),
                   s := ((Vector.replicate 32 0).set 1 (BitVec.ofNat 32 x)).set 2 (BitVec.ofNat 32 y) }
  match exec i (({} : State).setCtx c) with
  | .next t => (t.ctx.inFlight.head?).map (fun r => r.value.toNat)
  | _ => none

theorem test_add_wraps : valueOf (.add ⟨false, false⟩ 3 1 2) (2 ^ 64 - 1) 2 = some 1 := by decide +kernel
theorem test_sub_order : valueOf (.sub ⟨false, false⟩ 3 1 2) 5 7 = some (2 ^ 64 - 2) := by decide +kernel
theorem test_andn_operands : valueOf (.andn ⟨false, false⟩ 3 1 2) 0b1100 0b1010 = some 0b0100 := by decide +kernel
theorem test_sar_sign : valueOf (.sar ⟨false, false⟩ 3 1 2) (2 ^ 63) 63 = some (2 ^ 64 - 1) := by decide +kernel
theorem test_shl_low_six_bits : valueOf (.shl ⟨false, false⟩ 3 1 2) 3 65 = some 6 := by decide +kernel
theorem test_mulh_signed : valueOf (.mulh ⟨false, false⟩ 3 1 2) (2 ^ 64 - 1) (2 ^ 64 - 1) = some 0 := by decide +kernel
theorem test_mulhu_unsigned : valueOf (.mulhu ⟨false, false⟩ 3 1 2) (2 ^ 64 - 1) (2 ^ 64 - 1) = some (2 ^ 64 - 2) := by decide +kernel
theorem test_slt_signed : valueOf (.slt ⟨false, false⟩ 3 1 2) (2 ^ 63) 0 = some 1 := by decide +kernel
theorem test_sadd_wraps : valueOf (.sadd ⟨false, false⟩ 3 1 2) 0xFFFFFFFF 2 = some 1 := by decide +kernel
theorem test_sfma_sign : valueOf (.sfma ⟨false, false⟩ 3 1 2 2) 0x40000000 0xBF800000 = some 0xC0400000 := by decide +kernel

/-- The first step after reset runs the word that withFetchWord places: ADDI a5, a0, 7. -/
theorem test_first_step : (match step (State.reset.withFetchWord 32 0x01140007) with
    | .next t => decide (t.ctx.inFlight.map (fun r => (r.dest, r.value.toNat)) = [(.a 5, 7)])
    | _ => false) = true := by decide +kernel

/-! ## The worked examples of the spec -/

/-- The worked line of R141, from its bytes in memory, and the line of its PICK.END. -/
def workedLine : List Byte := [0x11, 0x32, 0x00, 0x00, 0x40, 0x00, 0x10, 0x01, 0x00, 0x41, 0x00, 0x5C, 0x40, 0x00, 0x0E, 0x88] ++ List.replicate 16 0
theorem test_worked_line : (match decodeLine (lineWords workedLine) with
    | .ok l => decide (l.exposed = false ∧ l.ops.map (fun o => (o.lane, o.instr)) =
        [(1, .addi ⟨false, false⟩ 4 0 0x40), (2, .ldq ⟨false, true⟩ 0 4 1 0), (3, .vadd ⟨true, false⟩ ⟨0, 0, 0⟩ 3 32 1 0)])
    | .error _ => false) = true := by decide +kernel
theorem test_worked_pick_end : (match decodeLine (lineWords ([4, 0, 0, 0, 0, 0, 0, 3] ++ List.replicate 24 0)) with
    | .ok l => decide (l.ops.map (fun o => (o.lane, o.instr)) = [(1, .pickEnd)])
    | .error _ => false) = true := by decide +kernel

/-- The words of the masked row maximum (spec/09). -/
theorem test_worked_row_maximum : [
    (0x18001004, [], .shape ⟨false, false⟩ 1 4),
    (0x03080007, [], .sli ⟨false, false⟩ 2 7),
    (0x19042000, [], .kset ⟨false, false⟩ 1 2 0),
    (0x11081002, [0x02000000], .vredMaxRow ⟨false, false⟩ ⟨0, 1, 0⟩ 2 1 0 0),
    (0x13141000, [0x02000001], .vrotRow ⟨false, false⟩ ⟨0, 1, 0⟩ 5 1 1),
    (0x150C2001, [0x00000000], .vbcCol ⟨false, false⟩ ⟨0, 0, 0⟩ 3 2)].all (decodes .X) = true := by decide

/-- The WRITE flit of the example after R291. -/
theorem test_worked_flit : flitBits kWrite
      { noFlit with speer := 0x012, dpeer := 0x034, lseq := 0x100, rtag := 5, addr := 0x004000000100, stream := 2, lenM1 := 7, opa := 42, sseq := 9 }
    = 0x0201203401000005 * 2 ^ 160 + 0x004000000100200E * 2 ^ 96 + 0x2A * 2 ^ 32 + 0x00090000 := by decide

end Sys2Proof.Tests
end

