-- ==== Sys2Proof/Tests/Witnesses.lean ====
section
/-!
SUPPORT. For every statement with hypotheses, states and operands that meet all of them together, clause by clause: the theorem
witness_<statement>_<n> is about the n-th clause.
-/

namespace Sys2Proof.Tests

open Sys2Proof Sys2Proof.Machine Sys2Proof.Claims Sys2Proof.Laws

set_option Elab.async false

/-- Nothing in flight leaves every register ready. -/
theorem readyA_of {c : Ctx} {r : BitVec 6} (h : c.inFlight = []) : readyA c r := .inr (.inr (by simp [h]))
theorem readyS_of {c : Ctx} {r : BitVec 6} (h : c.inFlight = []) : readyS c r := .inr (.inr (by simp [h]))
theorem readyK_of {c : Ctx} {r : BitVec 3} (h : c.inFlight = []) : readyK c r := .inr (.inr (by simp [h]))
theorem readyV_of {c : Ctx} {r : BitVec 5} (h : c.inFlight = []) : readyV c r := .inr (by simp [h])
theorem readySrcs_of {c : Ctx} {l : List (BitVec 6)} (h : c.inFlight = []) : readySrcs c l := fun _ _ _ => readyV_of h
theorem vRoom_of {c : Ctx} {vd : BitVec 6} (h : c.inFlight = []) (hv : vd.toNat < 32) : vRoom c vd := by
  simp [vRoom, wideRoom, h, hv, readyV_of h]
theorem fenceFree_of {c : Ctx} {st : BitVec 4} (h : c.fences = []) : fenceFree c st := by simp [fenceFree, h]
theorem counterFree_of {c : Ctx} {k : Option Counter} (h : c.outs = []) : counterFree c k := by simp [counterFree, h]

/-- A partition with panel 0 and nothing else; a state in which it is partition 0; a state with a context in place. -/
def part : Partition := { panels := 1, level0 := 0, counterTable := 0, counterSize := 0, ctxPool := [] }
def withPart (p : Partition) : State := { parts := [(0, p)], panels := [(0, { owner := some 0, service := .full })] }
def withCtx (c : Ctx) : State := ({} : State).setCtx c
/-- A plane whose format table has one entry, the first. -/
def entryPlane (e : BitVec 16) : List Byte := List.replicate 0x2200 0 ++ leBytes 2 e.toNat
/-- A context whose registers name bytes of the loom's scratchpad and of the bolt's, and a length. -/
def copyRegs : Ctx := { a := (((Vector.replicate 64 0).set 1 0x1000000000000000).set 2 0x2000000000000000).set 3 128 }
/-- A partition with a binding of its first 128 bytes. -/
def boundPart : Partition := { part with plane := List.replicate 0x100 0 ++ leBytes 8 0 ++ leBytes 8 128 ++ leBytes 8 0x100000001 ++ leBytes 8 5 }
theorem part_bindings : part.bindings = [] := by decide +kernel
/-- A fabric of partition 0 with itself, whose channel 0 runs both ways, and a partition in it. -/
def loopFabric : Fabric :=
  { phase := 0, self := 0, dims := (1, 1, 1), roles := [], members := [⟨0, 1, 0⟩],
    send := [{ slots := 1, slotSize := 128 }], recv := [{ slots := 1, slotSize := 128 }] }
def inFabric : Partition := { part with fabric := some loopFabric, recvCh := [(0, { filled := [128] })] }
/-- A page with attributes for the looms of bolt 0, at a physical place. -/
def withPage (s : State) (pa : Nat) (attrs : BitVec 8) : State :=
  { s with bolts := [(0, { tlb := [{ peer := 0, va := 0, size := 65536, pa := pa, attrs := attrs }] })] }
/-- Two answers that are equal as options are equal. -/
theorem exceptOk {ε α : Type} {x : Except ε α} {a : α} [DecidableEq α] (h : (match x with | .ok b => decide (b = a) | .error _ => false) = true) :
    x = .ok a := by
  cases x <;> simp_all
theorem optionIs {α : Type} {x : Option α} {a : α} [DecidableEq α] (h : decide (x = some a) = true) : x = some a := of_decide_eq_true h
/-- An evaluation of a region of one line, and its record. -/
def eval0 : Evaluation :=
  { sid := 1, chain := [], head := 0, headVa := 0, extent := 128, arg := 0, entry := 0, picktag := 0, wver := 0, gangid := 0, peer := 0 }
def rec0 : EvalRec := { head := 0, headVa := 0, peer := 0, extent := 128, lines := [0], sid := 1, chain := [], loom := some 0, place := 0 }
/-- Tables that map the first GiB of virtual addresses to the first GiB of HBM, with a frame that no result is in flight in at
the context area 0, and a partition that has these tables. -/
def frameMem : Memory :=
  [⟨0, 0x01⟩, ⟨1, 0x10⟩, ⟨0x1000, 0x03⟩, ⟨0x30000, 1⟩, ⟨0x30018, 1⟩, ⟨0x30019, 1⟩]
def mapped : Partition := { part with panels := 0xFF }
def bigPage : State := { bolts := [(0, { tlb := [{ peer := 0, va := 0, size := 2 ^ 30, pa := 0, attrs := 0x40 }] })], parts := [(0, mapped)] }
theorem bigPage_sound : Sound bigPage := ⟨rfl, rfl, rfl, rfl⟩
/-- A saved context that holds nothing: its version and the CRC of its header. -/
def savedMem : Memory := (leBytes 4 1 ++ leBytes 4 (crc32c (List.replicate 248 0))).zipIdx.map (fun x => (x.2, x.1))
theorem pair_of {α β : Type} {p : α × β} {b : β} (h : p.2 = b) : p = (p.1, b) := by rw [← h]
/-- A copy of 128 bytes from the bolt's scratchpad to the loom's, and a context that has it queued. -/
def copy0 (k : CopyKind) : CopyCmd :=
  { id := 5, seq := none, kind := k, stream := 0, len := 128, started := true,
    src := [{ pa := boltPad 0 0, va := 2 * 2 ^ 60, len := 128, off := 0 }], dst := [{ pa := loomPad 0 0, va := 2 ^ 60, len := 128, off := 0 }] }
def copying (k : CopyCmd) : State := { looms := [(0, { pick := { act := .running, copyStore := [k] } })] }
/-- A code table of one code, with its CRC, in the loom's scratchpad. -/
def tableBytes : List Byte := (List.replicate 2 0 ++ [1] ++ List.replicate 285 0)
def tableMem : Memory := (loomPad 0 2, 1) :: (leBytes 4 (crc32c tableBytes)).zipIdx.map (fun x => (loomPad 0 (288 + x.2), x.1))
def tableCopy : CopyCmd := { copy0 (.ctbl 1) with len := 320, src := [{ pa := loomPad 0 0, va := 2 ^ 60, len := 320, off := 0 }], dst := [] }
def decoding : State := { copying tableCopy with mem := tableMem, bolts := [(0, { dec := [⟨0, false, 5⟩] })] }
/-- A stash command of partition 0 and the entry that it makes. -/
def stash0 (kind : Nat) : StashOp := { id := 3, kind := kind, panel := 0, stage := 0, tag := 7, tensor := 0, peer := 0, len := 128 }
def stashing (kind : Nat) (es : List StashEntry) : State := { withPart part with stashOps := [stash0 kind], stash := es }
def task0 : Task :=
  { id := 2, peer := 0, loom := 0, ev := false, seq := 0, w0 := 0, caddr := 0, a := (0, 0), b := (0, 0), fmt := 0x1100, tile := 9, int := false }
def accOp0 : AccOp := { id := 4, drain := false, tile := 9 }
/-- A loom whose pick context is as given, and a partition with a stage whose row 0 starts passes E for arrivals in queue 3. -/
def running (c : Ctx) : State := withCtx { c with act := .running }
def rowE : Row :=
  { valid := true, qne := 0, qemp := 0, inlo := 0, inhi := 63, vneed := false, pass := 3, queue := 3, select := 0, pfon := false, pfnext := false,
    pfbase := 0, pfcount := 0, prio := 0, age := 0, reserved := 0 }
def launch0 : Launch := { counter := 0, panel := 0, stage := 0, gangs := [[0]] }
def armed (plane : List Byte) : Partition :=
  { part with plane := plane, launches := [launch0], counterTable := 0x20000, counterSize := 32, counters := [0] }
def rowPlane : List Byte := List.replicate 0x2100 0 ++ leBytes 8 (2 ^ 63 + 63 * 2 ^ 43 + 3 * 2 ^ 40 + 3 * 2 ^ 38)
def rowZ : Row :=
  { valid := false, qne := 0, qemp := 0, inlo := 0, inhi := 0, vneed := false, pass := 0, queue := 0, select := 0, pfon := false,
    pfnext := false, pfbase := 0, pfcount := 0, prio := 0, age := 0, reserved := 0 }
def arrival0 : Arrival := { tag := 7, queue := 3, source := 0 }
def stage0 : Stage := { due := true, queues := (Vector.replicate 4 []).set 3 [arrival0] }
def armedState (p : Partition) (st : Stage) : State := { withPart p with mem := [(0x20008, 1)], stages := [(0, st)] }
theorem drop_pad (n k : Nat) (l : List Byte) : (List.replicate n 0 ++ l).drop (n + k) = l.drop k := by
  simp [List.drop_append]
theorem planeRow_pad {n : Nat} (h : stageBlock 0 0 = n) (l : List Byte) (i : Nat) :
    planeRow (List.replicate n 0 ++ l) 0 0 i = Row.ofNat (leNat ((l.drop (8 * i)).take 8)) := by
  rw [planeRow, planeLE, h, drop_pad]
theorem rows_of_pad {n : Nat} (h : stageBlock 0 0 = n) (l : List Byte) :
    (armed (List.replicate n 0 ++ l)).decisionRows 0 0 =
      (List.range 32).map (fun i => Row.ofNat (leNat ((l.drop (8 * i)).take 8))) :=
  List.map_congr_left fun i _ => planeRow_pad h l i
theorem rows_of_rowPlane : (armed rowPlane).decisionRows 0 0 = rowE :: List.replicate 31 rowZ :=
  (rows_of_pad rfl _).trans (by decide +kernel)
theorem best_of {st : Stage} {rows rows' : List Row} {b : Option Nat} (h : rows = rows') (k : st.bestRow rows' = b) :
    st.bestRow rows = b := h ▸ k
theorem at_of {α : Type} {l l' : List α} {n : Nat} {r : Option α} (h : l = l') (k : l'[n]? = r) : l[n]? = r := h ▸ k
/-- Tables that map the first GiB of virtual addresses to the first GiB of HBM with W set. -/
def wideMem : Memory := [(0, 0x01), (1, 0x10), (0x1000, 0x03), (0x1006, 0x40)]
/-- Tables that map the first GiB with attributes, and with a suspended region of one line behind them. -/
def tables (attrs : Byte) : Memory := [(0, 0x01), (1, 0x10), (0x1000, 0x03), (0x1006, attrs)]
def cellLoad : Access :=
  { id := 5, kind := .load, stream := 0, spans := [{ pa := 0x40000, va := 0x40000, len := 8, off := 0, attrs := 0x0A }], dest := .reg 1, len := 8 }
def meetingCell (cell : BitVec 2) : State :=
  { withPart mapped with mem := tables 0x0A ++ [(0x40010, 0x80), (0x40018, 1)], lineMeta := [(0x800, { cell := cell })],
                         looms := [(0, { pick := { act := .running, accs := [cellLoad] } })] }
def rec1 : EvalRec := { rec0 with head := 0x40000, headVa := 0x40000, lines := [0x800] }
/-- A port that is up between partition 0 and its peers; a request that a peer has not answered. -/
def linked (p : Partition) : State := { withPart p with ports := [(0, { up := true })] }
def request0 : Request := { rtag := 0, peer := 0, dpeer := 0, loom := 0, ev := false, owner := .acc 5 0, flit := noFlit, kind := kRead }
def entry0 : Combining := { id := 1, switch := 40, target := 0x40000, parts := [{ port := 0, addend := 1 }] }
/-- A fabric of two members that port 0 joins. -/
def pairFabric : Fabric :=
  { phase := 0, self := 0, dims := (2, 1, 1), roles := [(0, 1, 1)], members := [⟨0, 1, 0⟩, ⟨1, 1, 0⟩], send := [{ slots := 1 }], recv := [{ slots := 1 }] }
/-- The host talks to partition 0. -/
def hosted (p : Partition) (m : Memory) : State := { withPart p with agate := { verified := true }, mem := m }
theorem hosted_takes {p : Partition} {m : Memory} (h1 : p.arrWait = none) (h2 : p.resetReq = none) (h3 : p.resizing = none)
    (h4 : p.held = false) : takesRequest (hosted p m) 0 { id := 0 } p := ⟨⟨rfl, rfl, rfl, h1⟩, rfl, h2, h3, h4⟩
theorem some_of {α : Type} {x : Option α} (h : x.isSome = true) : x = some (x.get h) := by simp
/-- A step's counter 0 of level 2, a stage whose launches have three picks, and an ARM for it. -/
def armArgs : ArmArgs := { panel := 0, stage := 0, gangs := [[0]], step := 0 }
def stepPart : Partition :=
  { part with counterTable := 0x20000, counterSize := 32, counters := [0], plane := List.replicate 0x22D0 0 ++ [3] }
def stepMem : Memory := [(0x20005, 2)]
def form0 : FormArgs :=
  { panels := 1, peer := 0, level0 := 0, counterTable := 0, counterSize := 0, ctxPool := [], stashHbm := [], stashLp := [], overflow := [], accCount := 0,
    barrierLimit := 0, suspLimit := 0, stallLimit := 0, determinate := false, macs := [], ips := [], udps := [] }
/-- A fabric table of one member at the virtual address 0x40000, behind the tables. -/
def fabricMem : Memory := tables 0 ++ [(0x40004, 1), (0x40008, 1), (0x4000A, 1), (0x4000C, 1), (0x4000E, 1)]
theorem triple_of {α β γ : Type} {p : α × β × γ} {c : γ} (h : p.2.2 = c) : p = (p.1, p.2.1, c) := by rw [← h]
/-- An empty plane with its size and CRC at the virtual address 0x40000, behind the tables. -/
def planeMem : Memory := tables 0 ++ [(0x40004, 0xAF), (0x40005, 0xA5), (0x40006, 0x5C), (0x40007, 0xA6), (0x40009, 0x71)]
/-- A line of one instruction in lane 1, and a running loom whose instruction cache holds it. -/
def lineOf (i : Instr) : List W32 := match encode i with | some e => soloLine e i | none => []
def atInstr (i : Instr) : State := { looms := [(0, { pick := { act := .running }, icache := [(0, lineOf i)] })] }
/-- The body of a loop that the instruction cache holds: every line has the same header, of a number of lanes. -/
theorem body_of {s : State} {first lines w : Nat} (h : W32)
    (hc : ∀ i < lines, SMap.find? (s.loom s.cur.loom).icache (first + 32 * i) = some [h])
    (hw : w = ((List.range lines).map (fun _ => ((List.range 7).filter (fun k => h.extractLsb' (4 * k) 4 != 0)).length)).sum) :
    bodyHolds s first lines w := ⟨fun _ => h, fun i hi => .inl ⟨[h], hc i hi, rfl⟩, hw⟩
theorem meeting_of {c : Ctx} (h : c.ea.lines < c.ex.lines) (hm : c.ea.mode = false) (hi : c.inFlight = []) (ho : c.outs = []) : meeting c := by
  simp [meeting, h, hm, hi, ho]
theorem bound_bindings : boundPart.bindings = [⟨0, 0, 128, 0x100000001, 1⟩] := by decide +kernel
/-- A loom's context in partition 0, which is joined with partition 1 by its port 0. -/
def paired (c : Ctx) : State :=
  { withPart { part with fabric := some pairFabric } with ports := [(0, { up := true })], looms := [(0, { pick := c })] }
theorem flitBits_crc (k : Nat) (f : Flit) (c : W32) : flitBits k { f with crc := c } = flitBits k f := by unfold flitBits; rfl
/-- A flit that is sealed carries its CRC. -/
theorem sealed {k : Nat} {f : Flit} : flitOk k (sealFlit k f) = true := by
  simp only [flitOk, sealFlit, flitCrc, flitBits_crc, beq_self_eq_true]
theorem sealedData {d : DataFlit} (h : d.badWave = none) : dataOk (sealData d) = true := by simp [dataOk, sealData, dataCrc, tagBits, h]
/-- An entry of bolt 0's switch, and a panel switch that is full of others. -/
def entryB : Combining := { entry0 with switch := 0 }
def otherE : Combining := { id := 7, switch := 40, target := 0x80000, parts := [] }
def fullSwitch : State := { combining := entryB :: List.replicate Config.combiningRoom otherE }
theorem full_switch (p : CombPart) : ((fullSwitch.dropEntry 1).joinSwitch 40 0x40000 p).2 = false := by
  simp [fullSwitch, State.dropEntry, State.joinSwitch, entryB, entry0, otherE]
theorem channelFree_of {c : Ctx} {l : List Span} (h : c.accs = []) : channelFree c l := by simp [channelFree, h]

theorem witness_integerResults_1 :
    ∃ (s : State) (c : Ctx) (i : Instr) (f : IntForm), intForm c i = some f ∧ s.ctx.tokens .A f.tok = .ok c ∧ (∀ r ∈ f.srcs, readyA c r) ∧
    c.inFlight.length < 32 :=
  ⟨{}, {}, .add ⟨false, false⟩ 63 1 2, _, rfl, rfl, fun _ _ => readyA_of rfl, by decide⟩
theorem witness_registersReadAndWritten_5 :
    ∃ (c : Ctx), ∃ r, readyA c r :=
  ⟨{}, 63, readyA_of rfl⟩
theorem witness_registersReadAndWritten_6 :
    ∃ (c : Ctx), ∃ r, (¬ readyA c r) :=
  ⟨{ inFlight := [{ eng := .A, dest := .a 1, value := 5, due := 9 }] }, 1, (by simp [readyA, Ctx.exposed, Ctx.eng])⟩
theorem witness_registersReadAndWritten_7 :
    ∃ (c : Ctx), ∃ r, readyS c r :=
  ⟨{}, 31, readyS_of rfl⟩
theorem witness_registersReadAndWritten_8 :
    ∃ (c : Ctx), ∃ r, (¬ readyS c r) :=
  ⟨{ inFlight := [{ eng := .X, dest := .s 1, value := 5, due := 9 }] }, 1, (by simp [readyS, Ctx.exposed, Ctx.eng])⟩
theorem witness_registersReadAndWritten_9 :
    ∃ (c : Ctx), ∃ r, readyK c r :=
  ⟨{}, 7, readyK_of rfl⟩
theorem witness_registersReadAndWritten_10 :
    ∃ (c : Ctx), ∃ r, (¬ readyK c r) :=
  ⟨{ inFlight := [{ eng := .X, dest := .k 1, value := 5, due := 9 }] }, 1, (by simp [readyK, Ctx.exposed, Ctx.eng])⟩
theorem witness_tokensAndLanding_1 :
    ∃ (c : Ctx) (e : Eng) (t : Tok), tokensThere c e t :=
  ⟨{ tokXA := 1, resAX := 31 }, .A, ⟨true, true⟩, ⟨by decide, by decide⟩⟩
theorem witness_tokensAndLanding_2 :
    ∃ (c : Ctx) (e : Eng) (t : Tok), (¬ tokensThere c e t) :=
  ⟨{}, .A, ⟨true, true⟩, fun h => absurd (h.1 rfl) (by decide)⟩
theorem witness_branchesAndCalls_1 :
    ∃ (s : State) (c : Ctx) (i : Instr) (t : Tok) (srcs : List (BitVec 6)) (off : Int) (taken : Bool), branchForm c i = some (t, srcs, off, taken) ∧
    s.ctx.tokens .A t = .ok c ∧ (∀ r ∈ srcs, readyA c r) :=
  ⟨{}, {}, .beq ⟨false, false⟩ 1 2 5, _, _, _, _, rfl, rfl, fun _ _ => readyA_of rfl⟩
theorem witness_branchesAndCalls_2 :
    ∃ (s : State) (c : Ctx) (t : Tok), s.ctx.tokens .A t = .ok c ∧ c.bq.length < 64 ∧ c.inFlight.length < 32 :=
  ⟨{}, {}, ⟨false, false⟩, rfl, by decide, by decide⟩
theorem witness_branchesAndCalls_3 :
    ∃ (s : State) (c : Ctx) (t : Tok) (x : BitVec 6) (imm : BitVec 12), let dest := BitVec.ofInt 64 (av c x + 32 * imm.toInt);
    s.ctx.tokens .A t = .ok c ∧ readyA c x ∧ c.bq.length < 64 ∧ dest.toNat % 32 = 0 ∧ dest.toNat < 2 ^ 48 :=
  ⟨{}, {}, ⟨false, false⟩, 0, 0, rfl, readyA_of rfl, by decide, rfl, by decide⟩
theorem witness_branchesAndCalls_4 :
    ∃ (s : State) (c : Ctx) (t : Tok) (x : BitVec 6), s.ctx.tokens .A t = .ok c ∧ readyA c x ∧ c.bq.length < 64 :=
  ⟨{}, {}, ⟨false, false⟩, 0, rfl, readyA_of rfl, by decide⟩
theorem witness_branchesAndCalls_5 :
    ∃ (s : State) (c : Ctx) (t : Tok) (b : Bool) (r : List BqEntry), s.ctx.tokens .X t = .ok c ∧ c.bq = .outcome b :: r :=
  ⟨withCtx { bq := [.outcome true] }, { bq := [.outcome true] }, ⟨false, false⟩, true, [], rfl, rfl⟩
theorem witness_branchesAndCalls_6 :
    ∃ (s : State) (c : Ctx) (t : Tok) (k cond : BitVec 6), s.ctx.tokens .X t = .ok c ∧ readyK c (k.setWidth 3) ∧ brkHolds cond.toNat c.elems (c.kVal (k.setWidth 3)) :=
  ⟨withCtx { k := (Vector.replicate 8 0).set 1 2 }, { k := (Vector.replicate 8 0).set 1 2 }, ⟨false, false⟩, 1, 0, rfl, readyK_of rfl, ⟨1, by decide,
    (by decide +kernel)⟩⟩
theorem witness_branchesAndCalls_7 :
    ∃ (s : State) (c : Ctx) (t : Tok) (k cond : BitVec 6), s.ctx.tokens .X t = .ok c ∧ readyK c (k.setWidth 3) ∧ (¬ brkHolds cond.toNat c.elems (c.kVal (k.setWidth 3))) :=
  ⟨{}, {}, ⟨false, false⟩, 1, 1, rfl, readyK_of rfl, fun h => absurd (h 0 (by decide)) (by decide +kernel)⟩
theorem witness_branchesAndCalls_8 :
    ∃ (s : State) (c : Ctx) (t : Tok) (r : BitVec 6), s.ctx.tokens .X t = .ok c ∧ readyS c r :=
  ⟨{}, {}, ⟨false, false⟩, 0, rfl, readyS_of rfl⟩
theorem witness_loops_1 :
    ∃ (s : State) (body : BitVec 6) (w : Nat), let e := s.cur.eng;
    let c := s.ctx;
    (c.eng e).depth < 3 ∧ bodyHolds s ((c.eng e).pc.toNat + 32) (body.toNat + 1) w ∧ w ≤ 256 :=
  ⟨{ looms := [(0, { icache := [(32, [0])] })] }, 0, 0, by decide, body_of 0 (by decide) (by decide), by decide⟩
theorem witness_loops_2 :
    ∃ (s : State) (body ra : BitVec 6) (w : Nat), let c := s.ctx;
    s.cur.eng = .A ∧ c.ea.depth < 3 ∧ readyA c ra ∧ av c ra < 2 ^ 32 ∧ bodyHolds s (c.ea.pc.toNat + 32) (body.toNat + 1) w ∧ w ≤ 256 ∧ c.bq.length <
    64 :=
  ⟨{ looms := [(0, { icache := [(32, [0])] })] }, 0, 0, 0, rfl, by decide, readyA_of rfl, by decide, body_of 0 (by decide) (by decide), by decide, by
    decide⟩
theorem witness_loops_3 :
    ∃ (s : State) (body : BitVec 6) (w n : Nat) (r : List BqEntry), let c := s.ctx;
    s.cur.eng = .X ∧ c.ex.depth < 3 ∧ bodyHolds s (c.ex.pc.toNat + 32) (body.toNat + 1) w ∧ w ≤ 256 ∧ c.bq = .count n :: r :=
  ⟨{ looms := [(0, { icache := [(32, [0])], pick := { bq := [.count 4294967295] } })], cur := ⟨0, false, .X⟩ }, 0, 0, 4294967295, [], rfl, by decide,
    body_of 0 (by decide) (by decide), by decide, rfl⟩
theorem witness_loops_4 :
    ∃ (s : State), 3 ≤ (s.ctx.eng s.cur.eng).depth :=
  ⟨withCtx { ea := { depth := 3 } }, by decide⟩
set_option maxRecDepth 8000 in
theorem witness_loops_5 :
    ∃ (s : State) (body : BitVec 6) (w : Nat), (s.ctx.eng s.cur.eng).depth < 3 ∧ bodyHolds s ((s.ctx.eng s.cur.eng).pc.toNat + 32) (body.toNat + 1) w ∧
    256 < w :=
  ⟨{ looms := [(0, { icache := (List.range 37).map (fun i => (32 + 32 * i, [0x1111111])) })] }, 36, 259, by decide, body_of 0x1111111 (by decide) (by decide),
    by decide⟩
theorem witness_loops_6 :
    ∃ (s : State) (ra : BitVec 6), s.cur.eng = .A ∧ s.ctx.ea.depth < 3 ∧ readyA s.ctx ra ∧ 2 ^ 32 ≤ av s.ctx ra :=
  ⟨withCtx { a := (Vector.replicate 64 0).set 1 0x100000000 }, 1, rfl, by decide, readyA_of rfl, by decide⟩
theorem witness_controlRegisters_1 :
    ∃ (s : State) (c : Ctx) (t : Tok), s.ctx.tokens .A t = .ok c ∧ c.inFlight.length < 32 :=
  ⟨{}, {}, ⟨false, false⟩, rfl, by decide⟩
theorem witness_controlRegisters_2 :
    ∃ (s : State) (c : Ctx) (t : Tok) (x : BitVec 6), s.ctx.tokens .A t = .ok c ∧ readyA c x :=
  ⟨{}, {}, ⟨false, false⟩, 0, rfl, readyA_of rfl⟩
theorem witness_pickControlAndTraps_1 :
    ∃ (s : State), let c := s.ctx;
    (s.cur.ev = true ∨ c.tframe ≠ 0) :=
  ⟨{ cur := ⟨0, true, .A⟩ }, .inl rfl⟩
theorem witness_pickControlAndTraps_2 :
    ∃ (s : State), let c := s.ctx;
    s.cur.ev = false ∧ c.tframe = 0 :=
  ⟨{}, rfl, rfl⟩
theorem witness_pickControlAndTraps_3 :
    ∃ (s : State) (c : Ctx) (t : Tok), s.ctx.tokens .A t = .ok c :=
  ⟨{}, {}, ⟨false, false⟩, rfl⟩
theorem witness_pickControlAndTraps_4 :
    ∃ (s : State) (c : Ctx) (t : Tok) (n : BitVec 8), s.ctx.tokens .A t = .ok c ∧ n = 0 :=
  ⟨{}, {}, ⟨false, false⟩, 0, rfl, rfl⟩
theorem witness_pickControlAndTraps_5 :
    ∃ (s : State) (c : Ctx) (t : Tok) (n : BitVec 8), s.ctx.tokens .A t = .ok c ∧ n ≠ 0 ∧ c.yielding = some true :=
  ⟨withCtx { yielding := some true }, { yielding := some true }, ⟨false, false⟩, 1, rfl, by decide, rfl⟩
theorem witness_pickControlAndTraps_6 :
    ∃ (s : State) (c : Ctx) (t : Tok) (n : BitVec 8), s.ctx.tokens .A t = .ok c ∧ n ≠ 0 ∧ c.yielding ≠ some true :=
  ⟨{}, {}, ⟨false, false⟩, 255, rfl, by decide, by decide⟩
theorem witness_pickControlAndTraps_7 :
    ∃ (s : State) (loom : Nat) (ev : Bool), (s.ctxAt loom ev).yielding = some false :=
  ⟨withCtx { yielding := some false }, 0, false, rfl⟩
theorem witness_scalarResults_1 :
    ∃ (s : State) (c : Ctx) (i : Instr) (f : ScalarForm), scalarForm c i = some f ∧ s.ctx.tokens .X f.tok = .ok c ∧ (∀ r ∈ f.srcs, readyS c r) ∧ readyS c
    f.rd ∧ c.inFlight.length < 32 ∧ (∀ t d x code, i = .scvt t d x code → 5 ≤ code.toNat → s.fullService s.cur.loom = true) :=
  ⟨{}, {}, .fadd ⟨false, false⟩ 31 1 2, _, rfl, rfl, fun _ _ => readyS_of rfl, readyS_of rfl, by decide, (by intro t d x code h; cases h)⟩
theorem witness_movesSettingsAndMasks_1 :
    ∃ (s : State) (c : Ctx) (t : Tok) (rd r : BitVec 6), s.ctx.tokens .X t = .ok c ∧ rd.toNat < 32 ∧ r.toNat < 32 ∧ readyS c r ∧ readyS c rd ∧
    c.inFlight.length < 32 :=
  ⟨{}, {}, ⟨false, false⟩, 31, 31, rfl, by decide, by decide, readyS_of rfl, readyS_of rfl, by decide⟩
theorem witness_movesSettingsAndMasks_2 :
    ∃ (s : State) (c : Ctx) (t : Tok) (rd r : BitVec 6) (q : QEntry), s.ctx.tokens .X t = .ok c ∧ rd.toNat < 32 ∧ 32 ≤ r.toNat ∧ c.lq[(r.setWidth 2 : BitVec 2).toNat].head?
    = some q ∧ filled q ∧ readyS c rd ∧ c.inFlight.length < 32 :=
  ⟨withCtx { lq := (Vector.replicate 4 []).set 3 [{ data := 7, len := 4, pending := false }] }, { lq := (Vector.replicate 4 []).set 3 [{ data := 7, len := 4, pending := false }] },
    ⟨false, false⟩, 31, 35, _, rfl, by decide, by decide, rfl, rfl, readyS_of rfl, by decide⟩
theorem witness_movesSettingsAndMasks_3 :
    ∃ (s : State) (c : Ctx) (t : Tok) (rd r : BitVec 6), s.ctx.tokens .X t = .ok c ∧ 32 ≤ rd.toNat ∧ r.toNat < 32 ∧ readyS c r ∧ c.sq[(rd.setWidth 1 : BitVec 1).toNat].length
    < 8 :=
  ⟨{}, {}, ⟨false, false⟩, 33, 31, rfl, by decide, by decide, readyS_of rfl, by decide⟩
theorem witness_movesSettingsAndMasks_4 :
    ∃ (s : State) (c : Ctx) (t : Tok) (rd r : BitVec 6) (q : QEntry), s.ctx.tokens .X t = .ok c ∧ 32 ≤ rd.toNat ∧ 32 ≤ r.toNat ∧ c.lq[(r.setWidth 2 : BitVec 2).toNat].head?
    = some q ∧ filled q ∧ c.sq[(rd.setWidth 1 : BitVec 1).toNat].length < 8 :=
  ⟨withCtx { lq := (Vector.replicate 4 []).set 3 [{ data := 7, len := 4, pending := false }] }, { lq := (Vector.replicate 4 []).set 3 [{ data := 7, len := 4, pending := false }] },
    ⟨false, false⟩, 33, 35, _, rfl, by decide, by decide, rfl, rfl, by decide⟩
theorem witness_movesSettingsAndMasks_5 :
    ∃ (s : State) (c : Ctx) (t : Tok), s.ctx.tokens .X t = .ok c :=
  ⟨{}, {}, ⟨false, false⟩, rfl⟩
theorem witness_movesSettingsAndMasks_6 :
    ∃ (s : State) (c : Ctx) (t : Tok), s.ctx.tokens .X t = .ok c :=
  ⟨{}, {}, ⟨false, false⟩, rfl⟩
theorem witness_movesSettingsAndMasks_7 :
    ∃ (s : State) (c : Ctx) (t : Tok) (x y : BitVec 6), s.ctx.tokens .X t = .ok c ∧ readyS c x ∧ readyS c y :=
  ⟨{}, {}, ⟨false, false⟩, 0, 0, rfl, readyS_of rfl, readyS_of rfl⟩
theorem witness_movesSettingsAndMasks_8 :
    ∃ (s : State) (c : Ctx) (t : Tok) (rd : BitVec 6), s.ctx.tokens .X t = .ok c ∧ (c.exposed .X = true ∨ ∀ r ∈ c.inFlight, r.eng = .A) ∧ readyS c rd ∧
    c.inFlight.length < 32 :=
  ⟨{}, {}, ⟨false, false⟩, 0, rfl, .inr (by intro x hx; cases hx), readyS_of rfl, by decide⟩
theorem witness_movesSettingsAndMasks_9 :
    ∃ (s : State) (c : Ctx) (t : Tok) (q : BitVec 6) (n : BitVec 12), s.ctx.tokens .X t = .ok c ∧ n.toNat ≤ c.lq[(q.setWidth 2 : BitVec 2).toNat].length ∧
    (∀ x ∈ c.lq[(q.setWidth 2 : BitVec 2).toNat].take n.toNat, filled x) :=
  ⟨withCtx { lq := (Vector.replicate 4 []).set 3 [{ data := 7, len := 4, pending := false }] }, { lq := (Vector.replicate 4 []).set 3 [{ data := 7, len := 4, pending := false }] },
    ⟨false, false⟩, 3, 1, rfl, by decide, (by decide : ∀ x ∈ [({ data := 7, len := 4, pending := false } : QEntry)].take 1, x.pending = false)⟩
theorem witness_movesSettingsAndMasks_10 :
    ∃ (s : State) (c : Ctx) (i : Instr) (t : Tok) (d x y : BitVec 6) (f : Bool → Bool → Bool), maskForm i = some (t, d, x, y, f) ∧ s.ctx.tokens .X t = .ok
    c ∧ readyK c (x.setWidth 3) ∧ readyK c (y.setWidth 3) ∧ readyK c (d.setWidth 3) ∧ wideRoom c :=
  ⟨{}, {}, .knot ⟨false, false⟩ 7 1, _, _, _, _, _, rfl, rfl, readyK_of rfl, readyK_of rfl, readyK_of rfl, ⟨by decide, by decide⟩⟩
theorem witness_movesSettingsAndMasks_11 :
    ∃ (s : State) (c : Ctx) (t : Tok) (d x : BitVec 6), s.ctx.tokens .X t = .ok c ∧ readyS c x ∧ readyK c (d.setWidth 3) ∧ wideRoom c :=
  ⟨{}, {}, ⟨false, false⟩, 0, 0, rfl, readyS_of rfl, readyK_of rfl, ⟨by decide, by decide⟩⟩
theorem witness_elementWise_1 :
    ∃ (s : State) (c c' : Ctx) (i : Instr) (T : Fmt) (f : VecForm) (vs : List VReg), i.WellFormed = true ∧ vecForm c T i = some f ∧ elementType
    f.hdr.ty.toNat = some T ∧ (s.fullService s.cur.loom = true ∨ T ≠ .fp16) ∧ s.ctx.tokens .X f.tok = .ok c ∧ c.rows * c.cols * T.bytes ≤ 2048 ∧
    readyK c f.hdr.mask ∧ readyK c f.mask ∧ (∀ r ∈ f.scalars, readyS c r) ∧ readySrcs c f.srcs ∧ vTake c f.srcs = some (c', vs) ∧ vRoom c f.vd :=
  ⟨{}, {}, _, .vadd ⟨false, false⟩ ⟨0, 0, 0⟩ 1 2 3 0, .fp32, _, _, (by decide), rfl, rfl, .inr (by decide), rfl, by decide, readyK_of rfl, readyK_of
    rfl, (by intro r hr; cases hr), readySrcs_of rfl, rfl, vRoom_of rfl (by decide)⟩
theorem witness_vectorCompareAndConvert_1 :
    ∃ (s : State) (c c' : Ctx) (T : Fmt) (t : Tok) (h : VHdr) (kd x y : BitVec 6) (u w : VReg), elementType h.ty.toNat = some T ∧ (s.fullService s.cur.loom = true ∨ T ≠ .fp16)
    ∧ s.ctx.tokens .X t = .ok c ∧ c.rows * c.cols * T.bytes ≤ 2048 ∧ readyK c h.mask ∧ readyK c (kd.setWidth 3) ∧ readySrcs c [x, y] ∧ vTake c [x, y]
    = some (c', [u, w]) ∧ wideRoom c :=
  ⟨{}, {}, _, .fp32, ⟨false, false⟩, ⟨0, 0, 0⟩, 7, 31, 1, _, _, rfl, .inr (by decide), rfl, by decide, readyK_of rfl, readyK_of rfl, readySrcs_of rfl,
    rfl, ⟨by decide, by decide⟩⟩
theorem witness_vectorCompareAndConvert_2 :
    ∃ (s : State) (c c' : Ctx) (T D : Fmt) (t : Tok) (h : VHdr) (vd va : BitVec 6) (u : VReg), elementType h.ty.toNat = some T ∧ s.ctx.tokens .X t = .ok c
    ∧ Fmt.ofCode (entryO (s.ftxEntry c)) = some D ∧ D ≠ .e2m1 ∧ entryR (s.ftxEntry c) ≤ 5 ∧ (s.fullService s.cur.loom = true ∨ (T ≠ .fp16 ∧ (D = .fp32 ∨ D = .bf16)))
    ∧ c.rows * c.cols * T.bytes ≤ 2048 ∧ c.rows * c.cols * D.bytes ≤ 2048 ∧ readyK c h.mask ∧ readySrcs c [va] ∧ vTake c [va] = some (c', [u]) ∧ vRoom
    c vd :=
  ⟨{}, {}, _, .fp32, .fp32, ⟨false, false⟩, ⟨0, 0, 0⟩, 31, 1, _, rfl, rfl, rfl, (by decide), (by decide), .inr ⟨by decide, .inl rfl⟩, by decide, by
    decide, readyK_of rfl, readySrcs_of rfl, rfl, vRoom_of rfl (by decide)⟩
theorem witness_blockFormats_1 :
    ∃ (s : State) (c c' : Ctx) (T : Fmt) (t : Tok) (h : VHdr) (vd va vs : BitVec 6) (u : VReg), elementType h.ty.toNat = some T ∧ s.ctx.tokens .X t = .ok
    c ∧ s.fullService s.cur.loom = true ∧ entryO (s.ftxEntry c) = 5 ∧ entryS (s.ftxEntry c) = true ∧ entryR (s.ftxEntry c) ≤ 5 ∧ c.rows * c.cols *
    T.bytes ≤ 2048 ∧ c.cols % 32 = 0 ∧ readySrcs c [va] ∧ vTake c [va] = some (c', [u]) ∧ c.inFlight.length < 31 ∧ (c.inFlight.filter (fun r => r.dest.wide)).length
    < 29 ∧ vDest c vd 0 ∧ (vDest c vs (if 32 ≤ vd.toNat ∧ (vd.setWidth 1 : BitVec 1) = vs.setWidth 1 then 1 else 0)) :=
  ⟨(withPart { part with plane := entryPlane 0x00A8 }), {}, _, .fp32, ⟨false, false⟩, ⟨0, 0, 0⟩, 31, 1, 2, _, rfl, rfl, (by decide), (by decide +kernel),
    (by decide +kernel), (by decide +kernel), by decide, rfl, readySrcs_of rfl, rfl, by decide, by decide, (by exact readyV_of rfl), (by exact readyV_of rfl)⟩
theorem witness_blockFormats_2 :
    ∃ (s : State) (c c' : Ctx) (T : Fmt) (t : Tok) (h : VHdr) (vd va vb : BitVec 6) (u w : VReg), elementType h.ty.toNat = some T ∧ s.ctx.tokens .X t =
    .ok c ∧ s.fullService s.cur.loom = true ∧ entryA (s.ftxEntry c) = 5 ∧ entryS (s.ftxEntry c) = true ∧ c.rows * c.cols * T.bytes ≤ 2048 ∧ c.cols %
    32 = 0 ∧ readySrcs c [va, vb] ∧ vTake c [va, vb] = some (c', [u, w]) ∧ vRoom c vd :=
  ⟨(withPart { part with plane := entryPlane 0x5080 }), {}, _, .fp32, ⟨false, false⟩, ⟨0, 0, 0⟩, 31, 1, 2, _, _, rfl, rfl, (by decide), (by decide +kernel),
    (by decide +kernel), by decide, rfl, readySrcs_of rfl, rfl, vRoom_of rfl (by decide)⟩
theorem witness_reductionsAndLaneMoves_1 :
    ∃ (s : State) (c c' : Ctx) (i : Instr) (T : Fmt) (t : Tok) (h : VHdr) (vd va : BitVec 6) (wide sat : BitVec 1) (op : RedOp) (row : Bool) (u : VReg),
    redForm i = some (t, h, vd, va, wide, sat, op, row) ∧ elementType h.ty.toNat = some T ∧ (s.fullService s.cur.loom = true ∨ T ≠ .fp16) ∧
    s.ctx.tokens .X t = .ok c ∧ c.rows * c.cols * T.bytes ≤ 2048 ∧ (if row then c.rows else c.cols) * (wideType T wide).bytes ≤ 2048 ∧ readyK c h.mask
    ∧ readySrcs c [va] ∧ vTake c [va] = some (c', [u]) ∧ vRoom c vd :=
  ⟨{}, {}, _, .vredSumRow ⟨false, false⟩ ⟨0, 0, 0⟩ 31 1 1 0, .fp32, _, _, _, _, _, _, _, _, _, rfl, rfl, .inr (by decide), rfl, by decide, by decide,
    readyK_of rfl, readySrcs_of rfl, rfl, vRoom_of rfl (by decide)⟩
theorem witness_reductionsAndLaneMoves_2 :
    ∃ (s : State) (c c' : Ctx) (i : Instr) (T : Fmt) (t : Tok) (h : VHdr) (vd : BitVec 6) (srcs : List (BitVec 6)) (limit : Nat) (src : List VReg → Nat → Nat)
    (vs : List VReg), moveForm c.rows c.cols i = some (t, h, vd, srcs, limit, src) ∧ elementType h.ty.toNat = some T ∧ (s.fullService s.cur.loom = true ∨ T ≠ .fp16)
    ∧ s.ctx.tokens .X t = .ok c ∧ c.rows * c.cols * T.bytes ≤ 2048 ∧ c.rows * c.cols ≤ limit ∧ readyK c h.mask ∧ readySrcs c srcs ∧ vTake c srcs =
    some (c', vs) ∧ vRoom c vd :=
  ⟨{}, {}, _, .vtran ⟨false, false⟩ ⟨0, 0, 0⟩ 31 1, .fp32, _, _, _, _, _, _, _, rfl, rfl, .inr (by decide), rfl, by decide, by decide, readyK_of rfl,
    readySrcs_of rfl, rfl, vRoom_of rfl (by decide)⟩
theorem witness_fencesAndReleases_1 :
    ∃ (s : State) (c : Ctx) (t : Tok), s.ctx.tokens .A t = .ok c :=
  ⟨{}, {}, ⟨false, false⟩, rfl⟩
theorem witness_fencesAndReleases_2 :
    ∃ (s : State) (c : Ctx) (t : Tok), s.ctx.tokens .A t = .ok c :=
  ⟨{}, {}, ⟨false, false⟩, rfl⟩
theorem witness_fencesAndReleases_3 :
    ∃ (s : State) (c : Ctx) (t : Tok), s.ctx.tokens .A t = .ok c :=
  ⟨{}, {}, ⟨false, false⟩, rfl⟩
theorem witness_fencesAndReleases_4 :
    ∃ (s : State) (c : Ctx) (t : Tok) (rb : BitVec 6) (st : BitVec 4) (scope : BitVec 5), s.ctx.tokens .A t = .ok c ∧ readyA c rb ∧ objectOk (c.aVal rb) ∧ let a := (c.aVal rb).toNat;
    let covered : Nat → Bool := fun n => decide (scope ≠ 0) || decide (n = st.toNat);
    (∀ x ∈ c.accs, covered x.stream.toNat = true → s.readsObject c.peer x a = false) :=
  ⟨{}, {}, ⟨false, false⟩, 0, 0, 0, rfl, readyA_of rfl, .inr ⟨by decide, by decide⟩, (fun x hx => by cases hx)⟩
theorem witness_fencesAndReleases_5 :
    ∃ (s : State) (c : Ctx) (t : Tok) (rb : BitVec 6), s.ctx.tokens .A t = .ok c ∧ readyA c rb ∧ objectOk (c.aVal rb) ∧ c.rels.length < 4 :=
  ⟨{}, {}, ⟨false, false⟩, 0, rfl, readyA_of rfl, .inr ⟨by decide, by decide⟩, (by decide)⟩
theorem witness_fencesAndReleases_6 :
    ∃ (s : State) (c : Ctx) (t : Tok), s.ctx.tokens .A t = .ok c :=
  ⟨{}, {}, ⟨false, false⟩, rfl⟩
theorem witness_bindingsAndPrefetch_1 :
    ∃ (s : State) (c : Ctx) (t : Tok) (p : Partition), s.ctx.tokens .A t = .ok c ∧ s.part? c.peer = some p ∧ c.accs = [] ∧ p.diffing = false ∧ ∃ (ra rb : BitVec 6)
    (kind : BitVec 5) (ao : BitVec 6) (pl : Place) (i : Nat), readyA c ra ∧ readyA c rb ∧ readyA c ao ∧ (c.aVal ra).toNat % 128 = 0 ∧ (c.aVal rb).toNat
    % 128 = 0 ∧ place (c.aVal ra) = some pl ∧ (match pl with | .virt _ | .loom _ | .bolt _ => True | _ => False) ∧ pl.offset.1 + (c.aVal rb).toNat ≤
    pl.offset.2 ∧ bindObject s p c kind.toNat (c.aVal ao) ∧ (∀ b ∈ p.bindings, overlapLen (c.aVal ra).toNat (c.aVal rb).toNat b.base b.len = 0) ∧ i <
    256 ∧ (∀ b ∈ p.bindings, b.idx ≠ i) ∧ (∀ j < i, ∃ b ∈ p.bindings, b.idx = j) :=
  ⟨{ withPart part with looms := [(0, { pick := copyRegs })] }, copyRegs, ⟨false, false⟩, part, rfl, rfl, rfl, rfl, 0, 3, 0, 1, .virt 0, 0, readyA_of
    rfl, readyA_of rfl, readyA_of rfl, rfl, rfl, rfl, trivial, by decide, ⟨rfl, .inl (.inl ⟨0, rfl, by decide⟩)⟩, (by simp [part_bindings]), (by decide),
    (by simp [part_bindings]), (by intro j hj; cases hj)⟩
theorem witness_bindingsAndPrefetch_2 :
    ∃ (s : State) (c : Ctx) (t : Tok) (p : Partition), s.ctx.tokens .A t = .ok c ∧ s.part? c.peer = some p ∧ c.accs = [] ∧ p.diffing = false ∧ ∃ (ra : BitVec 6)
    (b : Binding), readyA c ra ∧ b ∈ p.bindings ∧ b.base = (c.aVal ra).toNat ∧ (∀ d ∈ p.bindings, d.base = b.base → d = b) :=
  ⟨{ parts := [(0, boundPart)] }, {}, ⟨false, false⟩, boundPart, rfl, rfl, rfl, rfl, 0, ⟨0, 0, 128, 0x100000001, 1⟩, readyA_of rfl, (by rw [bound_bindings]; exact List.mem_singleton.mpr rfl),
    rfl, (by rw [bound_bindings]; intro d hd _; exact List.mem_singleton.mp hd)⟩
theorem witness_bindingsAndPrefetch_3 :
    ∃ (s : State) (c : Ctx) (t : Tok) (base : BitVec 6) (st : BitVec 4) (off : BitVec 8), s.ctx.tokens .A t = .ok c ∧ readyA c base ∧ fenceFree c st ∧ let ea := address c base off 128;
    (∀ va, place ea ≠ some (.virt va)) :=
  ⟨withCtx { a := (Vector.replicate 64 0).set 1 0x1000000000000000 }, { a := (Vector.replicate 64 0).set 1 0x1000000000000000 }, ⟨false, false⟩, 1, 0,
    0, rfl, readyA_of rfl, fenceFree_of rfl, (fun va h => nomatch (rfl : place _ = some (.loom 0)).symm.trans h)⟩
theorem witness_bindingsAndPrefetch_4 :
    ∃ (s : State) (c : Ctx) (t : Tok) (base : BitVec 6) (st : BitVec 4) (off : BitVec 8), s.ctx.tokens .A t = .ok c ∧ readyA c base ∧ fenceFree c st ∧ let ea := address c base off 128;
    ∃ va e, place ea = some (.virt va) ∧ held s c va = some e :=
  ⟨{ bolts := [(0, { tlb := [{ peer := 0, va := 0, size := 65536, pa := 0, attrs := 0xFF }] })] }, {}, ⟨false, false⟩, 0, 0, 0, rfl, readyA_of rfl,
    fenceFree_of rfl, 0, _, rfl, rfl⟩
theorem witness_bindingsAndPrefetch_5 :
    ∃ (s : State) (c : Ctx) (t : Tok) (base : BitVec 6) (st : BitVec 4) (off : BitVec 8), s.ctx.tokens .A t = .ok c ∧ readyA c base ∧ fenceFree c st ∧ let ea := address c base off 128;
    ∃ va x, place ea = some (.virt va) ∧ held s c va = none ∧ x ∈ (s.bolt (boltOf s.cur.loom)).badWalks ∧ x.who = s.cur.who ∧ x.peer = c.peer ∧ x.page
    = pageOf va :=
  ⟨{ bolts := [(0, { badWalks := [⟨(0, 0), 0, 0, 0, 0, 0⟩] })] }, {}, ⟨false, false⟩, 0, 0, 0, rfl, readyA_of rfl, fenceFree_of rfl, 0, ⟨(0, 0), 0, 0,
    0, 0, 0⟩, rfl, rfl, List.mem_singleton.mpr rfl, rfl, rfl, rfl⟩
theorem witness_barrierWaits_1 :
    ∃ (s : State) (c : Ctx) (t : Tok) (ra rb : BitVec 6) (st : BitVec 4) (sp : Span), s.ctx.tokens .A t = .ok c ∧ readyA c ra ∧ readyA c rb ∧ (c.aVal rb).toNat
    / 2 ^ 60 ≠ 15 ∧ (c.aVal rb).toNat % 32 = 0 ∧ placedOne s c .object 0x2C (c.aVal rb) 32 = some [sp] ∧ sp.peer = none ∧ fenceFree c st ∧ c.unwritten
    st [sp] = false ∧ (s.meetBarrier sp).2 = none :=
  ⟨withCtx { a := (Vector.replicate 64 0).set 1 0x1000000000000000 }, { a := (Vector.replicate 64 0).set 1 0x1000000000000000 }, ⟨false, false⟩, 0, 1,
    0, _, rfl, readyA_of rfl, readyA_of rfl, (by decide), (by decide), rfl, rfl, fenceFree_of rfl, rfl, rfl⟩
theorem witness_barrierWaits_2 :
    ∃ (s : State) (loom : Nat) (ev : Bool) (pa phase raw : Nat) (sp : Span) (p : Partition), (s.ctxAt loom ev).barWait = some (pa, phase, raw) ∧ (s.ctxAt loom ev).act
    = .running ∧ s.barrierHere loom (s.ctxAt loom ev).peer (BitVec.ofNat 64 raw) = some sp ∧ s.part? (s.ctxAt loom ev).peer = some p ∧ p.barrierLimit
    ≠ 0 :=
  ⟨{ parts := [(0, { part with barrierLimit := 1 })], looms := [(0, { pick := { act := .running, barWait := some (loomPad 0 64, 0, 0x1000000000000040) } })] },
    0, false, loomPad 0 64, 0, 0x1000000000000040, _, { part with barrierLimit := 1 }, rfl, rfl, rfl, rfl, (by decide)⟩
theorem witness_copiesIssue_1 :
    ∃ (s : State) (c : Ctx) (i : Instr) (f : CopyForm), copyForm s c i = some f ∧ s.ctx.tokens .A f.tok = .ok c ∧ (∀ r ∈ f.srcs, readyA c r) ∧ copyFree s
    c f :=
  ⟨withCtx copyRegs, copyRegs, .cpy ⟨false, false⟩ 1 2 0 3 0 0 0, (copyForm (withCtx copyRegs) copyRegs (.cpy ⟨false, false⟩ 1 2 0 3 0 0 0)).get (by decide +kernel),
    (some_of _), (exceptOk (by decide +kernel)), fun _ _ => readyA_of rfl, ⟨fenceFree_of rfl, counterFree_of rfl, (exceptOk (by decide +kernel)), by
    decide +kernel⟩⟩
theorem witness_channelsAndStashIssue_1 :
    ∃ (s : State) (c : Ctx) (t : Tok) (ra rb : BitVec 6) (st : BitVec 4) (p : Partition) (e : Channel) (m : Member), s.ctx.tokens .A t = .ok c ∧ readyA c
    ra ∧ readyA c rb ∧ s.part? c.peer = some p ∧ s.reachable c.peer m.peer = true ∧ (c.aVal ra).toNat < 64 ∧ s.channelEntry c.peer (c.aVal ra).toNat
    true = .ok (e, m) ∧ let r : RecvCh := SMap.getD p.recvCh (c.aVal ra).toNat {};
    (c.aVal rb).toNat ≤ r.filled.length ∧ fenceFree c st :=
  ⟨{ parts := [(0, inFabric)] }, {}, ⟨false, false⟩, 0, 0, 0, inFabric, { slots := 1, slotSize := 128 }, ⟨0, 1, 0⟩, rfl, readyA_of rfl, readyA_of rfl,
    rfl, rfl, by decide, rfl, by decide, fenceFree_of rfl⟩
theorem witness_channelsAndStashIssue_2 :
    ∃ (s : State) (c : Ctx) (t : Tok) (ra rb : BitVec 6) (st : BitVec 4) (p : Partition) (e : Channel) (m : Member), s.ctx.tokens .A t = .ok c ∧ readyA c
    ra ∧ readyA c rb ∧ s.part? c.peer = some p ∧ s.reachable c.peer m.peer = true ∧ ∃ f, (c.aVal rb).toNat < 64 ∧ s.channelEntry c.peer (c.aVal rb).toNat
    false = .ok (e, m) ∧ p.fabric = some f ∧ fenceFree c st ∧ dataRoom c (.reg ra) :=
  ⟨{ parts := [(0, inFabric)] }, {}, ⟨false, false⟩, 0, 0, 0, inFabric, { slots := 1, slotSize := 128 }, ⟨0, 1, 0⟩, rfl, readyA_of rfl, readyA_of rfl,
    rfl, rfl, _, by decide, rfl, rfl, fenceFree_of rfl, ⟨by decide, by decide⟩⟩
theorem witness_channelsAndStashIssue_3 :
    ∃ (s : State) (c : Ctx) (t : Tok) (ra rb ab : BitVec 6) (st : BitVec 4) (bar : Option Span), s.ctx.tokens .A t = .ok c ∧ readyA c ra ∧ readyA c rb ∧
    readyA c ab ∧ (c.aVal rb).toNat / 2 ^ 44 = 0 ∧ fenceFree c st ∧ s.objectBarrier c 0x37 ab (c.aVal ab) = .ok bar ∧ (c.aVal ra).toNat / 2 ^ 60 ≠ 15
    ∧ ∃ (aL aa : BitVec 6), readyA c aL ∧ readyA c aa :=
  ⟨{}, {}, ⟨false, false⟩, 0, 0, 0, 0, none, rfl, readyA_of rfl, readyA_of rfl, readyA_of rfl, rfl, fenceFree_of rfl, rfl, (by decide), 0, 0, readyA_of
    rfl, readyA_of rfl⟩
theorem witness_channelsAndStashIssue_4 :
    ∃ (s : State) (c : Ctx) (t : Tok) (ra rb ab : BitVec 6) (st : BitVec 4) (bar : Option Span), s.ctx.tokens .A t = .ok c ∧ readyA c ra ∧ readyA c rb ∧
    readyA c ab ∧ (c.aVal rb).toNat / 2 ^ 44 = 0 ∧ fenceFree c st ∧ s.objectBarrier c 0x37 ab (c.aVal ab) = .ok bar ∧ (c.aVal ra).toNat / 2 ^ 60 ≠ 15 :=
  ⟨{}, {}, ⟨false, false⟩, 0, 0, 0, 0, none, rfl, readyA_of rfl, readyA_of rfl, readyA_of rfl, rfl, fenceFree_of rfl, rfl, (by decide)⟩
theorem witness_channelsAndStashIssue_5 :
    ∃ (s : State) (c : Ctx) (t : Tok) (ra rb ab : BitVec 6) (st : BitVec 4) (bar : Option Span), s.ctx.tokens .A t = .ok c ∧ readyA c ra ∧ readyA c rb ∧
    readyA c ab ∧ (c.aVal rb).toNat / 2 ^ 44 = 0 ∧ fenceFree c st ∧ s.objectBarrier c 0x37 ab (c.aVal ab) = .ok bar ∧ (c.aVal ra).toNat / 2 ^ 60 ≠ 15 :=
  ⟨{}, {}, ⟨false, false⟩, 0, 0, 0, 0, none, rfl, readyA_of rfl, readyA_of rfl, readyA_of rfl, rfl, fenceFree_of rfl, rfl, (by decide)⟩
theorem witness_channelsAndStashIssue_6 :
    ∃ (s : State) (c : Ctx) (t : Tok) (ra rb ab : BitVec 6) (st : BitVec 4) (bar : Option Span), s.ctx.tokens .A t = .ok c ∧ readyA c ra ∧ readyA c rb ∧
    readyA c ab ∧ (c.aVal rb).toNat / 2 ^ 44 = 0 ∧ fenceFree c st ∧ s.objectBarrier c 0x37 ab (c.aVal ab) = .ok bar ∧ (c.aVal ra).toNat / 2 ^ 60 ≠ 15 :=
  ⟨{}, {}, ⟨false, false⟩, 0, 0, 0, 0, none, rfl, readyA_of rfl, readyA_of rfl, readyA_of rfl, rfl, fenceFree_of rfl, rfl, (by decide)⟩
theorem witness_tasksIssueAndCancel_1 :
    ∃ (s : State) (c : Ctx) (t : Tok) (ra rb ac ab km1 : BitVec 6) (st opc : BitVec 4) (p1 p2 : BitVec 8) (i : Instr) (int : Bool) (n : Nat) (tsps : List Span)
    (rest : List (List Span)), ((i = .taskPut t ra rb st ac ab km1 opc ∧ p1 = 0 ∧ p2 = 0) ∨ i = .taskPutp t ra rb st ac ab km1 opc p1 p2) ∧
    s.ctx.tokens .A t = .ok c ∧ (∀ r ∈ [ra, ra + 1, rb, rb + 1, ac, ab], readyA c r) ∧ let e := s.fmtEntry c (selIndex c.ftbase c.ea.lc);
    let w := taskWord0 opc km1 s.cur.ev s.cur.loom p1 p2 c.seq;
    let da := (c.aVal ra, c.aVal (ra + 1));
    let db := (c.aVal rb, c.aVal (rb + 1));
    let oa := operandA w e da;
    let ob := operandB w e db;
    let b := boltOf s.cur.loom;
    let num : NumCmd := { seq := c.seq, id := c.nextId, reads := oa.ranges b ++ ob.ranges b, writes := [], preds := c.predSeqs p1 p2, stream := st, reading := true };
    taskEntry (s.fullService s.cur.loom) opc.toNat e = .ok int ∧ oa.ok da = true ∧ ob.ok db = true ∧ (c.aVal ac).toNat % (if int then 131072 else 65536)
    = 0 ∧ barrierAt (c.aVal ab) ∧ ranges s c (⟨.tileC, 0x3B, 0, c.aVal ac, if int then 131072 else 65536⟩ :: barrierRunAt 0x3B (c.aVal ab)) = some
    (tsps :: rest) ∧ tileOf int tsps = some n ∧ fenceFree c st ∧ counterFree c (some .tkc) ∧ c.checkNumber (s.determinate c) num = .ok () ∧ ((s.bolt b).recs.filter (fun r => r.engine.isNone && !r.cancelled)).length
    < 64 :=
  ⟨withPage (withPart { part with plane := entryPlane 0x1100 }) 0x60000000000 0x20, {}, ⟨false, false⟩, 0, 0, 0, 0, 0, 0, 0, 0, 0, .taskPut ⟨false,
    false⟩ 0 0 0 0 0 0 0, false, _, [{ pa := 0x60000000000, va := 0, len := 65536, off := 0, attrs := 0x20 }], [], .inl ⟨rfl, rfl, rfl⟩, rfl, fun _ _
    => readyA_of rfl, (exceptOk (by decide +kernel)), (by decide +kernel), (by decide +kernel), (by decide +kernel), ⟨by decide, by decide⟩, (optionIs (by decide +kernel)),
    rfl, fenceFree_of rfl, counterFree_of rfl, (exceptOk (by decide +kernel)), (by decide +kernel)⟩
theorem witness_tasksIssueAndCancel_2 :
    ∃ (s : State) (c : Ctx) (t : Tok) (ra rb : BitVec 6) (st : BitVec 4), s.ctx.tokens .A t = .ok c ∧ readyA c rb ∧ (c.aVal rb).toNat / 2 ^ 60 ≠ 15 ∧
    fenceFree c st ∧ dataRoom c (.reg ra) :=
  ⟨{}, {}, ⟨false, false⟩, 0, 0, 0, rfl, readyA_of rfl, (by decide), fenceFree_of rfl, ⟨by decide, by decide⟩⟩
theorem witness_tileOperationsIssue_1 :
    ∃ (s : State) (c : Ctx) (t : Tok) (ra rb sl : BitVec 6) (st : BitVec 4) (n : Nat) (tsps : List Span) (rest : List (List Span)), s.ctx.tokens .A t =
    .ok c ∧ readyA c ra ∧ readyA c rb ∧ readyA c sl ∧ (s.determinate c = true → (c.aVal sl).toNat % 8 = 0) ∧ let x := (c.aVal rb).toNat;
    let int := x.testBit 16;
    let slots : List Run := if s.determinate c then [⟨.load, 0x3C, 0, c.aVal sl, 8 * (x % 2 ^ 13)⟩] else [];
    1 ≤ x % 2 ^ 13 ∧ x % 2 ^ 13 ≤ 4096 ∧ x / 2 ^ 13 % 8 = 0 ∧ x / 2 ^ 17 = 0 ∧ (c.aVal ra).toNat % (if int then 131072 else 65536) = 0 ∧ ranges s c
    (⟨.tileC, 0x3C, 0, c.aVal ra, if int then 131072 else 65536⟩ :: slots) = some (tsps :: rest) ∧ tileOf int tsps = some n ∧ fenceFree c st :=
  ⟨({ withPage (withCtx { a := (Vector.replicate 64 0).set 1 1 }) 0x60000000000 0x20 with parts := [(0, part)] }), { a := (Vector.replicate 64 0).set 1 1 },
    ⟨false, false⟩, 0, 1, 0, 0, _, _, [], rfl, readyA_of rfl, readyA_of rfl, readyA_of rfl, by decide, by decide, by decide, rfl, rfl, rfl, rfl, rfl,
    fenceFree_of rfl⟩
theorem witness_tileOperationsIssue_2 :
    ∃ (s : State) (c : Ctx) (t : Tok) (ra rb aP ab : BitVec 6) (st : BitVec 4) (n : Nat) (f : Fmt) (r : List (List Span)) (tsps : List Span), s.ctx.tokens
    .A t = .ok c ∧ readyA c ra ∧ readyA c rb ∧ readyA c aP ∧ readyA c ab ∧ let e := s.fmtEntry c (selIndex c.ftbase c.ea.lc);
    let pitch : BitVec 32 := BitVec.ofNat 32 (c.aVal aP).toNat;
    let w := ((Fmt.ofCode (entryO e)).getD .fp32).bytes;
    let m := (((r.getD 128 []).head?).map (fun sp => sp.pa / 65536)).getD 0;
    let int := s.drainsInt c m;
    (c.aVal ra).toNat % 4 = 0 ∧ pitch.toNat % 4 = 0 ∧ barrierAt (c.aVal ab) ∧ ranges s c ((List.range 128).map (fun k => (⟨.copyDst, 0x3C, k * (128 * w), BitVec.ofInt 64 (inOffset (c.aVal ra).toNat (k * pitch.toInt)), 128 * w⟩ : Run)) ++ [⟨.tileC, 0x3C, 0, c.aVal rb, 65536⟩] ++ barrierRun 0x3C ab (c.aVal ab))
    = some r ∧ (c.aVal rb).toNat % (if int then 131072 else 65536) = 0 ∧ drainEntry (s.fullService s.cur.loom) int e = .ok f ∧ 128 * w ≤
    pitch.toInt.natAbs ∧ placedOne s c .tileC 0x3C (c.aVal rb) (if int then 131072 else 65536) = some tsps ∧ tileOf int tsps = some n ∧ fenceFree c st :=
  ⟨withPage ({ withPart part with looms := [(0, { pick := { a := ((Vector.replicate 64 0).set 1 0x1000000000000000).set 2 512 } })] }) 0x60000000000
    0x20, { a := ((Vector.replicate 64 0).set 1 0x1000000000000000).set 2 512 }, ⟨false, false⟩, 1, 0, 2, 0, 0, _, .fp32, (List.range 128).map (fun k => [{ pa := loomPad 0 (512 * k), va := 0x1000000000000000 + 512 * k, len := 512, off := 512 * k }])
    ++ [[{ pa := 0x60000000000, va := 0, len := 65536, off := 0, attrs := 0x20 }]], [{ pa := 0x60000000000, va := 0, len := 65536, off := 0, attrs := 0x20 }],
    rfl, readyA_of rfl, readyA_of rfl, readyA_of rfl, readyA_of rfl, rfl, rfl, ⟨by decide, by decide⟩, (optionIs (by decide +kernel)), (by decide +kernel),
    (exceptOk (by decide +kernel)), (by decide +kernel), (optionIs (by decide +kernel)), rfl, fenceFree_of rfl⟩
theorem witness_bobbinsAndSuspensionsIssue_1 :
    ∃ (s : State) (c : Ctx) (t : Tok) (ra rb : BitVec 6) (st : BitVec 4) (p : Partition) (a : Nat) (bs : List Byte) (sps : List Span) (lat : Nat),
    s.ctx.tokens .A t = .ok c ∧ readyA c rb ∧ (c.aVal rb).toNat / 2 ^ 60 ≠ 15 ∧ (c.aVal rb).toNat % 8 = 0 ∧ c.operands.find? (fun x => x.1 == (c.aVal rb).toNat)
    = some (a, bs) ∧ s.part? c.peer = some p ∧ let d := ArmDesc.ofNat (leNat bs);
    let q := d.region.toNat / 2 ^ 48 % 2 ^ 12;
    let va := d.region.toNat % 2 ^ 48;
    d.region.toNat % 128 = 0 ∧ d.length % 128 = 0 ∧ fenceFree c st ∧ dataRoom c (.reg ra) ∧ ∃ (u : State) (h : W64), ((d.space = some 1 ∧ lat = 384 ∧ sps = [{ pa := boltPad (boltOf s.cur.loom) (d.region.toNat % 2 ^ 23), va := d.region.toNat, len := d.length, off := 0 }]) ∨ (d.space = some 0 ∧ lat = 1536 ∧ s.regionPages s.cur.who c.peer va d.length = .ok sps) ∨ (d.space = some 2 ∧ lat = 1536 ∧ q = c.peer ∧ s.checkPeer c.peer q = .ok () ∧ d.length ≠ 0 ∧ va + d.length ≤ 2 ^ 48 ∧ s.peerSpans p .armed 0 (d.length / 65536 + 2) va d.length = .ok sps))
    ∧ s.armAt c.peer p d (boltOf s.cur.loom) sps = .ok (u, h) :=
  ⟨{ withPart part with looms := [(0, { pick := { operands := [(0, leBytes 32 (2 * 2 ^ 60 + 128 * 2 ^ 64 + 2 ^ 128))] } })] }, { operands := [(0, leBytes 32 (2 * 2 ^ 60 + 128 * 2 ^ 64 + 2 ^ 128))] },
    ⟨false, false⟩, 0, 0, 0, part, _, _, _, _, rfl, readyA_of rfl, (by decide), rfl, rfl, rfl, rfl, rfl, fenceFree_of rfl, ⟨by decide, by decide⟩, _,
    _, .inl ⟨rfl, rfl, rfl⟩, rfl⟩
theorem witness_bobbinsAndSuspensionsIssue_2 :
    ∃ (s : State) (c : Ctx) (t : Tok) (ra rb : BitVec 6) (st : BitVec 4) (p : Partition) (a : Nat) (bs : List Byte) (lat : Nat), s.ctx.tokens .A t = .ok c
    ∧ readyA c rb ∧ (c.aVal rb).toNat / 2 ^ 60 ≠ 15 ∧ (c.aVal rb).toNat % 8 = 0 ∧ c.operands.find? (fun x => x.1 == (c.aVal rb).toNat) = some (a, bs)
    ∧ s.part? c.peer = some p ∧ let d := ArmDesc.ofNat (leNat bs);
    let q := d.region.toNat / 2 ^ 48 % 2 ^ 12;
    let va := d.region.toNat % 2 ^ 48;
    d.region.toNat % 128 = 0 ∧ d.length % 128 = 0 ∧ fenceFree c st ∧ dataRoom c (.reg ra) ∧ ∃ (sp : Span), sp = { pa := 0, va := va, len := 8, off := 0, peer := some q }
    ∧ d.space = some 2 ∧ q ≠ c.peer ∧ s.checkPeer c.peer q = .ok () ∧ lat = s.latency c.peer sp d.region :=
  ⟨paired { operands := [(0, leBytes 32 (4 * 2 ^ 60 + 2 ^ 48 + 128 * 2 ^ 64 + 2 ^ 128))] }, { operands := [(0, leBytes 32 (4 * 2 ^ 60 + 2 ^ 48 + 128 * 2 ^ 64 + 2 ^ 128))] },
    ⟨false, false⟩, 0, 0, 0, { part with fabric := some pairFabric }, _, _, _, rfl, readyA_of rfl, (by decide), rfl, rfl, rfl, rfl, rfl, fenceFree_of
    rfl, ⟨by decide, by decide⟩, _, rfl, rfl, (by decide), rfl, rfl⟩
theorem witness_bobbinsAndSuspensionsIssue_3 :
    ∃ (s : State) (c : Ctx) (t : Tok) (ra rb : BitVec 6) (st : BitVec 4) (i : Instr) (k : W64 → AccKind), ((i = .bobDisarm t ra rb st ∧ k = .bobDisarm) ∨ (i = .bobRead t ra rb st ∧ k = .bobRead))
    ∧ s.ctx.tokens .A t = .ok c ∧ readyA c rb ∧ handleOk (c.aVal rb) ∧ fenceFree c st ∧ dataRoom c (.reg ra) ∧ let q := (c.aVal rb).toNat / 2 ^ 48 % 2 ^ 12;
    q = c.peer :=
  ⟨withCtx { a := (Vector.replicate 64 0).set 1 0xF000000000000000 }, { a := (Vector.replicate 64 0).set 1 0xF000000000000000 }, ⟨false, false⟩, 0, 1,
    0, _, _, .inl ⟨rfl, rfl⟩, rfl, readyA_of rfl, ⟨by decide, by decide, by decide⟩, fenceFree_of rfl, ⟨by decide, by decide⟩, rfl⟩
theorem witness_bobbinsAndSuspensionsIssue_4 :
    ∃ (s : State) (c : Ctx) (t : Tok) (ra rb : BitVec 6) (st : BitVec 4) (i : Instr) (k : W64 → AccKind), ((i = .bobDisarm t ra rb st ∧ k = .bobDisarm) ∨ (i = .bobRead t ra rb st ∧ k = .bobRead))
    ∧ s.ctx.tokens .A t = .ok c ∧ readyA c rb ∧ handleOk (c.aVal rb) ∧ fenceFree c st ∧ dataRoom c (.reg ra) ∧ let q := (c.aVal rb).toNat / 2 ^ 48 % 2 ^ 12;
    q ≠ c.peer ∧ s.checkPeer c.peer q = .ok () :=
  ⟨paired { a := (Vector.replicate 64 0).set 1 0xF001000000000000 }, { a := (Vector.replicate 64 0).set 1 0xF001000000000000 }, ⟨false, false⟩, 0, 1, 0,
    _, _, .inl ⟨rfl, rfl⟩, rfl, readyA_of rfl, ⟨by decide, by decide, by decide⟩, fenceFree_of rfl, ⟨by decide, by decide⟩, (by decide), rfl⟩
theorem witness_bobbinsAndSuspensionsIssue_5 :
    ∃ (s : State) (c : Ctx) (t : Tok) (ra rb ah : BitVec 6) (st : BitVec 4) (a : Nat) (bs : List Byte) (sps : List Span), s.ctx.tokens .A t = .ok c ∧
    readyA c rb ∧ readyA c ah ∧ (c.aVal rb).toNat / 2 ^ 60 ≠ 15 ∧ (c.aVal ah).toNat / 2 ^ 60 ≠ 15 ∧ (c.aVal rb).toNat % 8 = 0 ∧ c.operands.find? (fun x => x.1 == (c.aVal rb).toNat)
    = some (a, bs) ∧ let d := SuspDesc.ofNat (leNat bs);
    let head := (c.aVal ah).toNat;
    let runs := s.regionRuns s.cur.who c.peer (d.extent / 65536 + 2) head d.extent;
    head + d.extent ≤ 2 ^ 48 ∧ runs.map (fun r => r.2) = sps.map (fun sp => (.ok sp : Act Span)) ∧ suspCheck (c.aVal rb) (c.aVal ah) d (leNat bs)
    (some sps) = none ∧ fenceFree c st ∧ dataRoom c (.reg ra) :=
  ⟨withPage (withCtx { operands := [(0, leBytes 32 (128 * 2 ^ 128))] }) 0 0x0C, { operands := [(0, leBytes 32 (128 * 2 ^ 128))] }, ⟨false, false⟩, 0, 0,
    0, 0, _, _, [{ pa := 0, va := 0, len := 128, off := 0, attrs := 0x0C }], rfl, readyA_of rfl, readyA_of rfl, (by decide), (by decide), rfl, rfl, by
    decide, rfl, rfl, fenceFree_of rfl, ⟨by decide, by decide⟩⟩
theorem witness_bobbinsAndSuspensionsIssue_6 :
    ∃ (s : State) (c : Ctx) (t : Tok) (ra rb : BitVec 6) (st : BitVec 4) (sps : List Span), s.ctx.tokens .A t = .ok c ∧ readyA c rb ∧ (c.aVal rb).toNat /
    2 ^ 60 ≠ 15 ∧ placedOne s c .load 0x2F (c.aVal rb) 1 = some sps ∧ fenceFree c st ∧ dataRoom c (.reg ra) :=
  ⟨withPage {} 0 0, {}, ⟨false, false⟩, 0, 0, 0, _, rfl, readyA_of rfl, (by decide), rfl, fenceFree_of rfl, ⟨by decide, by decide⟩⟩
theorem witness_tableLoadsAndFillsIssue_1 :
    ∃ (s : State) (c : Ctx) (t : Tok) (rb : BitVec 6) (st : BitVec 4) (sps : List Span), s.ctx.tokens .A t = .ok c ∧ readyA c rb ∧ (c.aVal rb).toNat % 8 =
    0 ∧ ranges s c [⟨.copySrc, 0x35, 0, c.aVal rb, 320⟩] = some [sps] ∧ fenceFree c st ∧ c.copyStore.length < 16 :=
  ⟨withCtx { a := (Vector.replicate 64 0).set 1 0x1000000000000000 }, { a := (Vector.replicate 64 0).set 1 0x1000000000000000 }, ⟨false, false⟩, 1, 0,
    _, rfl, readyA_of rfl, rfl, rfl, fenceFree_of rfl, by decide⟩
theorem witness_tableLoadsAndFillsIssue_2 :
    ∃ (s : State) (c : Ctx) (t : Tok) (ra rb aL ab : BitVec 6) (st : BitVec 4) (r : EvalRec) (spss : List (List Span)), s.ctx.tokens .A t = .ok c ∧ readyA
    c ra ∧ readyA c rb ∧ readyA c aL ∧ readyA c ab ∧ let dst := (c.aVal ra).toNat;
    let len := (c.aVal aL).toNat % 2 ^ 32;
    let runs := s.regionRuns s.cur.who c.peer (len / 65536 + 2) dst len;
    dst / 2 ^ 60 ≠ 15 ∧ (c.aVal rb).toNat / 2 ^ 60 ≠ 15 ∧ (c.aVal rb).toNat % 4 = 0 ∧ barrierAt (c.aVal ab) ∧ s.fillRecord s.cur.loom s.cur.ev = some
    r ∧ dst % 128 = 0 ∧ len % 128 = 0 ∧ len ≠ 0 ∧ r.headVa ≤ dst ∧ dst + len ≤ r.headVa + r.extent ∧ (∀ x ∈ runs, ∀ w, x.2 ≠ .error (.wait w)) ∧
    ranges s c (⟨.copySrc, 0x2F, 0, c.aVal rb, len⟩ :: barrierRun 0x2F ab (c.aVal ab)) = some spss ∧ fenceFree c st ∧ c.copyStore.length < 16 :=
  ⟨{ withPart part with cur := ⟨0, true, .A⟩, looms := [(0, { ev := { eval := some eval0, a := ((Vector.replicate 64 0).set 1 0x1000000000000000).set 2 128 } })], evals := [rec0], bolts := [(0, { tlb := [{ peer := 0, va := 0, size := 65536, pa := 0, attrs := 0x0C }] })] },
    { eval := some eval0, a := ((Vector.replicate 64 0).set 1 0x1000000000000000).set 2 128 }, ⟨false, false⟩, 0, 1, 2, 0, 0, rec0, _, rfl, readyA_of
    rfl, readyA_of rfl, readyA_of rfl, readyA_of rfl, (by decide), (by decide), rfl, ⟨by decide, by decide⟩, rfl, rfl, rfl, (by decide), (by decide),
    (by decide), (by intro x hx w; cases hx with | head => exact (fun h => nomatch h) | tail _ h => cases h), rfl, fenceFree_of rfl, by decide⟩
theorem witness_returnFromHandler_1 :
    ∃ (s : State) (c : Ctx) (t : Tok) (rs1 : BitVec 6), s.ctx.tokens .A t = .ok c ∧ readyA c rs1 ∧ ∃ (p : Partition) (rs : List Result), meeting c ∧
    c.aVal rs1 = c.tframe ∧ c.tframe ≠ 0 ∧ queuesEmpty c ∧ c.resAX = (if t.ps then 1 else 0) ∧ c.resXA = 0 ∧ s.part? c.peer = some p ∧ let base := s.ctxBase s.cur.loom s.cur.ev;
    let area := s.reader p base;
    let slot := s.reader p (base + 0x30000);
    checkFrame area slot 1 = .ok rs :=
  ⟨{ parts := [(0, mapped)], mem := frameMem, looms := [(0, { pick := { a := (Vector.replicate 64 0).set 1 64, tframe := 64, ex := { lines := 1 } } })] },
    { a := (Vector.replicate 64 0).set 1 64, tframe := 64, ex := { lines := 1 } }, ⟨false, false⟩, 1, rfl, readyA_of rfl, mapped, [], meeting_of (by decide)
    rfl rfl rfl, rfl, by decide, ⟨by decide, by decide, rfl, rfl, rfl⟩, rfl, rfl, rfl, (exceptOk (by decide +kernel))⟩
theorem witness_returnFromHandler_2 :
    ∃ (s : State) (c : Ctx) (t : Tok) (rs1 : BitVec 6), s.ctx.tokens .A t = .ok c ∧ readyA c rs1 ∧ (¬ meeting c) :=
  ⟨withCtx { ea := { lines := 1 } }, { ea := { lines := 1 } }, ⟨false, false⟩, 0, rfl, readyA_of rfl, (by simp [meeting])⟩
theorem witness_returnFromHandler_3 :
    ∃ (s : State) (c : Ctx) (t : Tok) (rs1 : BitVec 6), s.ctx.tokens .A t = .ok c ∧ readyA c rs1 ∧ meeting c ∧ (c.aVal rs1 ≠ c.tframe ∨ c.tframe = 0) :=
  ⟨withCtx { ex := { lines := 1 } }, { ex := { lines := 1 } }, ⟨false, false⟩, 0, rfl, readyA_of rfl, meeting_of (by decide) rfl rfl rfl, .inr rfl⟩
theorem witness_contextAreas_1 :
    ∃ (s : State) (c : Ctx) (t : Tok) (rd rs1 : BitVec 6) (sps : List Span) (u : State), s.ctx.tokens .A t = .ok c ∧ readyA c rs1 ∧ meeting c ∧
    s.areaSpans c .save (c.aVal rs1) = .ok sps ∧ let saved := c.write (.a rd) 1;
    let head := saved.header (c.ea.pc + 32) (c.ea.pc + 32) Masks.all;
    s.savePieces (s.cur.loom, s.cur.ev) sps ((0, leBytes 4 2 ++ leBytes 4 (crc32c head) ++ head) :: saved.sections Masks.all true) = (u, none) :=
  ⟨{ bigPage with looms := [(0, { pick := { ex := { lines := 1 } } })] }, { ex := { lines := 1 } }, ⟨false, false⟩, 0, 0, [{ pa := 0, va := 0, len := 262144, off := 0, attrs := 0x40 }],
    _, rfl, readyA_of rfl, meeting_of (by decide) rfl rfl rfl, (exceptOk (by decide +kernel)), pair_of (savePieces_sound ⟨rfl, rfl, rfl, rfl⟩ _ _ (by decide) _)⟩
theorem witness_contextAreas_2 :
    ∃ (s : State) (c : Ctx) (t : Tok) (rs1 : BitVec 6) (sps : List Span) (u : State) (bs : List Byte), s.ctx.tokens .A t = .ok c ∧ readyA c rs1 ∧ meeting
    c ∧ s.areaSpans c .restore (c.aVal rs1) = .ok sps ∧ s.readSpans (cutSpans sps 0 0x30000) = (u, bs, none) ∧ let area : Reader := fun off n => (bs.drop off).take n;
    (area.num 0 4 = 1 ∨ area.num 0 4 = 2) ∧ area.num 4 4 = crc32c (area 8 248) ∧ area.bq.isSome = true :=
  ⟨{ bigPage with mem := savedMem, looms := [(0, { pick := { ex := { lines := 1 } } })] }, { ex := { lines := 1 } }, ⟨false, false⟩, 0, [{ pa := 0, va := 0, len := 262144, off := 0, attrs := 0x40 }],
    _, _, rfl, readyA_of rfl, meeting_of (by decide) rfl rfl rfl, (exceptOk (by decide +kernel)), readSpans_sound ⟨rfl, rfl, rfl, rfl⟩ _, .inl (by decide +kernel),
    (by decide +kernel), (by decide +kernel)⟩
theorem witness_linkWidths_1 :
    ∃ (s : State) (c : Ctx) (t : Tok) (port : BitVec 4), s.ctx.tokens .A t = .ok c ∧ let q := port.toNat;
    s.portOwner q = some c.peer ∧ c.inFlight.length < 32 :=
  ⟨withPart part, {}, ⟨false, false⟩, 1, rfl, rfl, by decide⟩
theorem witness_linkWidths_2 :
    ∃ (s : State) (c : Ctx) (t : Tok) (port : BitVec 4), s.ctx.tokens .A t = .ok c ∧ let q := port.toNat;
    s.portOwner q ≠ some c.peer :=
  ⟨{}, {}, ⟨false, false⟩, 15, rfl, (by decide)⟩
theorem witness_treadleInstructions_1 :
    ∃ (s : State) (c : Ctx) (t : Tok) (ra rb : BitVec 6), s.ctx.tokens .A t = .ok c ∧ readyA c ra ∧ readyA c rb ∧ let u := s.setCtx (c.postNow .A t);
    ∃ (panel stage : Nat) (a : Arrival) (p : Partition) (v : State), arrivalOf (c.aVal ra) 1 = (panel, stage, a) ∧ hasStageAt s c panel stage p ∧
    p.arrivalOk (c.aVal ra) = true ∧ (c.aVal ra).toNat / 2 ^ 53 % 2 ^ 8 = 0 ∧ releasedAll c ∧ (s.stage panel stage).heldArr[Fin.ofNat 4 a.queue] = []
    ∧ u.enqueue c.peer panel stage a = (v, true) :=
  ⟨withPart part, {}, ⟨false, false⟩, 0, 0, rfl, readyA_of rfl, readyA_of rfl, 0, 0, _, part, _, rfl, ⟨rfl, rfl⟩, rfl, rfl, rfl, rfl, rfl⟩
theorem witness_treadleInstructions_2 :
    ∃ (s : State) (c : Ctx) (t : Tok) (ra rb : BitVec 6) (st : BitVec 4), s.ctx.tokens .A t = .ok c ∧ readyA c ra ∧ readyA c rb ∧ ∃ (publish named : BitVec 1)
    (panel : BitVec 3) (stage : BitVec 8) (p : Partition) (g : Stage) (w : W64), let pn := if named = 1 then panel.toNat else c.stagePanel;
    let sg := if named = 1 then stage.toNat else c.stageIdx;
    hasStageAt s c pn sg p ∧ fenceFree c st ∧ dataRoom c (.reg ra) ∧ let x : BitVec 32 := (c.aVal rb).setWidth 32;
    (publish = 1 → releasedAll c) ∧ (if publish = 1 then (s.stage pn sg).publish x else (s.stage pn sg).pin x) = some (g, w) :=
  ⟨withPart part, {}, ⟨false, false⟩, 0, 0, 0, rfl, readyA_of rfl, readyA_of rfl, 1, 0, 0, 0, part, _, _, ⟨rfl, rfl⟩, fenceFree_of rfl, ⟨by decide, by
    decide⟩, (fun _ => rfl), rfl⟩
theorem witness_treadleInstructions_3 :
    ∃ (s : State) (c : Ctx) (t : Tok) (ra rb : BitVec 6) (st : BitVec 4), s.ctx.tokens .A t = .ok c ∧ readyA c ra ∧ readyA c rb ∧ ∃ (publish named : BitVec 1)
    (panel : BitVec 3) (stage : BitVec 8) (p : Partition), let pn := if named = 1 then panel.toNat else c.stagePanel;
    let sg := if named = 1 then stage.toNat else c.stageIdx;
    hasStageAt s c pn sg p ∧ fenceFree c st ∧ dataRoom c (.reg ra) ∧ let x : BitVec 32 := (c.aVal rb).setWidth 32;
    (publish = 1 → releasedAll c) ∧ (if publish = 1 then (s.stage pn sg).publish x else (s.stage pn sg).pin x) = none :=
  ⟨withPart part, {}, ⟨false, false⟩, 0, 0, 0, rfl, readyA_of rfl, readyA_of rfl, 0, 0, 0, 0, part, ⟨rfl, rfl⟩, fenceFree_of rfl, ⟨by decide, by
    decide⟩, (fun h => nomatch h), rfl⟩
theorem witness_treadleInstructions_4 :
    ∃ (s : State) (c : Ctx) (t : Tok) (ra rb : BitVec 6), s.ctx.tokens .A t = .ok c ∧ readyA c ra ∧ readyA c rb ∧ ∃ p, hasStageAt s c c.stagePanel
    c.stageIdx p :=
  ⟨withPart part, {}, ⟨false, false⟩, 0, 0, rfl, readyA_of rfl, readyA_of rfl, part, ⟨rfl, rfl⟩⟩
theorem witness_treadleInstructions_5 :
    ∃ (s : State) (c : Ctx) (t : Tok) (ra rb : BitVec 6) (st : BitVec 4), s.ctx.tokens .A t = .ok c ∧ readyA c ra ∧ readyA c rb ∧ ∃ p, hasStageAt s c
    c.stagePanel c.stageIdx p ∧ (c.aVal rb).toNat < 4 ∧ fenceFree c st ∧ dataRoom c (.reg ra) :=
  ⟨withPart part, {}, ⟨false, false⟩, 0, 0, 0, rfl, readyA_of rfl, readyA_of rfl, part, ⟨rfl, rfl⟩, by decide, fenceFree_of rfl, ⟨by decide, by decide⟩⟩
theorem witness_treadleInstructions_6 :
    ∃ (s : State) (c : Ctx) (t : Tok) (ra rb : BitVec 6), s.ctx.tokens .A t = .ok c ∧ readyA c ra ∧ readyA c rb ∧ ∃ (ab : BitVec 6) (va : Nat) (bar : Option Span)
    (p : Partition), readyA c ab ∧ place (c.aVal rb) = some (.virt va) ∧ va % 8 = 0 ∧ s.objectBarrier c 0x3D ab (c.aVal ab) = .ok bar ∧ releasedAll c
    ∧ s.part? c.peer = some p :=
  ⟨withPart part, {}, ⟨false, false⟩, 0, 0, rfl, readyA_of rfl, readyA_of rfl, 0, 0, none, part, readyA_of rfl, rfl, rfl, rfl, rfl, rfl⟩
theorem witness_treadleInstructions_7 :
    ∃ (s : State) (c : Ctx) (t : Tok) (ra rb : BitVec 6), s.ctx.tokens .A t = .ok c ∧ readyA c ra ∧ readyA c rb ∧ ∃ (va i : Nat) (e : TlbEntry) (p : Partition),
    (c.aVal rb).toNat < 8 ∧ place (c.aVal ra) = some (.virt va) ∧ s.part? c.peer = some p ∧ held s c va = some e ∧ p.counterAt (e.pa + (va - e.va)) 1
    = some i ∧ (e.pa + (va - e.va)) % 16 = 0 ∧ i ∈ p.counters ∧ (s.counter p i).level = (c.aVal rb).toNat :=
  ⟨withPage (withPart ({ part with counterSize := 16, counters := [0] })) 0 0, {}, ⟨false, false⟩, 0, 0, rfl, readyA_of rfl, readyA_of rfl, 0, 0, _, { part with counterSize := 16, counters := [0] },
    by decide, rfl, rfl, rfl, rfl, (by decide), by decide, rfl⟩
theorem witness_scratchpadAccesses_1 :
    ∃ (s : State) (loom : Nat) (ev : Bool) (id : Nat) (a : Access) (sp : Span) (data : List Byte), performableAt s loom ev id a ∧ spanReady s loom ev a sp
    ∧ a.id = id ∧ a.kind = .store data false ∧ a.dest = .none ∧ a.done = [] ∧ a.spans = [sp] ∧ cleanPad s sp ∧ sp.off = 0 ∧ data.length = sp.len ∧
    s.mem.wf = true :=
  ⟨{ looms := [(0, { pick := { act := .running, accs := [{ id := 5, kind := .store (leBytes 8 7) false, stream := 0, spans := [{ pa := loomPad 0 64, va := 0x1000000000000040, len := 8, off := 0 }], dest := .none, len := 8 }] } })] },
    0, false, 5, { id := 5, kind := .store (leBytes 8 7) false, stream := 0, spans := [{ pa := loomPad 0 64, va := 0x1000000000000040, len := 8, off := 0 }], dest := .none, len := 8 },
    _, _, ⟨rfl, by decide⟩, ⟨rfl, by decide⟩, rfl, rfl, rfl, rfl, rfl, ⟨rfl, rfl, by decide, by decide, (fun i _ => rfl)⟩, rfl, rfl, rfl⟩
theorem witness_scratchpadAccesses_2 :
    ∃ (s : State) (loom : Nat) (ev : Bool) (id : Nat) (a : Access) (sp : Span) (r : BitVec 6) (x : Result), performableAt s loom ev id a ∧ spanReady s
    loom ev a sp ∧ a.id = id ∧ a.kind = .load ∧ a.dest = .reg r ∧ r ≠ 0 ∧ a.done = [] ∧ a.got = [] ∧ a.spans = [sp] ∧ cleanPad s sp ∧ sp.off = 0 ∧
    sp.len = 8 ∧ (s.ctxAt loom ev).act = .running ∧ (s.ctxAt loom ev).inFlight.find? (fun y => y.awaiting == some id) = some x ∧ x.due = 0 ∧ x.dest =
    .a r ∧ x.failed = false :=
  ⟨{ looms := [(0, { pick := { act := .running, accs := [{ id := 5, kind := .load, stream := 0, spans := [{ pa := loomPad 0 64, va := 0x1000000000000040, len := 8, off := 0 }], dest := .reg 1, len := 8 }], inFlight := [{ eng := .A, dest := .a 1, value := 0, due := 0, awaiting := some 5 }] } })] },
    0, false, 5, { id := 5, kind := .load, stream := 0, spans := [{ pa := loomPad 0 64, va := 0x1000000000000040, len := 8, off := 0 }], dest := .reg 1, len := 8 },
    _, _, _, ⟨rfl, by decide⟩, ⟨rfl, by decide⟩, rfl, rfl, rfl, (by decide), rfl, rfl, rfl, ⟨rfl, rfl, by decide, by decide, (fun i _ => rfl)⟩, rfl,
    rfl, rfl, rfl, rfl, rfl, rfl⟩
theorem witness_atomicAndBarrierValues_1 :
    ∃ (b : Barrier), 0 < b.narrive + b.nbytes ∧ b.arrived = b.narrive ∧ b.bytes = b.nbytes :=
  ⟨{ Barrier.ofNat 0 with narrive := 1, arrived := 1 }, (by decide), rfl, rfl⟩
theorem witness_atomicAndBarrierValues_2 :
    ∃ (b : Barrier), (b.narrive + b.nbytes = 0 ∨ b.arrived < b.narrive ∨ b.bytes < b.nbytes) :=
  ⟨{ Barrier.ofNat 0 with narrive := 1 }, .inr (.inl (by decide))⟩
theorem witness_accessesAndWalksPerform_1 :
    ∃ (s : State) (loom : Nat) (ev : Bool) (id part : Nat) (a : Access), performableAt s loom ev id a ∧ let c := s.ctxAt loom ev;
    let due := s.dueHere loom c a;
    ∃ (u : State) (got : List (Nat × List Byte)) (dn : List Nat) (fromL1 : Bool) (x : Access) (now : List (Nat × Span)), a.kind = .load ∧ a.dest ≠
    .none ∧ due ≠ [] ∧ s.meetsSuspension (s.spansHere loom c a) = false ∧ a.chosen due part = some (x, now) ∧ s.loadSpans loom c fromL1 now = (u, got, dn, none) :=
  ⟨{ looms := [(0, { pick := { act := .running, accs := [{ id := 5, kind := .load, stream := 0, spans := [{ pa := loomPad 0 64, va := 0x1000000000000040, len := 8, off := 0 }], dest := .reg 1, len := 8 }] } })] },
    0, false, 5, 0, { id := 5, kind := .load, stream := 0, spans := [{ pa := loomPad 0 64, va := 0x1000000000000040, len := 8, off := 0 }], dest := .reg 1, len := 8 },
    ⟨rfl, by decide⟩, _, _, _, false, _, _, rfl, (by decide), (by decide), rfl, rfl, rfl⟩
theorem witness_accessesAndWalksPerform_2 :
    ∃ (s : State) (loom : Nat) (ev : Bool) (id : Nat) (a : Access), performableAt s loom ev id a ∧ ∃ (v : W64), a.kind = .value v ∧ a.dest ≠ .none ∧
    a.spans = [] :=
  ⟨{ looms := [(0, { pick := { act := .running, accs := [{ id := 5, kind := .value 9, stream := 0, spans := [], dest := .reg 1, len := 8 }] } })] }, 0,
    false, 5, { id := 5, kind := .value 9, stream := 0, spans := [], dest := .reg 1, len := 8 }, ⟨rfl, by decide⟩, _, rfl, (by decide), rfl⟩
theorem witness_accessesAndWalksPerform_3 :
    ∃ (s : State) (loom : Nat) (ev : Bool) (id : Nat) (a : Access), performableAt s loom ev id a ∧ let c := s.ctxAt loom ev;
    let due := s.dueHere loom c a;
    ∃ (op : AtomicOp) (o : W64) (sp x : Span) (rest : List Span) (u : State) (v : Nat), a.kind = .atomic op o ∧ a.spans = [sp] ∧ due ≠ [] ∧
    s.localSpans c .atomic sp = .ok (x :: rest) ∧ s.meetsSuspension (s.spansHere loom c a) = false ∧ s.atomicAt loom x op o (some (loom, ev)) = (u, v, none)
    ∧ a.dest ≠ .none :=
  ⟨{ looms := [(0, { pick := { act := .running, accs := [{ id := 5, kind := .atomic .add 3, stream := 0, spans := [{ pa := loomPad 0 64, va := 0x1000000000000040, len := 8, off := 0 }], dest := .reg 1, len := 8 }] } })] },
    0, false, 5, { id := 5, kind := .atomic .add 3, stream := 0, spans := [{ pa := loomPad 0 64, va := 0x1000000000000040, len := 8, off := 0 }], dest := .reg 1, len := 8 },
    ⟨rfl, by decide⟩, _, _, _, _, _, _, _, rfl, rfl, (by decide), rfl, rfl, rfl, (by decide)⟩
theorem witness_accessesAndWalksPerform_4 :
    ∃ (s : State) (loom : Nat) (ev : Bool) (id : Nat) (a : Access), performableAt s loom ev id a ∧ let c := s.ctxAt loom ev;
    let due := s.dueHere loom c a;
    ∃ (op : AtomicOp) (o : W64) (sp x : Span) (rest : List Span) (u : State) (v : Nat), a.kind = .atomic op o ∧ a.spans = [sp] ∧ due ≠ [] ∧
    s.localSpans c .atomic sp = .ok (x :: rest) ∧ s.meetsSuspension (s.spansHere loom c a) = false ∧ s.atomicAt loom x op o (some (loom, ev)) = (u, v, none)
    ∧ a.dest = .none :=
  ⟨{ looms := [(0, { pick := { act := .running, accs := [{ id := 5, kind := .atomic .add 3, stream := 0, spans := [{ pa := loomPad 0 64, va := 0x1000000000000040, len := 8, off := 0 }], dest := .none, len := 8 }] } })] },
    0, false, 5, { id := 5, kind := .atomic .add 3, stream := 0, spans := [{ pa := loomPad 0 64, va := 0x1000000000000040, len := 8, off := 0 }], dest := .none, len := 8 },
    ⟨rfl, by decide⟩, _, _, _, _, _, _, _, rfl, rfl, (by decide), rfl, rfl, rfl, rfl⟩
theorem witness_accessesAndWalksPerform_5 :
    ∃ (s : State) (loom : Nat) (ev : Bool) (id part : Nat) (a : Access), performableAt s loom ev id a ∧ let c := s.ctxAt loom ev;
    let due := s.dueHere loom c a;
    ∃ (data : List Byte) (u : State) (runs : List (Nat × Nat)) (dn : List Nat) (x : Access) (now : List (Nat × Span)), a.kind = .store data false ∧
    a.dest = .none ∧ due ≠ [] ∧ a.chosen due part = some (x, now) ∧ s.storeSpans loom c .store data now = (u, runs, dn, none) :=
  ⟨{ looms := [(0, { pick := { act := .running, accs := [{ id := 5, kind := .store (leBytes 8 7) false, stream := 0, spans := [{ pa := loomPad 0 64, va := 0x1000000000000040, len := 8, off := 0 }], dest := .none, len := 8 }] } })] },
    0, false, 5, 0, { id := 5, kind := .store (leBytes 8 7) false, stream := 0, spans := [{ pa := loomPad 0 64, va := 0x1000000000000040, len := 8, off := 0 }], dest := .none, len := 8 },
    ⟨rfl, by decide⟩, _, _, _, _, _, _, rfl, rfl, (by decide), rfl, rfl⟩
theorem witness_accessesAndWalksPerform_6 :
    ∃ (s : State) (loom : Nat) (ev : Bool) (id : Nat) (a : Access), performableAt s loom ev id a ∧ let c := s.ctxAt loom ev;
    ∃ (data : List Byte) (u : State), a.kind = .store data true ∧ s.landable loom a = true ∧ (∀ sp ∈ a.spans, c.spanFree a sp = true) ∧ s.writeSpans
    data (a.spans.flatMap (mcSpans loom)) (some (loom, ev)) = (u, none) :=
  ⟨{ looms := [(0, { pick := { act := .running, accs := [{ id := 5, kind := .store (leBytes 8 7) true, stream := 0, spans := [{ pa := loomPad 0 64, va := 0x1000000000000040, len := 8, off := 0 }], dest := .none, len := 8 }] } })] },
    0, false, 5, { id := 5, kind := .store (leBytes 8 7) true, stream := 0, spans := [{ pa := loomPad 0 64, va := 0x1000000000000040, len := 8, off := 0 }], dest := .none, len := 8 },
    ⟨rfl, by decide⟩, _, _, rfl, rfl, (by decide), pair_of (writeSpans_sound ⟨rfl, rfl, rfl, rfl⟩ _ _ _ (by simp [mcSpans])).2⟩
set_option maxRecDepth 4000 in
theorem witness_accessesAndWalksPerform_7 :
    ∃ (s : State) (panel walk : Nat) (k : Walk) (p : Partition), (s.panel panel).walks.find? (fun x => x.id == walk) = some k ∧ s.part? k.peer = some p ∧ let va := k.page * 65536;
    ∃ table, s.walkLevel p va k.level k.table = .next table :=
  ⟨{ parts := [(0, mapped)], mem := frameMem, panels := [(0, { walks := [{ id := 1, peer := 0, page := 0, who := [(0, 0)], level := 0, table := 0 }] })] },
    0, 1, { id := 1, peer := 0, page := 0, who := [(0, 0)], level := 0, table := 0 }, mapped, rfl, rfl, _, rfl⟩
set_option maxRecDepth 4000 in
theorem witness_accessesAndWalksPerform_8 :
    ∃ (s : State) (panel walk : Nat) (k : Walk) (p : Partition), (s.panel panel).walks.find? (fun x => x.id == walk) = some k ∧ s.part? k.peer = some p ∧ let va := k.page * 65536;
    ∃ size pa at', s.walkLevel p va k.level k.table = .leaf size pa at' :=
  ⟨{ parts := [(0, mapped)], mem := frameMem, panels := [(0, { walks := [{ id := 1, peer := 0, page := 0, who := [(0, 0)], level := 1, table := 0x1000 }] })] },
    0, 1, { id := 1, peer := 0, page := 0, who := [(0, 0)], level := 1, table := 0x1000 }, mapped, rfl, rfl, _, _, _, rfl⟩
theorem witness_copiesAndStashesRun_1 :
    ∃ (s : State) (loom : Nat) (ev storeQ : Bool) (k : CopyCmd), (s.ctxAt loom ev).nextCopy (if storeQ then (s.ctxAt loom ev).copyStore else (s.ctxAt loom ev).copyLoad)
    = some k ∧ (k.kind = .cpy ∨ k.kind = .mc ∨ k.kind = .csum ∨ k.kind = .fill ∨ ∃ ty, k.kind = .red ty) ∧ (∀ p, s.part? (s.ctxAt loom ev).peer = some p → p.resetting = false) :=
  ⟨copying { copy0 .cpy with started := false }, 0, false, true, { copy0 .cpy with started := false }, rfl, .inl rfl, by decide⟩
set_option maxRecDepth 4000 in
theorem witness_copiesAndStashesRun_2 :
    ∃ (s u : State) (loom : Nat) (ev : Bool) (id : Nat) (k : CopyCmd) (bs : List Byte), (s.ctxAt loom ev).copy? id = some k ∧ k.started = true ∧ k.readTo
    < k.len ∧ (k.kind = .cpy ∨ k.kind = .mc) ∧ (s.ctxAt loom ev).waitsOn k.carries = false ∧ let storeQ := (s.ctxAt loom ev).copyStore.any (fun x => x.id == id);
    (ev = false → s.queueReady loom true false = false ∧ s.queueReady loom true true = false) ∧ ((s.ctxAt loom ev).lastStore = some storeQ → s.queueReady loom ev (!storeQ) = false)
    ∧ s.fetchUnit loom ev k (k.unit (s.ctxAt loom ev).peer) = .bytes u bs :=
  ⟨copying (copy0 .cpy), _, 0, false, 5, copy0 .cpy, _, rfl, rfl, (by decide), .inl rfl, rfl, by decide, by decide, rfl⟩
set_option maxRecDepth 4000 in
theorem witness_copiesAndStashesRun_3 :
    ∃ (s u : State) (bolt : Nat) (j : DecJob) (rest : List DecJob) (k : CopyCmd) (slot : BitVec 2) (bs : List Byte) (table : CodeTable), (s.bolt bolt).dec
    = j :: rest ∧ (s.ctxAt j.loom j.ev).copy? j.cmd = some k ∧ k.kind = .ctbl slot ∧ s.fetchUnit j.loom j.ev k 320 = .bytes u bs ∧ checkTable bs = .ok
    table :=
  ⟨decoding, _, 0, _, _, tableCopy, 1, _, { counts := [0, 1, 0, 0, 0, 0, 0, 0, 0, 0, 0, 0, 0, 0, 0, 0], symbols := [0] }, rfl, rfl, rfl, rfl, (exceptOk (by decide +kernel))⟩
set_option maxRecDepth 4000 in
theorem witness_copiesAndStashesRun_4 :
    ∃ (s u v : State) (loom : Nat) (ev : Bool) (id : Nat) (k : CopyCmd) (bs : List Byte) (sp : Span) (rest : List Span) (r : EvalRec), (s.ctxAt loom ev).copy?
    id = some k ∧ k.kind = .fill ∧ k.started = true ∧ k.readTo < k.len ∧ (s.ctxAt loom ev).waitsOn k.carries = false ∧ s.fetchUnit loom ev k 128 =
    .bytes u bs ∧ slice k.dst k.readTo 128 = sp :: rest ∧ u.fillRecord loom ev = some r ∧ r.lines.contains (sp.pa / 128) = true ∧ (u.line sp.pa).cell
    = 2 ∧ u.meetLine sp.pa sp.va sp.attrs true 0 = (v, none) :=
  ⟨{ looms := [(0, { ev := { act := .running, eval := some eval0, copyStore := [{ copy0 .fill with dst := [{ pa := 0, va := 0, len := 128, off := 0, attrs := 0x0C }] }] } })], evals := [rec0], lineMeta := [(0, { cell := 2 })] },
    _, _, 0, true, 5, { copy0 .fill with dst := [{ pa := 0, va := 0, len := 128, off := 0, attrs := 0x0C }] }, _, _, _, _, rfl, rfl, rfl, (by decide),
    rfl, rfl, rfl, rfl, rfl, rfl, rfl⟩
theorem witness_copiesAndStashesRun_5 :
    ∃ (s : State) (panel id : Nat) (o : StashOp) (p : Partition), s.stashOps.find? (fun o => o.id == id && o.panel == panel) = some o ∧ s.stashOps.find?
    (fun x => x.panel == o.panel && x.stage == o.stage && x.tag == o.tag && x.tensor == o.tensor) = some o ∧ (∀ w ∈ s.waiters, w.who ≠ .stash o.id) ∧
    o.pick = none ∧ (s.ctxAt o.loom o.ev).waitsOn o.after = false ∧ s.part? o.peer = some p ∧ p.resetting = false ∧ s.stashFollows o = false ∧ o.kind
    = 0 ∧ o.policy = 0 ∧ s.stashEntry o = none ∧ (s.stash.filter (fun x => x.panel == o.panel)).length < 4096 :=
  ⟨stashing 0 [], 0, 3, stash0 0, part, rfl, rfl, (by intro x hx; cases hx), rfl, rfl, rfl, rfl, rfl, rfl, (by decide), rfl, by decide⟩
theorem witness_copiesAndStashesRun_6 :
    ∃ (s : State) (panel id : Nat) (o : StashOp) (p : Partition) (e : StashEntry), s.stashOps.find? (fun o => o.id == id && o.panel == panel) = some o ∧
    s.stashOps.find? (fun x => x.panel == o.panel && x.stage == o.stage && x.tag == o.tag && x.tensor == o.tensor) = some o ∧ (∀ w ∈ s.waiters, w.who ≠ .stash o.id)
    ∧ o.pick = none ∧ (s.ctxAt o.loom o.ev).waitsOn o.after = false ∧ s.part? o.peer = some p ∧ p.resetting = false ∧ s.stashFollows o = false ∧
    o.kind = 2 ∧ o.other = false ∧ s.stashEntry o = some e ∧ e.bad = false ∧ e.policy = 0 :=
  ⟨stashing 2 [{ panel := 0, stage := 0, tag := 7, tensor := 0, peer := 0, policy := 0, tier := 0, place := 0, arg := 0, region := 0, loom := 0, len := 128 }],
    0, 3, stash0 2, part, { panel := 0, stage := 0, tag := 7, tensor := 0, peer := 0, policy := 0, tier := 0, place := 0, arg := 0, region := 0, loom := 0, len := 128 },
    rfl, rfl, (by intro x hx; cases hx), rfl, rfl, rfl, rfl, rfl, rfl, rfl, rfl, rfl, rfl⟩
theorem witness_copiesAndStashesRun_7 :
    ∃ (s : State) (panel id : Nat) (o : StashOp) (p : Partition) (e : StashEntry), s.stashOps.find? (fun o => o.id == id && o.panel == panel) = some o ∧
    s.stashOps.find? (fun x => x.panel == o.panel && x.stage == o.stage && x.tag == o.tag && x.tensor == o.tensor) = some o ∧ (∀ w ∈ s.waiters, w.who ≠ .stash o.id)
    ∧ o.pick = none ∧ (s.ctxAt o.loom o.ev).waitsOn o.after = false ∧ s.part? o.peer = some p ∧ p.resetting = false ∧ s.stashFollows o = false ∧
    o.kind = 3 ∧ s.stashEntry o = some e ∧ e.policy ≠ 3 :=
  ⟨stashing 3 [{ panel := 0, stage := 0, tag := 7, tensor := 0, peer := 0, policy := 0, tier := 0, place := 0, arg := 0, region := 0, loom := 0, len := 128 }],
    0, 3, stash0 3, part, { panel := 0, stage := 0, tag := 7, tensor := 0, peer := 0, policy := 0, tier := 0, place := 0, arg := 0, region := 0, loom := 0, len := 128 },
    rfl, rfl, (by intro x hx; cases hx), rfl, rfl, rfl, rfl, rfl, (by decide), rfl, by decide⟩
theorem witness_tilesRun_1 :
    ∃ (s : State) (bolt e : Nat) (r : Task), (s.bolt bolt).recs.find? (fun r => r.engine.isNone && !r.cancelled && s.taskReady bolt r) = some r ∧
    r.checked = true ∧ (∀ x ∈ (s.bolt bolt).recs, x.engine = none ∨ x.checked = true) ∧ (s.bolt bolt).freeEngine = some e :=
  ⟨{ bolts := [(0, { recs := [task0] })] }, 0, 0, task0, rfl, rfl, (by intro x hx; exact .inl (by simp_all [State.bolt, SMap.getD, SMap.find?, task0])),
    rfl⟩
theorem witness_tilesRun_2 :
    ∃ (s u v : State) (bolt e : Nat) (r : Task) (bs : List Byte), (s.bolt bolt).recs.find? (fun r => r.engine == some e && r.checked && !r.sent) = some r
    ∧ r.cmd = none ∧ let oa := operandA r.w0 r.fmt r.a;
    let ob := operandB r.w0 r.fmt r.b;
    s.readSpans (oa.spans bolt ++ ob.spans bolt) = (u, bs, none) ∧ let part := partialOf r.int oa ob u.mem bolt;
    u.contribute r.tile { key := ⟨r.peer, r.ev, r.loom, r.seq⟩, first := 0, int := r.int, values := part.1, flags := part.2, task := some (bolt, r.id) }
    = .ok v :=
  ⟨{ bolts := [(0, { recs := [{ task0 with engine := some 1 }] })], tiles := [(9, { state := .open, expect := 1 })] }, _, _, 0, 1, { task0 with engine := some 1 },
    _, rfl, rfl, readSpans_sound ⟨rfl, rfl, rfl, rfl⟩ _, rfl⟩
theorem witness_tilesRun_3 :
    ∃ (s u : State) (tile : Nat) (k : Contribution) (rest : List Contribution) (bs : List Byte), (s.tile tile).held = k :: rest ∧ (s.tile tile).state =
    .open ∧ s.tileDet tile = false ∧ k.adds = true ∧ k.overflow = none ∧ s.sliceGone tile = none ∧ s.readSpan { pa := tilePa tile + k.first, va := 0, len := k.values.length * elemBytes k.int, off := 0 }
    = (u, bs, none) :=
  ⟨{ tiles := [(9, { state := .open, expect := 1, held := [{ key := ⟨0, false, 0, 0⟩, first := 0, int := false, values := [0], flags := 0 }] })] }, _,
    9, _, _, _, rfl, rfl, rfl, rfl, rfl, rfl, rfl⟩
theorem witness_tilesRun_4 :
    ∃ (s : State) (bolt id : Nat) (r : Task), (s.bolt bolt).recs.find? (fun r => r.id == id && r.merged) = some r ∧ r.cmd = none ∧ ∃ u, s.countFor r.peer
    r.barrier (if r.int then 131072 else 65536) r.flags = (u, none) :=
  ⟨{ bolts := [(0, { recs := [{ task0 with merged := true }] })] }, 0, 2, _, rfl, rfl, _, rfl⟩
theorem witness_tilesRun_5 :
    ∃ (s : State) (loom : Nat) (ev : Bool) (id : Nat) (o : AccOp), (s.ctxAt loom ev).accOps.find? (fun o => o.id == id) = some o ∧ (s.ctxAt loom ev).opTurn
    o = true ∧ s.sliceGone o.tile = none ∧ ∃ (slots : List Span), o.drain = false ∧ (s.tile o.tile).state ≠ .open ∧ (∀ sp ∈ o.slots, sp.remote (s.ctxAt loom ev).peer = false)
    ∧ o.slotGot = [] ∧ s.slotsHere (s.ctxAt loom ev) o.slots = .ok slots :=
  ⟨{ looms := [(0, { pick := { act := .running, accOps := [accOp0] } })] }, 0, false, 4, accOp0, rfl, rfl, rfl, [], (by decide), by decide, (by intro x hx; cases hx),
    rfl, rfl⟩
theorem witness_tilesRun_6 :
    ∃ (s : State) (loom : Nat) (ev : Bool) (id : Nat) (o : AccOp), (s.ctxAt loom ev).accOps.find? (fun o => o.id == id) = some o ∧ (s.ctxAt loom ev).opTurn
    o = true ∧ s.sliceGone o.tile = none ∧ ∃ (u v : State) (bs : List Byte), o.drain = true ∧ o.rowFlags = [] ∧ (s.tile o.tile).state = .complete ∧
    s.readSpan { pa := tilePa o.tile, va := 0, len := tileBytes (s.tile o.tile).int, off := 0 } = (u, bs, none) ∧ let f := (Fmt.ofCode o.ofmt).getD .fp32;
    let rows := (List.range 128).map (drainRow u.mem o.tile (s.tile o.tile).int f ((RMode.ofCode o.rnd 0).getD .rne));
    let rowOf : Span → Nat := fun sp => sp.off / (128 * f.bytes);
    (u.modAccOp loom ev id (fun o => { o with rowFlags := rows.map (fun r => r.2), waitRows := o.rows.map rowOf })).writeRows loom ev (s.ctxAt loom ev).peer
    o (rows.flatMap (fun r => r.1)) f.bytes (o.rows.map (fun sp => (rowOf sp, sp))) = (v, none) :=
  ⟨{ looms := [(0, { pick := { act := .running, accOps := [{ accOp0 with drain := true }] } })], tiles := [(9, { state := .complete })] }, 0, false, 4,
    { accOp0 with drain := true }, rfl, rfl, rfl, _, _, _, rfl, rfl, rfl, readSpan_sound ⟨rfl, rfl, rfl, rfl⟩ _, rfl⟩
theorem witness_tilesRun_7 :
    ∃ (s : State) (loom : Nat) (ev : Bool) (id : Nat) (o : AccOp) (p : Partition), (s.ctxAt loom ev).accOps.find? (fun o => o.id == id) = some o ∧ o.drain
    = true ∧ s.part? (s.ctxAt loom ev).peer = some p ∧ p.barrierLimit ≠ 0 ∧ (s.tile o.tile).state = .open :=
  ⟨{ looms := [(0, { pick := { act := .running, accOps := [{ accOp0 with drain := true }] } })], tiles := [(9, { state := .open, expect := 1 })], parts := [(0, { part with barrierLimit := 1 })] },
    0, false, 4, { accOp0 with drain := true }, { part with barrierLimit := 1 }, rfl, rfl, rfl, by decide, rfl⟩
theorem witness_sequencerEvents_1 :
    ∃ (s : State) (loom : Nat) (ev x : Bool) (n : Nat), let c := s.ctxAt loom ev;
    let mine : Result → Prop := fun r => r.eng = engOf x ∧ r.awaiting = none;
    c.act = .running ∧ (c.eng (engOf x)).mode = false ∧ (c.eng (engOf x)).waiting ≠ none ∧ (∃ r ∈ c.inFlight, mine r ∧ r.due = n) ∧ (∀ r ∈ c.inFlight, mine r → n ≤ r.due) :=
  ⟨running { inFlight := [{ eng := .A, dest := .a 1, value := 5, due := 9 }], ea := { waiting := some .reg } }, 0, false, false, 9, rfl, rfl, (by decide),
    ⟨_, .head _, ⟨rfl, rfl⟩, rfl⟩, (by intro r hr _; cases hr with | head => exact Nat.le_refl _ | tail _ h => cases h)⟩
theorem witness_sequencerEvents_2 :
    ∃ (s : State) (loom : Nat) (ev : Bool) (o : Outstanding) (due : Nat), let c := s.ctxAt loom ev;
    o ∈ c.outs ∧ o.completed = true ∧ o.due = some due ∧ due ≤ c.detCyc :=
  ⟨running { outs := [{ id := 1, ctr := .cpc, completed := true, due := some 9 }], detCyc := 9 }, 0, false, { id := 1, ctr := .cpc, completed := true, due := some 9 },
    9, .head _, rfl, rfl, (by decide)⟩
theorem witness_sequencerEvents_3 :
    ∃ (s : State) (loom : Nat) (ev x : Bool) (l : Line), let c := s.ctxAt loom ev;
    let g := c.eng (engOf x);
    atLine s loom ev (engOf x) l ∧ (ev = false ∨ c.tframe ≠ 0) ∧ 2047 ≤ g.lineCount ∧ l.exempt (c.tframe != 0) = false :=
  ⟨{ looms := [(0, { pick := { act := .running, ea := { lineCount := 2047 } }, icache := [(0, [0, 0, 0, 0, 0, 0, 0, 0])] })] }, 0, false, false, _,
    ⟨rfl, rfl, rfl, rfl, rfl, _, rfl, rfl⟩, .inl rfl, by decide, rfl⟩
theorem witness_sequencerEvents_4 :
    ∃ (s : State) (loom : Nat) (ev : Bool), let c := s.ctxAt loom ev;
    c.act = .running ∧ c.waitByte .A ∈ [1, 2, 4, 8] ∧ c.waitByte .X ∈ [1, 2, 4, 8] :=
  ⟨running { ea := { waiting := some .token }, ex := { waiting := some .bq } }, 0, false, rfl, (by decide), (by decide)⟩
theorem witness_sequencerEvents_5 :
    ∃ (s : State) (loom : Nat) (ev : Bool), let c := s.ctxAt loom ev;
    c.act = .running ∧ c.waitByte .A = 0x10 ∧ c.waitByte .X ∈ [1, 4, 8] ∧ c.ex.waiting ≠ some .tokenRoom :=
  ⟨running { slipw := 0, ea := { waiting := some .slip, lines := 1 }, ex := { waiting := some .bq } }, 0, false, rfl, rfl, (by decide), (by decide)⟩
theorem witness_faultsTaken_1 :
    ∃ (s : State) (loom : Nat) (ev : Bool), let c := s.ctxAt loom ev;
    c.act = .running ∧ c.stop = none :=
  ⟨running {}, 0, false, rfl, rfl⟩
theorem witness_faultsTaken_2 :
    ∃ (s : State) (loom : Nat) (ev : Bool) (st : StopInfo), let c := s.ctxAt loom ev;
    stoppedAndDrained c st ∧ st.handled = true :=
  ⟨withCtx { act := .stopped, stop := some { fault := { cls := 5, cause := 6 }, handled := true } }, 0, false, { fault := { cls := 5, cause := 6 }, handled := true },
    ⟨rfl, rfl, (by intro x hx; cases hx), (by intro x hx; cases hx)⟩, rfl⟩
theorem witness_faultsTaken_3 :
    ∃ (s : State) (loom : Nat) (ev : Bool) (st : StopInfo), let c := s.ctxAt loom ev;
    stoppedAndDrained c st ∧ st.handled = false :=
  ⟨withCtx { act := .stopped, stop := some { fault := { cls := 5, cause := 6 }, handled := false } }, 0, false, { fault := { cls := 5, cause := 6 }, handled := false },
    ⟨rfl, rfl, (by intro x hx; cases hx), (by intro x hx; cases hx)⟩, rfl⟩
theorem witness_pickEnds_1 :
    ∃ (s : State) (loom : Nat) (ev : Bool), let c := s.ctxAt loom ev;
    pickDone s loom ev ∧ c.queuesHold = false ∧ (ev = true → (s.loom loom).evalQ = []) :=
  ⟨running { ea := { ended := true }, ex := { ended := true } }, 0, false, ⟨rfl, rfl, rfl, rfl, rfl, (by intro x hx; cases hx), (by intro x hx; cases hx),
    (by intro x hx; cases hx)⟩, rfl, by decide⟩
theorem witness_pickEnds_2 :
    ∃ (s : State) (loom : Nat) (ev : Bool), let c := s.ctxAt loom ev;
    pickDone s loom ev ∧ c.queuesHold = true :=
  ⟨running { ea := { ended := true }, ex := { ended := true }, tokAX := 1 }, 0, false, ⟨rfl, rfl, rfl, rfl, rfl, (by intro x hx; cases hx), (by intro x hx; cases hx),
    (by intro x hx; cases hx)⟩, rfl⟩
theorem witness_pickEnds_3 :
    ∃ (s : State) (loom : Nat) (p : Partition) (id : Nat), let c := s.ctxAt loom false;
    canPark c ∧ s.part? c.peer = some p ∧ c.pick = some id :=
  ⟨{ parts := [(0, part)], looms := [(0, { pick := { act := .running, pick := some 0, req := some { preempt := true, k := 0 }, ea := { stoppedSafept := true }, ex := { stoppedSafept := true } } })] },
    0, part, 0, ⟨⟨_, rfl, rfl⟩, rfl, rfl, rfl, rfl, rfl, (by intro x hx; cases hx), (by intro x hx; cases hx)⟩, rfl, rfl⟩
theorem witness_pickEnds_4 :
    ∃ (s : State) (peer launch : Nat) (p : Partition) (x : Nat × HostReq × Bool), s.part? peer = some p ∧ x.1 = launch ∧ p.preempts.find? (fun y => y.1 == launch)
    = some x :=
  ⟨{ parts := [(0, { part with preempts := [(1, { id := 2 }, false)] })] }, 0, 1, { part with preempts := [(1, { id := 2 }, false)] }, (1, { id := 2 }, false),
    rfl, rfl, rfl⟩
theorem witness_treadlesDecide_1 :
    ∃ (s : State) (panel stage peer : Nat) (p : Partition), stageOwner s panel stage peer p ∧ let st := s.stage panel stage;
    ∃ (g : List Nat × Launch) (rest : List (List Nat × Launch)), s.freeGangs p panel stage = g :: rest ∧ let rows := p.decisionRows panel stage;
    st.bestRow rows = none ∧ st.due = true :=
  ⟨armedState (armed []) stage0, 0, 0, 0, armed [], ⟨rfl, rfl, rfl⟩, ([0], launch0), [], (by decide +kernel), rfl, (by decide +kernel)⟩
theorem witness_treadlesDecide_2 :
    ∃ (s : State) (panel stage peer : Nat) (p : Partition), stageOwner s panel stage peer p ∧ let st := s.stage panel stage;
    ∃ (g : List Nat × Launch) (rest : List (List Nat × Launch)), s.freeGangs p panel stage = g :: rest ∧ let rows := p.decisionRows panel stage;
    ∃ (b i : Nat) (r : Row) (a : Arrival), st.bestRow rows = some b ∧ rows[b]? = some r ∧ st.choose r.queue r.pass r.select = some i ∧
    (st.queues[r.queue])[i]? = some a ∧ versionReady st r.pass a.tag ∧ r.pass ≤ 3 ∧ s.freeCounter p ≠ none :=
  ⟨armedState (armed rowPlane) stage0, 0, 0, 0, armed rowPlane, ⟨rfl, rfl, rfl⟩, ([0], launch0), [], (by decide +kernel), 0, 0, rowE, arrival0, (best_of rows_of_rowPlane (by decide +kernel)),
    (at_of rows_of_rowPlane rfl), (by decide +kernel), rfl, ⟨(by decide), (by decide)⟩, (by decide), (by decide +kernel)⟩
theorem witness_treadlesDecide_3 :
    ∃ (s : State) (panel stage peer : Nat) (p : Partition), stageOwner s panel stage peer p ∧ let st := s.stage panel stage;
    ∃ (tag : W32) (row i : Nat) (g : List Nat × Launch) (a : Arrival), p.determinate = true ∧ st.replay[st.replayPos]? = some (tag, row) ∧
    (p.stageGangs panel stage)[st.replayPos % (p.stageGangs panel stage).length]? = some g ∧ s.gangFree p g = true ∧ let r := planeRow p.plane panel stage row;
    ((st.queues[r.queue].take 64).zipIdx.find? (fun x => x.1.tag == tag)) = some (a, i) ∧ versionReady st r.pass a.tag ∧ s.freeCounter p ≠ none :=
  ⟨armedState ({ armed rowPlane with determinate := true }) { stage0 with replay := [(7, 0)] }, 0, 0, 0, { armed rowPlane with determinate := true },
    ⟨rfl, rfl, rfl⟩, 7, 0, 0, ([0], launch0), arrival0, rfl, rfl, (by decide +kernel), (by decide +kernel), (by decide +kernel), ⟨(by decide +kernel),
    (by decide +kernel)⟩, (by decide +kernel)⟩
theorem witness_treadlesDecide_4 :
    ∃ (s : State) (panel stage peer : Nat) (p : Partition), stageOwner s panel stage peer p ∧ let st := s.stage panel stage;
    p.param panel stage 0x38 4 ≠ 0 ∧ s.freeGangs p panel stage ≠ [] ∧ (∃ q, st.depth q ≠ 0) ∧ st.stallNoted = false ∧ s.nothingMatches p panel stage =
    true :=
  ⟨armedState (armed (List.replicate 0x22D8 0 ++ [1])) stage0, 0, 0, 0, armed (List.replicate 0x22D8 0 ++ [1]), ⟨rfl, rfl, rfl⟩, (by decide +kernel),
    (by decide +kernel), ⟨3, by decide⟩, (by decide +kernel), (by decide +kernel)⟩
theorem witness_picksStart_1 :
    ∃ (s : State) (peer pick : Nat) (p : Partition) (k : Pick), s.part? peer = some p ∧ p.picks.find? (fun x => x.id == pick) = some k ∧ k.started = false
    ∧ (∀ o ∈ s.stashOps, ¬ (o.peer = peer ∧ o.pick = some pick ∧ s.prefetchHolds o = true)) ∧ p.held = false ∧ (∀ l ∈ k.looms, (s.ctxAt l false).act = .idle ∧ s.moveDue l = false)
    ∧ k.looms.Nodup :=
  ⟨withPart ({ part with picks := [{ id := 0, launch := 0, panel := 0, stage := 0, gang := [0], looms := [0, 1], tag := 7, pass := 3, wver := 0, counter := 0, entry := 0 }], nextPick := 1 }),
    0, 0, { part with picks := [{ id := 0, launch := 0, panel := 0, stage := 0, gang := [0], looms := [0, 1], tag := 7, pass := 3, wver := 0, counter := 0, entry := 0 }], nextPick := 1 },
    { id := 0, launch := 0, panel := 0, stage := 0, gang := [0], looms := [0, 1], tag := 7, pass := 3, wver := 0, counter := 0, entry := 0 }, rfl,
    rfl, rfl, (by intro x hx; cases hx), rfl, (by decide), (by decide)⟩
theorem witness_picksStart_2 :
    ∃ (s : State) (peer : Nat) (p : Partition) (d : Diff) (rest : List Diff), s.part? peer = some p ∧ p.diffs = d :: rest ∧ p.diffing = true ∧ p.rollBack
    = none ∧ (∀ k ∈ p.picks, k.plane = p.planeNo) :=
  ⟨{ parts := [(0, { part with diffs := [{ image := 0, barrier := none }], diffing := true })] }, 0, { part with diffs := [{ image := 0, barrier := none }], diffing := true },
    { image := 0, barrier := none }, [], rfl, rfl, rfl, rfl, (by intro k hk; cases hk)⟩
theorem witness_arrivalsMove_1 :
    ∃ (s : State) (panel stage queue peer : Nat) (p : Partition), stageOwner s panel stage peer p ∧ let st := s.stage panel stage;
    let q : Fin 4 := Fin.ofNat 4 queue;
    let r := st.rings[q];
    ∃ (sp : Span) (u : State) (bs : List Byte), r.head < r.tail ∧ r.fenced = false ∧ st.queues[q].length ≤ 56 ∧ s.spillPlace p (r.at r.head) false =
    some sp ∧ s.readSpan sp = (u, bs, none) :=
  ⟨{ withPart mapped with mem := frameMem, stages := [(0, { rings := (Vector.replicate 4 {}).set 0 { base := 0x40000, len := 4, head := 0, tail := 1 } })] },
    0, 0, 0, 0, mapped, ⟨rfl, rfl, rfl⟩, { pa := 0x40000, va := 0x40000, len := 16, off := 0 }, _, _, (by decide), rfl, (by decide), (optionIs (by decide +kernel)),
    readSpan_sound ⟨rfl, rfl, rfl, rfl⟩ _⟩
theorem witness_arrivalsMove_2 :
    ∃ (s : State) (panel stage queue peer : Nat) (p : Partition), stageOwner s panel stage peer p ∧ let st := s.stage panel stage;
    let q : Fin 4 := Fin.ofNat 4 queue;
    let r := st.rings[q];
    ∃ (w : Span), r.fenced = true ∧ s.spillPlace p (r.at r.tail) true = some w ∧ (r.tail ≤ r.head ∨ s.spillPlace p (r.at r.head) false ≠ none) :=
  ⟨{ withPart mapped with mem := wideMem, stages := [(0, { rings := (Vector.replicate 4 {}).set 0 { base := 0x40000, len := 4, head := 0, tail := 0, fenced := true } })] },
    0, 0, 0, 0, mapped, ⟨rfl, rfl, rfl⟩, { pa := 0x40000, va := 0x40000, len := 16, off := 0, attrs := 0x40 }, rfl, (optionIs (by decide +kernel)),
    .inl (by decide)⟩
theorem witness_arrivalsMove_3 :
    ∃ (s : State) (panel stage queue peer : Nat) (p : Partition), stageOwner s panel stage peer p ∧ let st := s.stage panel stage;
    let q : Fin 4 := Fin.ofNat 4 queue;
    ∃ (h : HeldArrival) (rest : List HeldArrival) (u : State), st.heldArr[q] = h :: rest ∧ s.enqueue peer panel stage h.arr = (u, true) :=
  ⟨{ withPart part with stages := [(0, { heldArr := (Vector.replicate 4 []).set 3 [{ arr := arrival0, src := .none }] })] }, 0, 0, 3, 0, part, ⟨rfl,
    rfl, rfl⟩, { arr := arrival0, src := .none }, [], _, rfl, rfl⟩
theorem witness_arrivalsMove_4 :
    ∃ (s : State) (peer mem : Nat) (p : Partition), s.part? peer = some p ∧ p.level mem ≠ 0 :=
  ⟨{ parts := [(0, { part with cong := [(1, 2)] })] }, 0, 1, { part with cong := [(1, 2)] }, rfl, by decide⟩
theorem witness_arrivalsMove_5 :
    ∃ (s : State) (k : Nat) (p : Partition), let b := s.bobbin k;
    s.part? b.peer = some p ∧ b.held ≠ 0 ∧ (∀ x ∈ s.stages, ∀ l ∈ x.2.heldArr.toList, ∀ h ∈ l, h.src ≠ .bobbin k) ∧ ∃ sp, b.action = 0 ∧
    s.actionBarrier p k b.operand = some sp ∧ s.meetBarrier sp = (s, none) ∧ (s.barrier sp.pa).state = 1 :=
  ⟨{ withPart part with bobbins := [(65536, { state := 2, held := 1, action := 0 })], mem := [(boltPad 0 0, 1)] }, 65536, part, rfl, (by decide), (by intro x hx; cases hx),
    _, rfl, rfl, rfl, rfl⟩
theorem witness_arrivalsMove_6 :
    ∃ (s : State) (k : Nat) (p : Partition), let b := s.bobbin k;
    s.part? b.peer = some p ∧ b.held ≠ 0 ∧ (∀ x ∈ s.stages, ∀ l ∈ x.2.heldArr.toList, ∀ h ∈ l, h.src ≠ .bobbin k) ∧ ∃ (u : State) (bs : List Byte),
    b.action = 1 ∧ s.actionRecords p k b.operand = (u, some bs) ∧ let bolt := if 65536 ≤ k then k % 65536 / 256 else b.operand.toNat / 2 ^ 48 % 64;
    (s.bolt bolt).recs.length + b.operand.toNat / 2 ^ 56 % 32 + 1 ≤ 64 :=
  ⟨{ withPart part with bobbins := [(65536, { state := 2, held := 1, action := 1 })] }, 65536, part, rfl, (by decide), (by intro x hx; cases hx), _, _,
    rfl, rfl, by decide⟩
theorem witness_arrivalsMove_7 :
    ∃ (s : State) (k : Nat) (p : Partition), let b := s.bobbin k;
    s.part? b.peer = some p ∧ b.held ≠ 0 ∧ (∀ x ∈ s.stages, ∀ l ∈ x.2.heldArr.toList, ∀ h ∈ l, h.src ≠ .bobbin k) ∧ ∃ (u : State) (panel stage : Nat)
    (a : Arrival), b.action = 2 ∧ arrivalOf (b.operand.setWidth 64) 0 = (panel, stage, a) ∧ p.hasStage panel stage = true ∧ let tag' := (b.operand.toNat / 2 ^ 53 + a.tag.toNat) % 2 ^ 32;
    (s.setBobbin k { b with operand := (b.operand &&& 0x1FFFFFFF00000000) ||| BitVec.ofNat 61 tag' }).postArrival b.peer panel stage { a with fired := some b.extents }
    (.bobbin k) = (u, true) :=
  ⟨{ withPart part with bobbins := [(65536, { state := 2, held := 1, action := 2 })] }, 65536, part, rfl, (by decide), (by intro x hx; cases hx), _, _,
    _, _, rfl, rfl, rfl, rfl⟩
theorem witness_evaluationsRun_1 :
    ∃ (s : State) (loom : Nat) (ev : Bool) (who : Loader) (peer pa va : Nat) (p : Partition), loaderMeets s loom ev who peer pa va p ∧ ∃ (r : EvalRec),
    (s.line pa).cell = 2 ∧ s.recordOf pa = some r ∧ (∀ x, loaderEval s loom ev who = some x → x.1 ≠ r.sid ∧ r.sid ∉ x.2) ∧ s.waiterEntries (lineStack r.head)
    < 1024 :=
  ⟨{ meetingCell 2 with evals := [rec1] }, 0, false, .acc 5, 0, 0x40000, 0x40000, mapped, ⟨(by intro w hw; cases hw), (optionIs (by decide +kernel)),
    rfl⟩, rec1, rfl, rfl, (fun x hx => nomatch (rfl : loaderEval _ _ _ _ = none).symm.trans hx), by decide⟩
theorem witness_evaluationsRun_2 :
    ∃ (s : State) (loom : Nat) (ev : Bool) (who : Loader) (peer pa va : Nat) (p : Partition), loaderMeets s loom ev who peer pa va p ∧ ∃ (head headVa : Nat)
    (d : SuspDesc) (ls : List (Piece × BitVec 8)), (s.line pa).cell = 1 ∧ s.regionOf p pa va = some (head, headVa, d, ls) ∧ (∀ x, loaderEval s loom ev who = some x → x.2.length < 4)
    ∧ s.waiterEntries (lineStack head) + 2 ≤ 1024 :=
  ⟨meetingCell 1, 0, false, .acc 5, 0, 0x40000, 0x40000, mapped, ⟨(by intro w hw; cases hw), (optionIs (by decide +kernel)), rfl⟩, 0x40000, 0x40000,
    SuspDesc.ofNat (128 * 2 ^ 128 + 2 ^ 192), [(⟨0x40000, 0x40000, 0, 128⟩, 0x0A)], rfl, (optionIs (by decide +kernel)), (fun x hx => nomatch (rfl : loaderEval _ _ _ _ = none).symm.trans hx),
    by decide⟩
theorem witness_evaluationsRun_3 :
    ∃ (s : State) (loom : Nat) (e : Evaluation) (rest : List Evaluation) (p : Partition), (s.loom loom).evalQ = e :: rest ∧ (s.loom loom).ev.act = .idle ∧
    (∀ q, (s.loom loom).pick.req = some q → q.preempt = false) ∧ s.moveDue loom = false ∧ s.part? e.peer = some p :=
  ⟨{ withPart part with looms := [(0, { evalQ := [eval0] })] }, 0, eval0, [], part, rfl, rfl, by decide, rfl, rfl⟩
theorem witness_evaluationsRun_4 :
    ∃ (s : State) (loom : Nat) (ev : Bool) (id : Nat) (p : Partition) (w : Waiter) (r : EvalRec) (a : Access), let c := s.ctxAt loom ev;
    s.part? c.peer = some p ∧ p.suspLimit ≠ 0 ∧ a ∈ c.accs ∧ a.id = id ∧ s.waiters.find? (fun x => x.loom == loom && x.ev == ev && x.who == .acc id) =
    some w ∧ s.evals.find? (fun x => x.head == w.head) = some r ∧ r.held = none ∧ r.posting = false :=
  ⟨{ withPart ({ part with suspLimit := 1 }) with waiters := [⟨0, 0, false, .acc 5⟩], evals := [rec0], looms := [(0, { pick := { accs := [cellLoad] } })] },
    0, false, 5, { part with suspLimit := 1 }, ⟨0, 0, false, .acc 5⟩, rec0, cellLoad, rfl, (by decide), .head _, rfl, rfl, rfl, rfl, rfl⟩
theorem witness_evaluationsRun_5 :
    ∃ (s u : State) (loom : Nat) (ev : Bool) (id q : Nat) (r : Request), s.requests.find? (fun r => s.requestOf loom ev id r && r.refused) = some r ∧
    s.transmit { r with refused := false } = some (u, q) :=
  ⟨{ linked ({ part with fabric := some pairFabric }) with requests := [{ request0 with dpeer := 1, refused := true }] }, _, 0, false, 5, _, { request0 with dpeer := 1, refused := true },
    rfl, rfl⟩
theorem witness_repliesAndSwitches_1 :
    ∃ (s : State) (loom : Nat) (ev : Bool) (id : Nat) (a : Access), let c := s.ctxAt loom ev;
    c.accs.find? (fun x => x.id == id) = some a ∧ ∃ sp, unanswered s loom ev id = [] ∧ s.performable loom ev c a = true ∧ s.awaited c a.undone = some
    sp ∧ a.replays < 3 :=
  ⟨{ looms := [(0, { pick := { accs := [{ cellLoad with replays := 2 }] } })] }, 0, false, 5, { cellLoad with replays := 2 }, rfl, _, rfl, rfl, rfl, by
    decide⟩
theorem witness_repliesAndSwitches_2 :
    ∃ (s : State) (loom : Nat) (ev : Bool) (id : Nat) (a : Access), let c := s.ctxAt loom ev;
    c.accs.find? (fun x => x.id == id) = some a ∧ ∃ sp, unanswered s loom ev id = [] ∧ s.performable loom ev c a = true ∧ s.awaited c a.undone = some
    sp ∧ 3 ≤ a.replays :=
  ⟨{ looms := [(0, { pick := { accs := [{ cellLoad with replays := 3 }] } })] }, 0, false, 5, { cellLoad with replays := 3 }, rfl, _, rfl, rfl, rfl, by
    decide⟩
theorem witness_repliesAndSwitches_3 :
    ∃ (s : State) (loom : Nat) (ev : Bool) (id : Nat) (a : Access), let c := s.ctxAt loom ev;
    c.accs.find? (fun x => x.id == id) = some a ∧ ∃ (r : Request) (u : State) (q : Nat), unanswered s loom ev id = [r] ∧ r ∈ s.requests ∧ r.tries < 3
    ∧ (∀ p, s.part? r.peer = some p → p.resetting = false) ∧ s.transmit { r with tries := r.tries + 1 } = some (u, q) :=
  ⟨{ linked ({ part with fabric := some pairFabric }) with requests := [{ request0 with dpeer := 1, tries := 2 }], looms := [(0, { pick := { accs := [cellLoad] } })] },
    0, false, 5, cellLoad, rfl, { request0 with dpeer := 1, tries := 2 }, _, _, rfl, .head _, by decide, (by intro p hp; cases hp; rfl), rfl⟩
theorem witness_repliesAndSwitches_4 :
    ∃ (s : State) (switch id : Nat) (e : Combining), s.combining.find? (fun e => e.id == id && e.switch == switch && !e.departed) = some e ∧ let next : Option (Nat × Nat) := if switch < 40 then panelSwitch switch e.target else none;
    ∃ p, e.parts = [p] ∧ next = none :=
  ⟨{ combining := [entry0] }, 40, 1, entry0, rfl, _, rfl, (by decide)⟩
theorem witness_repliesAndSwitches_5 :
    ∃ (s : State) (switch id : Nat) (e : Combining), s.combining.find? (fun e => e.id == id && e.switch == switch && !e.departed) = some e ∧ let next : Option (Nat × Nat) := if switch < 40 then panelSwitch switch e.target else none;
    let gone : State := s.dropEntry id;
    ∃ p sw port u, e.parts = [p] ∧ next = some (sw, port) ∧ gone.joinSwitch sw e.target { p with port := port } = (u, true) :=
  ⟨{ combining := [entryB, { id := 2, switch := 40, target := 0x40000, parts := [{ port := 1, addend := 3 }] }] }, 0, 1, entryB, rfl, _, _, _, _, rfl,
    rfl, pair_of (by decide +kernel)⟩
theorem witness_repliesAndSwitches_6 :
    ∃ (s : State) (switch id : Nat) (e : Combining), s.combining.find? (fun e => e.id == id && e.switch == switch && !e.departed) = some e ∧ let next : Option (Nat × Nat) := if switch < 40 then panelSwitch switch e.target else none;
    let gone : State := s.dropEntry id;
    ∃ p sw port u, e.parts = [p] ∧ next = some (sw, port) ∧ gone.joinSwitch sw e.target { p with port := port } = (u, false) :=
  ⟨fullSwitch, 0, 1, entryB, rfl, _, _, _, _, rfl, rfl, pair_of (full_switch _)⟩
theorem witness_repliesAndSwitches_7 :
    ∃ (s : State) (switch id : Nat) (e : Combining), s.combining.find? (fun e => e.id == id && e.switch == switch && !e.departed) = some e ∧ let next : Option (Nat × Nat) := if switch < 40 then panelSwitch switch e.target else none;
    e.parts.length ≠ 1 ∧ next = none ∧ e.target < 2 ^ 60 :=
  ⟨{ combining := [{ entry0 with parts := [{ port := 0, addend := 1 }, { port := 1, addend := 2 }] }] }, 40, 1, { entry0 with parts := [{ port := 0, addend := 1 }, { port := 1, addend := 2 }] },
    rfl, (by decide), rfl, (by decide)⟩
theorem witness_repliesAndSwitches_8 :
    ∃ (s : State) (switch id : Nat) (e : Combining), s.combining.find? (fun e => e.id == id && e.switch == switch && !e.departed) = some e ∧ let next : Option (Nat × Nat) := if switch < 40 then panelSwitch switch e.target else none;
    e.parts.length ≠ 1 ∧ next = none ∧ 2 ^ 60 ≤ e.target :=
  ⟨{ combining := [{ entry0 with target := 2 ^ 60, parts := [{ port := 0, addend := 1 }, { port := 1, addend := 2 }] }] }, 40, 1, { entry0 with target := 2 ^ 60, parts := [{ port := 0, addend := 1 }, { port := 1, addend := 2 }] },
    rfl, (by decide), rfl, (by decide)⟩
theorem witness_repliesAndSwitches_9 :
    ∃ (s : State) (switch id : Nat) (e : Combining), s.combining.find? (fun e => e.id == id && e.switch == switch && !e.departed) = some e ∧ let next : Option (Nat × Nat) := if switch < 40 then panelSwitch switch e.target else none;
    ∃ sw port, e.parts.length ≠ 1 ∧ next = some (sw, port) :=
  ⟨{ combining := [{ entry0 with switch := 0, parts := [{ port := 0, addend := 1 }, { port := 1, addend := 2 }] }] }, 0, 1, { entry0 with switch := 0, parts := [{ port := 0, addend := 1 }, { port := 1, addend := 2 }] },
    rfl, _, _, (by decide), rfl⟩
theorem witness_repliesAndSwitches_10 :
    ∃ (bolt target sw port : Nat), panelSwitch bolt target = some (sw, port) :=
  ⟨0, 0x40000, _, _, rfl⟩
theorem witness_repliesAndSwitches_11 :
    ∃ (s : State) (switch id : Nat) (e : Combining), s.combining.find? (fun e => e.id == id && e.switch == switch && e.departed) = some e ∧ ∃ b, e.base =
    some b :=
  ⟨{ combining := [{ entry0 with departed := true, base := some 9 }] }, 40, 1, { entry0 with departed := true, base := some 9 }, rfl, _, rfl⟩
theorem witness_repliesAndSwitches_12 :
    ∃ (s : State) (switch id : Nat) (e : Combining), s.combining.find? (fun e => e.id == id && e.switch == switch && e.departed) = some e ∧ ∃ (u : State)
    (v : Nat), e.base = none ∧ e.target < 2 ^ 60 ∧ (∀ x ∈ s.combining, ∀ p ∈ x.parts, p.req ≠ none ∨ p.far ≠ none ∨ p.child ≠ id) ∧ s.meetsSuspension
    [s.partSpan e.target 3 e.parts] = false ∧ s.atomicAt 512 (s.partSpan e.target 3 e.parts) .faaC e.sum ((s.firstReq 3 e.parts).map (fun r => (r.1, r.2.1)))
    = (u, v, none) :=
  ⟨{ combining := [{ entry0 with departed := true }] }, 40, 1, { entry0 with departed := true }, rfl, _, _, rfl, (by decide), (by intro x hx p hp; simp at hx; subst hx; simp [entry0] at hp; subst hp; exact .inr (.inr (by decide))),
    meetsSuspension_sound ⟨rfl, rfl, rfl, rfl⟩ _, rfl⟩
theorem witness_repliesAndSwitches_13 :
    ∃ (x y : W64) (p q : CombPart), p.addend = x ∧ q.addend = y :=
  ⟨1, 2, { port := 0, addend := 1 }, { port := 1, addend := 2 }, rfl, rfl⟩
theorem witness_peerRequests_1 :
    ∃ (s : State) (q : Nat) (f : Flit) (p : Partition), let n := f.lenM1.toNat + 1;
    let first (kind : Nat) : Prop := firstRequest s q kind f p;
    ∃ (sps : List Span) (v : State) (bs : List Byte), let u := requestIn s q kRead f 0;
    first kRead ∧ requestAt u p .load f n sps ∧ u.meetsSuspension sps = false ∧ u.readSpans sps = (v, bs, none) :=
  ⟨{ linked mapped with mem := tables 0 }, 0, (sealFlit kRead { noFlit with addr := 0x40000, lenM1 := 7 }), mapped, [{ pa := 0x40000, va := 0x40000, len := 8, off := 0, attrs := 0 }],
    _, _, ⟨⟨rfl, sealed, rfl⟩, ⟨rfl, rfl⟩, rfl, (by intro x hx; cases hx), rfl⟩, ⟨by decide, (exceptOk (by decide +kernel))⟩, meetsSuspension_sound
    ⟨rfl, rfl, rfl, rfl⟩ _, readSpans_sound ⟨rfl, rfl, rfl, rfl⟩ _⟩
theorem witness_peerRequests_2 :
    ∃ (s : State) (q : Nat) (f : Flit) (p : Partition), let n := f.lenM1.toNat + 1;
    let first (kind : Nat) : Prop := firstRequest s q kind f p;
    ∃ (sps : List Span) (v : State), let u := requestIn s q kWrite f 0;
    first kWrite ∧ n ≤ 8 ∧ requestAt u p .store f n sps ∧ u.writeSpans (leBytes n f.opa.toNat) sps = (v, none) :=
  ⟨{ linked mapped with mem := tables 0x40 }, 0, (sealFlit kWrite { noFlit with addr := 0x40000, lenM1 := 7 }), mapped, [{ pa := 0x40000, va := 0x40000, len := 8, off := 0, attrs := 0x40 }],
    _, ⟨⟨rfl, sealed, rfl⟩, ⟨rfl, rfl⟩, rfl, (by intro x hx; cases hx), rfl⟩, by decide, ⟨by decide, (exceptOk (by decide +kernel))⟩, pair_of
    (writeSpans_sound ⟨rfl, rfl, rfl, rfl⟩ _ _ _ (by decide)).2⟩
theorem witness_peerRequests_3 :
    ∃ (s : State) (q : Nat) (f : Flit) (p : Partition), let n := f.lenM1.toNat + 1;
    let first (kind : Nat) : Prop := firstRequest s q kind f p;
    first kWrite ∧ 8 < n :=
  ⟨{ linked mapped with mem := tables 0 }, 0, (sealFlit kWrite { noFlit with addr := 0x40000, lenM1 := 8 }), mapped, ⟨⟨rfl, sealed, rfl⟩, ⟨rfl, rfl⟩,
    rfl, (by intro x hx; cases hx), rfl⟩, by decide⟩
theorem witness_peerRequests_4 :
    ∃ (s : State) (q : Nat) (f : Flit) (p : Partition), let first (kind : Nat) : Prop := firstRequest s q kind f p;
    ∃ (sps : List Span) (v : State), let u := requestIn s q kRelSt f 0;
    first kRelSt ∧ requestAt u p .store f 8 sps ∧ u.writeSpans (leBytes 8 f.opa.toNat) sps = (v, none) :=
  ⟨{ linked mapped with mem := tables 0x40 }, 0, (sealFlit kRelSt { noFlit with addr := 0x40000, lenM1 := 0 }), mapped, [{ pa := 0x40000, va := 0x40000, len := 8, off := 0, attrs := 0x40 }],
    _, ⟨⟨rfl, sealed, rfl⟩, ⟨rfl, rfl⟩, rfl, (by intro x hx; cases hx), rfl⟩, ⟨by decide, (exceptOk (by decide +kernel))⟩, pair_of (writeSpans_sound ⟨rfl, rfl, rfl, rfl⟩ _ _ _ (by decide)).2⟩
theorem witness_peerRequests_5 :
    ∃ (s : State) (q : Nat) (f : Flit) (p : Partition), let n := f.lenM1.toNat + 1;
    let first (kind : Nat) : Prop := firstRequest s q kind f p;
    ∃ (sps : List Span) (v : State), let u := requestIn s q kChWrite f 0;
    first kChWrite ∧ n ≤ 8 ∧ requestAt u p .copyDst f n sps ∧ u.writeSpans (leBytes n f.opa.toNat) sps = (v, none) :=
  ⟨{ linked mapped with mem := tables 0x40 }, 0, (sealFlit kChWrite { noFlit with addr := 0x40000, lenM1 := 7 }), mapped, [{ pa := 0x40000, va := 0x40000, len := 8, off := 0, attrs := 0x40 }],
    _, ⟨⟨rfl, sealed, rfl⟩, ⟨rfl, rfl⟩, rfl, (by intro x hx; cases hx), rfl⟩, by decide, ⟨by decide, (exceptOk (by decide +kernel))⟩, pair_of
    (writeSpans_sound ⟨rfl, rfl, rfl, rfl⟩ _ _ _ (by decide)).2⟩
theorem witness_peerRequests_6 :
    ∃ (s : State) (q : Nat) (f : Flit) (p : Partition), let first (kind : Nat) : Prop := firstRequest s q kind f p;
    ∃ (op : AtomicOp) (ret : Bool) (sp : Span) (v : State) (old : Nat), let u := requestIn s q kAtomic f 0;
    first kAtomic ∧ f.aop.toNat ≠ 0x21 ∧ AtomicOp.ofWire f.aop.toNat 0 = some (op, ret) ∧ f.addr.toNat % 8 = 0 ∧ requestAt u p .atomic f 8 [sp] ∧
    u.meetsSuspension [sp] = false ∧ (f.aop.toNat = 0x20 → offChip sp.pa = false) ∧ u.atomicAt 512 sp op f.opa = (v, old, none) :=
  ⟨{ linked mapped with mem := tables 0x40 }, 0, (sealFlit kAtomic { noFlit with addr := 0x40000, lenM1 := 7 }), mapped, .add, _, { pa := 0x40000, va := 0x40000, len := 8, off := 0, attrs := 0x40 },
    _, _, ⟨⟨rfl, sealed, rfl⟩, ⟨rfl, rfl⟩, rfl, (by intro x hx; cases hx), rfl⟩, by decide, rfl, rfl, ⟨by decide, (exceptOk (by decide +kernel))⟩,
    meetsSuspension_sound ⟨rfl, rfl, rfl, rfl⟩ _, (by intro h; cases h), triple_of (by decide +kernel)⟩
theorem witness_peerRequests_7 :
    ∃ (s : State) (q : Nat) (f : Flit) (p : Partition), let first (kind : Nat) : Prop := firstRequest s q kind f p;
    ∃ (sp : Span) (v : State), let u := requestIn s q kAtomic f 0;
    first kAtomic ∧ f.aop.toNat = 0x20 ∧ f.addr.toNat % 8 = 0 ∧ requestAt u p .atomic f 8 [sp] ∧ u.meetsSuspension [sp] = false ∧ offChip sp.pa = true
    ∧ u.joinSwitch (40 + panelOfPa sp.pa) sp.pa { port := 6 + q % 2, far := some (q, reqKey f), addend := f.opa } = (v, true) :=
  ⟨{ linked mapped with mem := tables 0x40, combining := [{ id := 2, switch := 40, target := 0x40000, parts := [{ port := 0, addend := 3 }] }] }, 0,
    (sealFlit kAtomic { noFlit with addr := 0x40000, lenM1 := 7, aop := 0x20 }), mapped, { pa := 0x40000, va := 0x40000, len := 8, off := 0, attrs := 0x40 },
    _, ⟨⟨rfl, sealed, rfl⟩, ⟨rfl, rfl⟩, rfl, (by intro x hx; cases hx), rfl⟩, rfl, rfl, ⟨by decide, (exceptOk (by decide +kernel))⟩,
    meetsSuspension_sound ⟨rfl, rfl, rfl, rfl⟩ _, rfl, pair_of (by decide +kernel)⟩
theorem witness_peerRequests_8 :
    ∃ (s : State) (q : Nat) (f : Flit) (p : Partition), let first (kind : Nat) : Prop := firstRequest s q kind f p;
    first kAtomic ∧ f.aop.toNat = 0x21 :=
  ⟨{ linked mapped with mem := tables 0x40 }, 0, (sealFlit kAtomic { noFlit with addr := 0x40000, lenM1 := 7, aop := 0x21 }), mapped, ⟨⟨rfl, sealed,
    rfl⟩, ⟨rfl, rfl⟩, rfl, (by intro x hx; cases hx), rfl⟩, rfl⟩
theorem witness_peerRequests_9 :
    ∃ (s : State) (q : Nat) (f : Flit) (p : Partition), let n := f.lenM1.toNat + 1;
    let first (kind : Nat) : Prop := firstRequest s q kind f p;
    ∃ (sp : Span) (v : State) (fl : Flags) (loom : Nat) (ev : Bool) (seq : BitVec 16) (closes : Bool), let u := requestIn s q kReduce f 0;
    let ty : BitVec 2 := f.aop.setWidth 2;
    let len := n / (redWidths ty).2 * (redWidths ty).1;
    first kReduce ∧ n ≤ 8 ∧ u.reduceSpan p f.addr.toNat len = .ok sp ∧ Config.reduceKey u.freeIdx = (loom, ev, seq, closes) ∧ ({ u with freeIdx := u.freeIdx + 1 } : State).reduceHere
    ty { sp with len := len } { key := ⟨f.speer.toNat, ev, loom % 512, seq⟩, first := 0, int := ty == 3, values := redValues ty (n / (redWidths ty).2) (leBytes n f.opa.toNat), flags := 0, remote := some (q, reqKey f), closes := closes }
    none = (v, .ok (some fl)) :=
  ⟨{ linked mapped with mem := tables 0x42 }, 0, (sealFlit kReduce { noFlit with addr := 0x40000, lenM1 := 7 }), mapped, { pa := 0x40000, va := 0x40000, len := 8, off := 0, attrs := 0x42 },
    _, 0, (Config.reduceKey 0).1, (Config.reduceKey 0).2.1, (Config.reduceKey 0).2.2.1, (Config.reduceKey 0).2.2.2, ⟨⟨rfl, sealed, rfl⟩, ⟨rfl, rfl⟩,
    rfl, (by intro x hx; cases hx), rfl⟩, by decide, (exceptOk (by decide +kernel)), rfl, pair_of (exceptOk (by decide +kernel))⟩
theorem witness_peerRequests_10 :
    ∃ (s : State) (q : Nat) (f : Flit) (p : Partition), ∃ (i : Incoming) (sp : Span) (v : State) (old : Nat), takesFlit s q kCasNew f ∧ forUs s q f p ∧
    p.resetting = false ∧ let u := flitTaken s q;
    let w : State := { u with incoming := u.incoming.map (fun x => if x = i then { i with casNew := some f.opa } else x) };
    s.incoming? q (reqKey f) = some i ∧ i.kind = kAtomic ∧ i.flit.aop = 0x21 ∧ i.casNew = none ∧ i.taken = false ∧ i.need = 0 ∧ i.flit.dpeer = f.dpeer
    ∧ i.flit.addr.toNat % 8 = 0 ∧ requestAt w p .atomic i.flit 8 [sp] ∧ w.meetsSuspension [sp] = false ∧ w.atomicAt 512 sp (.cas f.opa) i.flit.opa =
    (v, old, none) :=
  ⟨{ linked mapped with mem := tables 0x40, incoming := [{ port := 0, flit := { noFlit with addr := 0x40000, lenM1 := 7, aop := 0x21 }, kind := kAtomic }] },
    0, (sealFlit kCasNew noFlit), mapped, { port := 0, flit := { noFlit with addr := 0x40000, lenM1 := 7, aop := 0x21 }, kind := kAtomic }, { pa := 0x40000, va := 0x40000, len := 8, off := 0, attrs := 0x40 },
    _, _, ⟨rfl, sealed, rfl⟩, ⟨rfl, rfl⟩, rfl, (optionIs (by decide +kernel)), rfl, rfl, rfl, rfl, rfl, rfl, rfl, ⟨by decide, (exceptOk (by decide +kernel))⟩,
    meetsSuspension_sound ⟨rfl, rfl, rfl, rfl⟩ _, triple_of (by decide +kernel)⟩
theorem witness_peerReplies_1 :
    ∃ (s : State) (q : Nat) (f : Flit) (p : Partition), let u := flitTaken s q;
    forUs s q f p ∧ ∃ r, answers u f r ∧ f.status = 0 ∧ takesFlit s q kAck f :=
  ⟨{ linked part with requests := [request0] }, 0, (sealFlit kAck noFlit), part, ⟨rfl, rfl⟩, request0, rfl, rfl, ⟨rfl, sealed, rfl⟩⟩
theorem witness_peerReplies_2 :
    ∃ (s : State) (q : Nat) (f : Flit) (p : Partition), let u := flitTaken s q;
    forUs s q f p ∧ ∃ r, answers u f r ∧ f.status = 0 ∧ takesFlit s q kAtomicReply f :=
  ⟨{ linked part with requests := [request0] }, 0, (sealFlit kAtomicReply noFlit), part, ⟨rfl, rfl⟩, request0, rfl, rfl, ⟨rfl, sealed, rfl⟩⟩
theorem witness_peerReplies_3 :
    ∃ (s : State) (q : Nat) (f : Flit) (p : Partition), let u := flitTaken s q;
    forUs s q f p ∧ ∃ r, takesFlit s q kReadReply f ∧ answers u f r ∧ f.status = 0 ∧ f.lenM1.toNat < 8 ∧ (s.port q).unclaimed = [] ∧ (∀ x ∈ s.incoming, x ≠ asIncoming u q kReadReply f 0) :=
  ⟨{ linked part with requests := [request0] }, 0, (sealFlit kReadReply { noFlit with lenM1 := 7 }), part, ⟨rfl, rfl⟩, request0, ⟨rfl, sealed, rfl⟩,
    rfl, rfl, (by decide), rfl, (by intro x hx; cases hx)⟩
theorem witness_peerReplies_4 :
    ∃ (s : State) (q : Nat) (f : Flit) (p : Partition), forUs s q f p ∧ takesFlit s q kReadReply f ∧ f.status = 0 ∧ 8 ≤ f.lenM1.toNat ∧ (s.port q).unclaimed
    = [] :=
  ⟨{ linked part with requests := [request0] }, 0, (sealFlit kReadReply { noFlit with lenM1 := 8 }), part, ⟨rfl, rfl⟩, ⟨rfl, sealed, rfl⟩, rfl, (by decide),
    rfl⟩
theorem witness_peerReplies_5 :
    ∃ (s : State) (q : Nat) (f : Flit) (p : Partition), let u := flitTaken s q;
    forUs s q f p ∧ ∃ (r : Request), takesFlit s q kReadReply f ∧ answers u f r ∧ f.status.toNat ≠ 0 ∧ f.status.toNat ≠ 6 :=
  ⟨{ linked part with requests := [request0] }, 0, (sealFlit kReadReply { noFlit with status := 5 }), part, ⟨rfl, rfl⟩, request0, ⟨rfl, sealed, rfl⟩,
    rfl, (by decide), (by decide)⟩
theorem witness_peerReplies_6 :
    ∃ (s : State) (q : Nat) (f : Flit) (p : Partition), let u := flitTaken s q;
    forUs s q f p ∧ ∃ (t : Fabric) (e : Channel) (x : Partition), takesFlit s q kWindow f ∧ u.part? f.dpeer.toNat = some x ∧ x.fabric = some t ∧
    t.send[f.addr.toNat % 64]? = some e ∧ e.slots ≠ 0 :=
  ⟨linked ({ part with fabric := some pairFabric }), 0, (sealFlit kWindow noFlit), { part with fabric := some pairFabric }, ⟨rfl, rfl⟩, pairFabric, { slots := 1 },
    { part with fabric := some pairFabric }, ⟨rfl, sealed, rfl⟩, rfl, rfl, rfl, (by decide)⟩
theorem witness_peerReplies_7 :
    ∃ (s : State) (q : Nat) (f : Flit) (p : Partition), let u := flitTaken s q;
    forUs s q f p ∧ ∃ (x : Partition), takesFlit s q kCongestion f ∧ u.part? f.dpeer.toNat = some x :=
  ⟨linked part, 0, (sealFlit kCongestion noFlit), part, ⟨rfl, rfl⟩, part, ⟨rfl, sealed, rfl⟩, rfl⟩
theorem witness_peerReplies_8 :
    ∃ (s : State) (q : Nat) (f : Flit), takesFlit s q kDrain f :=
  ⟨linked part, 0, (sealFlit kDrain noFlit), ⟨rfl, sealed, rfl⟩⟩
theorem witness_peerReplies_9 :
    ∃ (s : State) (q : Nat), ∃ (d : DataFlit), (s.port q).up = true ∧ dataOk d = true ∧ d.dseq = (s.port q).dseqRx ∧ (∀ x ∈ (s.port q).early, x.dseq ≠ d.dseq + 1)
    ∧ (∀ x ∈ s.incoming, x.port ≠ q ∨ x.lacks = false ∨ x.flit.rtag ≠ d.rtag ∨ x.flit.speer ≠ d.speer) ∧ (s.port q).unclaimed = [] :=
  ⟨linked part, 0, (sealData { dseq := 0, rtag := 0, speer := 0, index := 0, last := true, data := [] }), rfl, sealedData rfl, rfl, (by intro x hx; cases hx),
    (by intro x hx; cases hx), rfl⟩
theorem witness_peerReplies_10 :
    ∃ (s : State) (q : Nat), ∃ (d : DataFlit), (s.port q).up = true ∧ dataOk d = true ∧ d.dseq ≠ (s.port q).dseqRx ∧ (d.dseq - (s.port q).dseqRx).toNat <
    2 ^ 15 ∧ (s.port q).dataWait = false :=
  ⟨linked part, 0, (sealData { dseq := 32767, rtag := 0, speer := 0, index := 0, last := true, data := [] }), rfl, sealedData rfl, (by decide), (by decide),
    rfl⟩
theorem witness_linksRun_1 :
    ∃ (s : State) (q : Nat) (f : Flit), ∃ (c : BitVec 2), takesFlit s q kPark f ∧ ((f.aop = 7 ∧ c = 0) ∨ (f.aop = 3 ∧ c = 1) ∨ (f.aop = 1 ∧ c = 2)) :=
  ⟨{ ports := [(0, { up := true })] }, 0, (sealFlit kPark { noFlit with aop := 1 }), 2, ⟨rfl, sealed, rfl⟩, (.inr (.inr ⟨rfl, rfl⟩))⟩
theorem witness_linksRun_2 :
    ∃ (s : State) (q : Nat) (f : Flit), takesFlit s q kWake f :=
  ⟨{ ports := [(0, { up := true })] }, 0, (sealFlit kWake noFlit), ⟨rfl, sealed, rfl⟩⟩
theorem witness_linksRun_3 :
    ∃ (kind : Nat) (g : Flit), kind < 256 ∧ g.data = [] :=
  ⟨255, noFlit, by decide, rfl⟩
theorem witness_linksRun_4 :
    ∃ (p : Port) (d : BitVec 16) (c : BitVec 2), p.rxPark = [(d, c)] ∧ (p.dseqRx - d).toNat < 2 ^ 15 :=
  ⟨{ dseqRx := 5, rxPark := [(5, 2)] }, 5, 2, rfl, by decide⟩
theorem witness_linksRun_5 :
    ∃ (p : Port) (d : BitVec 16) (c : BitVec 2), p.rxPark = [(d, c)] ∧ 2 ^ 15 ≤ (p.dseqRx - d).toNat :=
  ⟨{ dseqRx := 5, rxPark := [(6, 2)] }, 6, 2, rfl, by decide⟩
theorem witness_linksRun_6 :
    ∃ (s : State) (q : Nat) (f : Flit), (s.port q).up = true ∧ flitOk kIdle f = true :=
  ⟨{ ports := [(0, { up := true })] }, 0, (sealFlit kIdle noFlit), rfl, sealed⟩
theorem witness_linksRun_7 :
    ∃ (s : State) (q : Nat) (f : Flit), (s.port q).up = true ∧ flitOk kLRetry f = true :=
  ⟨{ ports := [(0, { up := true })] }, 0, (sealFlit kLRetry noFlit), rfl, sealed⟩
theorem witness_linksRun_8 :
    ∃ (s : State) (q : Nat) (f : Flit), (s.port q).up = true ∧ let p := s.port q;
    flitOk kLack f = true ∧ p.waiting = [] :=
  ⟨{ ports := [(0, { up := true })] }, 0, (sealFlit kLack noFlit), rfl, sealed, rfl⟩
theorem witness_linksRun_9 :
    ∃ (s : State) (q : Nat) (f : Flit), (s.port q).up = true ∧ let p := s.port q;
    flitOk kIdle f = false ∧ p.ctlWait = false ∧ p.retries < 8 :=
  ⟨{ ports := [(0, { up := true, retries := 7 })] }, 0, noFlit, rfl, (by decide +kernel), rfl, (by decide)⟩
theorem witness_linksRun_10 :
    ∃ (s : State) (q : Nat), (s.port q).up = true ∧ let p := s.port q;
    p.gotSince ≠ 0 :=
  ⟨{ ports := [(0, { up := true, gotSince := 64 })] }, 0, rfl, (by decide)⟩
theorem witness_linksRun_11 :
    ∃ (s : State) (q : Nat), (s.port q).up = true ∧ let p := s.port q;
    ∃ (k : Nat) (h : Flit) (rest : List (Nat × Flit)), p.held = (k, h) :: rest ∧ p.heldData = [] :=
  ⟨{ ports := [(0, { up := true, held := [(1, noFlit)] })] }, 0, rfl, 1, noFlit, [], rfl, rfl⟩
theorem witness_linksRun_12 :
    ∃ (s : State) (q : Nat), (s.port q).up = true ∧ let p := s.port q;
    ∃ w, p.pendingWidth = some w :=
  ⟨{ ports := [(0, { up := true, pendingWidth := some 0 })] }, 0, rfl, _, rfl⟩
theorem witness_linksRun_13 :
    ∃ (s : State) (q : Nat), (s.port q).up = true ∧ let p := s.port q;
    ∃ wave, 1 ≤ wave ∧ wave ≤ 7 ∧ wave ∉ p.lost :=
  ⟨{ ports := [(0, { up := true })] }, 0, rfl, 7, by decide, by decide, (by decide)⟩
theorem witness_linksRun_14 :
    ∃ (s : State) (q : Nat), (s.port q).up = true ∧ (∀ peer x, s.portOwner q = some peer → s.part? peer = some x → x.fabricNext = none) :=
  ⟨{ ports := [(0, { up := true })] }, 0, rfl, (by intro peer x hp hx; cases hp)⟩
theorem witness_linksRun_15 :
    ∃ (s : State) (q peer : Nat) (f : Flit) (p : Partition) (req : HostReq) (t : Fabric) (role group : Nat), s.portOwner q = some peer ∧ s.part? peer =
    some p ∧ p.fabricNext = some (req, t) ∧ (q, role, group) ∈ t.roles ∧ role ≠ 0 ∧ (s.port q).up = false ∧ (s.port q).relockIn = none ∧ flitOk
    kRelock f = true ∧ f.opa.setWidth 32 = t.phase :=
  ⟨withPart ({ part with fabricNext := some ({ id := 0 }, pairFabric) }), 0, 0, (sealFlit kRelock noFlit), { part with fabricNext := some ({ id := 0 }, pairFabric) },
    _, pairFabric, 1, 1, rfl, rfl, rfl, .head _, (by decide), rfl, rfl, sealed, rfl⟩
theorem witness_hostMessages_1 :
    ∃ (s : State) (peer : Nat) (req : HostReq) (p : Partition), takesRequest s peer req p ∧ let u := s.receive peer req.endpoint;
    ∃ (a : ArmArgs) (i : Nat), u.armStatus p a = 0 ∧ u.mustWait p a = false ∧ u.freeCounter p = some i :=
  ⟨hosted stepPart stepMem, 0, _, stepPart, hosted_takes rfl rfl rfl rfl, armArgs, 1, (by decide +kernel), Bool.and_eq_false_iff.2 (.inr (by decide +kernel)),
    (by decide +kernel)⟩
theorem witness_hostMessages_2 :
    ∃ (s : State) (peer : Nat) (req : HostReq) (p : Partition), takesRequest s peer req p ∧ ∃ (index level : Nat), index ∈ p.counters ∧ (s.counter p index).level
    = level :=
  ⟨hosted stepPart stepMem, 0, _, stepPart, hosted_takes rfl rfl rfl rfl, 0, 2, .head _, (by decide +kernel)⟩
theorem witness_hostMessages_3 :
    ∃ (s : State) (peer : Nat) (req : HostReq) (p : Partition), takesRequest s peer req p ∧ ∃ (index : Nat), index ∈ p.counters :=
  ⟨hosted stepPart stepMem, 0, _, stepPart, hosted_takes rfl rfl rfl rfl, 0, .head _⟩
theorem witness_hostMessages_4 :
    ∃ (s : State) (peer : Nat) (req : HostReq) (p : Partition), takesRequest s peer req p ∧ let u := s.receive peer req.endpoint;
    ∃ (count : Nat) (ops : List W64) (v : State), 1 ≤ count ∧ count ≤ 64 ∧ ops.length = count ∧ (∀ o ∈ ops, p.arrivalOk o = true) ∧ u.postHost peer
    ops = (v, []) :=
  ⟨hosted part [], 0, _, part, hosted_takes rfl rfl rfl rfl, 1, [0], _, by decide, by decide, rfl, (List.forall_mem_singleton.2 rfl), pair_of (by decide +kernel)⟩
theorem witness_hostMessages_5 :
    ∃ (s : State) (peer : Nat) (req : HostReq) (p : Partition), takesRequest s peer req p ∧ let u := s.receive peer req.endpoint;
    ∃ (va : W64) (n : Nat) (sps : List Span) (v : State) (bs : List Byte), 0 < n ∧ n ≤ 8192 ∧ va.toNat + n ≤ 2 ^ 48 ∧ u.peerSpans p .load 0 3 va.toNat
    n = .ok sps ∧ u.meetsSuspension sps = false ∧ u.readSpans sps = (v, bs, none) :=
  ⟨hosted mapped (tables 0), 0, _, mapped, hosted_takes rfl rfl rfl rfl, 0x40000, 8192, [{ pa := 0x40000, va := 0x40000, len := 8192, off := 0 }], _, _,
    by decide, by decide, by decide, (exceptOk (by decide +kernel)), meetsSuspension_sound ⟨rfl, rfl, rfl, rfl⟩ _, readSpans_sound ⟨rfl, rfl, rfl,
    rfl⟩ _⟩
theorem witness_hostMessages_6 :
    ∃ (s : State) (peer : Nat) (req : HostReq) (p : Partition), listens s peer p ∧ ∃ (va : W64) (data : List Byte) (sps : List Span) (v : State), req.id =
    0 ∧ req.zeros = 0 ∧ p.resetReq = none ∧ p.resizing = none ∧ data ≠ [] ∧ data.length ≤ 8192 ∧ va.toNat + data.length ≤ 2 ^ 48 ∧ s.peerSpans p
    .store 0 3 va.toNat data.length = .ok sps ∧ s.meetsSuspension sps = false ∧ s.writeSpans data sps = (v, none) :=
  ⟨hosted mapped (tables 0x40), 0, { id := 0 }, mapped, ⟨rfl, rfl, rfl, rfl⟩, 0x40000, leBytes 8 7, [{ pa := 0x40000, va := 0x40000, len := 8, off := 0, attrs := 0x40 }],
    _, rfl, rfl, rfl, rfl, (by decide), by decide, by decide, (exceptOk (by decide +kernel)), meetsSuspension_sound ⟨rfl, rfl, rfl, rfl⟩ _, pair_of
    (writeSpans_sound ⟨rfl, rfl, rfl, rfl⟩ _ _ _ (by decide)).2⟩
theorem witness_hostMessages_7 :
    ∃ (s : State) (peer : Nat) (p : Partition), listens s peer p :=
  ⟨hosted part [], 0, part, ⟨rfl, rfl, rfl, rfl⟩⟩
theorem witness_hostMessages_8 :
    ∃ (s : State) (peer : Nat), s.agate.failed = false ∧ s.agate.verified = true ∧ s.part? peer = none :=
  ⟨{ agate := { verified := true } }, 0, rfl, rfl, rfl⟩
theorem witness_hostMessages_9 :
    ∃ (s : State) (peer endpoint seq cls : Nat) (bs : List Byte), let e := s.endpoint (endpointKey peer endpoint);
    e.unacked.find? (fun m => m.1 == seq) = some (seq, cls, bs) :=
  ⟨{ endpoints := [(0, { unacked := [(3, 1, [])] })] }, 0, 0, 3, 1, [], rfl⟩
theorem witness_partitionCommands_1 :
    ∃ (s : State) (req : HostReq) (f : FormArgs), s.agate.failed = false ∧ s.agate.verified = true ∧ s.part? 0xFFF = none ∧ (∀ n ∈ panelsOf f.panels, (s.panel n).owner = none ∧ s.offers n = true)
    ∧ req.zeros = 0 ∧ formOk f = true ∧ s.part? f.peer = none ∧ s.ringOk (formPartition f) = true :=
  ⟨{ agate := { verified := true }, panels := [(0, { service := .full })], mem := tables 0x42 }, { id := 0 }, form0, rfl, rfl, rfl, (by decide), rfl,
    (by decide +kernel), rfl, (by decide +kernel)⟩
theorem witness_partitionCommands_2 :
    ∃ (s : State) (peer : Nat) (req : HostReq) (p : Partition), takesRequest s peer req p ∧ p.launches = [] :=
  ⟨hosted part [], 0, _, part, hosted_takes rfl rfl rfl rfl, rfl⟩
theorem witness_partitionCommands_3 :
    ∃ (s : State) (peer : Nat) (req : HostReq) (p : Partition), takesRequest s peer req p ∧ ∃ mask, p.launches = [] ∧ mask < 256 ∧ mask &&& p.panels.toNat
    ≠ 0 ∧ (∀ n ∈ panelsOf mask, p.panels.getLsbD n = true ∨ ((s.panel n).owner = none ∧ s.offers n = true)) ∧ s.ringOk { p with panels := BitVec.ofNat 8 mask }
    = true :=
  ⟨hosted part (tables 0x42), 0, _, part, hosted_takes rfl rfl rfl rfl, 1, rfl, by decide, (by decide), (by decide), (by decide +kernel)⟩
theorem witness_partitionCommands_4 :
    ∃ (s : State) (peer : Nat) (req : HostReq) (p : Partition), takesRequest s peer req p :=
  ⟨hosted part [], 0, _, part, hosted_takes rfl rfl rfl rfl⟩
theorem witness_partitionCommands_5 :
    ∃ (s : State) (peer : Nat) (req : HostReq) (p : Partition), takesRequest s peer req p :=
  ⟨hosted part [], 0, _, part, hosted_takes rfl rfl rfl rfl⟩
theorem witness_partitionCommands_7 :
    ∃ (s : State) (peer : Nat) (req : HostReq) (p : Partition), takesRequest s peer req p ∧ let u := s.receive peer req.endpoint;
    ∃ (level expect parent i : Nat), 2 ≤ level ∧ expect < 2 ^ 32 ∧ (level = 4 ∧ parent = 0xFFFF ∨ (level < 4 ∧ parent ∈ p.counters ∧ (s.counter p parent).level = level + 1 ∧ (s.counter p parent).state = 0))
    ∧ u.freeCounter p = some i :=
  ⟨hosted stepPart [], 0, _, stepPart, hosted_takes rfl rfl rfl rfl, 4, 2 ^ 32 - 1, 0xFFFF, 1, by decide, (by decide), (.inl ⟨rfl, rfl⟩), (by decide +kernel)⟩
theorem witness_launchAndFabricCommands_1 :
    ∃ (s : State) (peer : Nat) (req : HostReq) (p : Partition), takesRequest s peer req p ∧ ∃ (launch : Nat) (l : Launch), p.launches.find? (fun x => x.counter == launch)
    = some l ∧ l.parked = false ∧ l.preempting = false :=
  ⟨hosted ({ part with launches := [launch0] }) [], 0, _, { part with launches := [launch0] }, hosted_takes rfl rfl rfl rfl, 0, launch0, rfl, rfl, rfl⟩
theorem witness_launchAndFabricCommands_2 :
    ∃ (s : State) (peer : Nat) (req : HostReq) (p : Partition), takesRequest s peer req p ∧ ∃ (launch : Nat) (l : Launch), p.launches.find? (fun x => x.counter == launch)
    = some l ∧ l.parked = true :=
  ⟨hosted ({ part with launches := [{ launch0 with parked := true }] }) [], 0, _, { part with launches := [{ launch0 with parked := true }] },
    hosted_takes rfl rfl rfl rfl, 0, { launch0 with parked := true }, rfl, rfl⟩
theorem witness_launchAndFabricCommands_3 :
    ∃ (s : State) (peer : Nat) (req : HostReq) (p : Partition), takesRequest s peer req p ∧ ∃ phase, (p.drain = none ∨ p.drained = true) ∧ phase < 2 ^ 32 :=
  ⟨hosted part [], 0, _, part, hosted_takes rfl rfl rfl rfl, 2 ^ 32 - 1, .inl rfl, by decide⟩
theorem witness_launchAndFabricCommands_5 :
    ∃ (s : State) (peer : Nat) (req : HostReq) (p : Partition), takesRequest s peer req p :=
  ⟨hosted part [], 0, _, part, hosted_takes rfl rfl rfl rfl⟩
theorem witness_launchAndFabricCommands_6 :
    ∃ (s : State) (peer : Nat) (req : HostReq) (p : Partition), takesRequest s peer req p :=
  ⟨hosted part [], 0, _, part, hosted_takes rfl rfl rfl rfl⟩
theorem witness_launchAndFabricCommands_7 :
    ∃ (s : State) (peer : Nat) (req : HostReq) (p : Partition), takesRequest s peer req p ∧ ∃ budget, 250 * p.owned.length ≤ budget ∧ budget ≤ 750 *
    p.owned.length :=
  ⟨hosted part [], 0, _, part, hosted_takes rfl rfl rfl rfl, 750, (by decide), (by decide)⟩
theorem witness_launchAndFabricCommands_8 :
    ∃ (s : State) (peer : Nat) (req : HostReq) (p : Partition), takesRequest s peer req p ∧ p.launches = [] :=
  ⟨hosted part [], 0, _, part, hosted_takes rfl rfl rfl rfl, rfl⟩
theorem witness_bringUpAndDuty_1 :
    ∃ (s : State) (n : Nat), let q := s.panel n;
    n < 8 ∧ q.service = .training ∧ q.faulted = false :=
  ⟨{ panels := [(0, { service := .training })] }, 0, by decide, rfl, rfl⟩
theorem witness_bringUpAndDuty_2 :
    ∃ (s : State) (n : Nat), let q := s.panel n;
    n < 8 ∧ q.service = .training ∧ q.faulted = false ∧ q.tries < 2 :=
  ⟨{ panels := [(0, { service := .training, tries := 1 })] }, 0, by decide, rfl, rfl, by decide⟩
theorem witness_bringUpAndDuty_3 :
    ∃ (s : State) (n : Nat), let q := s.panel n;
    n < 8 ∧ q.service = .early ∧ q.calibrated = false ∧ q.faulted = false :=
  ⟨{ panels := [(0, { service := .early })] }, 0, by decide, rfl, rfl, rfl⟩
theorem witness_bringUpAndDuty_4 :
    ∃ (s : State) (n : Nat), let q := s.panel n;
    n < 8 ∧ q.service = .early ∧ q.calibrated = false ∧ q.faulted = false ∧ q.tries < 2 :=
  ⟨{ panels := [(0, { service := .early, tries := 1 })] }, 0, by decide, rfl, rfl, rfl, by decide⟩
theorem witness_bringUpAndDuty_5 :
    ∃ (s : State) (loom : Nat), let q := s.panel (loom / 40);
    loom < 320 ∧ q.service = .early ∧ q.calibrated = true ∧ loom ∉ q.moved ∧ (s.ctxAt loom true).act = .idle ∧ (∀ peer p, q.owner = some peer → s.part? peer = some p → ∀ k ∈ p.picks, k.started = false ∨ loom ∉ k.looms) :=
  ⟨{ panels := [(0, { service := .early, calibrated := true })] }, 39, by decide, rfl, rfl, (by decide), rfl, (by intro peer p hp; cases hp)⟩
theorem witness_bringUpAndDuty_6 :
    ∃ (s : State) (peer watts : Nat) (p : Partition), s.part? peer = some p ∧ p.powerMode = 1 ∧ p.budget < watts ∧ 1 < p.duty :=
  ⟨{ parts := [(0, { part with powerMode := 1, budget := 500, duty := 2 })] }, 0, 501, { part with powerMode := 1, budget := 500, duty := 2 }, rfl, rfl,
    (by decide), (by decide)⟩
theorem witness_bringUpAndDuty_7 :
    ∃ (s : State) (peer watts : Nat) (p : Partition), s.part? peer = some p ∧ p.powerMode = 1 ∧ p.budget < watts ∧ p.duty ≤ 1 ∧ 1 < p.capSince :=
  ⟨{ parts := [(0, { part with powerMode := 1, budget := 500, duty := 1, capSince := 2 })] }, 0, 501, { part with powerMode := 1, budget := 500, duty := 1, capSince := 2 },
    rfl, rfl, (by decide), by decide, (by decide)⟩
theorem witness_bringUpAndDuty_8 :
    ∃ (s : State) (peer watts : Nat) (p : Partition), s.part? peer = some p ∧ p.powerMode = 1 ∧ p.budget < watts ∧ p.duty ≤ 1 ∧ p.capSince ≤ 1 :=
  ⟨{ parts := [(0, { part with powerMode := 1, budget := 500, duty := 1, capSince := 1 })] }, 0, 501, { part with powerMode := 1, budget := 500, duty := 1, capSince := 1 },
    rfl, rfl, (by decide), by decide, (by decide)⟩
theorem witness_bringUpAndDuty_9 :
    ∃ (s : State) (peer watts : Nat) (p : Partition), s.part? peer = some p ∧ p.powerMode = 1 ∧ watts < p.budget ∧ p.duty < 16 :=
  ⟨{ parts := [(0, { part with powerMode := 1, budget := 500, duty := 15 })] }, 0, 499, { part with powerMode := 1, budget := 500, duty := 15 }, rfl,
    rfl, (by decide), (by decide)⟩
theorem witness_bringUpAndDuty_10 :
    ∃ (s : State) (n hottest : Nat), n < 8 ∧ 115 ≤ hottest ∧ works s n :=
  ⟨{ panels := [(0, { service := .full })] }, 0, 115, by decide, by decide, ⟨by decide, rfl, by decide, by decide⟩⟩
theorem witness_bringUpAndDuty_11 :
    ∃ (s : State) (n hottest : Nat), n < 8 ∧ 105 ≤ hottest ∧ (hottest < 115 ∨ (s.panel n).faulted = true) :=
  ⟨{}, 7, 114, by decide, by decide, .inl (by decide)⟩
theorem witness_bringUpAndDuty_12 :
    ∃ (n hottest : Nat), n < 8 ∧ hottest ≤ 100 :=
  ⟨7, 100, by decide, by decide⟩
theorem witness_bringUpAndDuty_13 :
    ∃ (n hottest : Nat), n < 8 ∧ 100 < hottest ∧ hottest < 105 :=
  ⟨7, 104, by decide, by decide, by decide⟩
theorem witness_moduleFaults_1 :
    ∃ (s : State) (n reason : Nat), works s n ∧ 1 ≤ reason ∧ reason ≤ 4 :=
  ⟨{ panels := [(0, { service := .full })] }, 0, 4, ⟨by decide, rfl, by decide, by decide⟩, by decide, by decide⟩
theorem witness_moduleFaults_2 :
    ∃ (s : State) (n m : Nat), works s n ∧ n ≠ m ∧ m < 8 ∧ ((s.panel n).owner = none ∨ (s.panel n).owner ≠ (s.panel m).owner) :=
  ⟨{ panels := [(0, { service := .full })] }, 0, 7, ⟨by decide, rfl, by decide, by decide⟩, (by decide), by decide, .inl rfl⟩
theorem witness_moduleFaults_3 :
    ∃ (s : State) (n : Nat), (s.panel n).faulted = true ∧ (s.panel n).service ≠ .down ∧ ∃ (peer : Nat) (p : Partition), (s.panel n).owner = some peer ∧
    s.part? peer = some p ∧ p.resetReq = none :=
  ⟨{ parts := [(0, part)], panels := [(0, { owner := some 0, service := .full, faulted := true })] }, 0, rfl, (by decide), 0, part, rfl, rfl, rfl⟩
theorem witness_moduleFaults_4 :
    ∃ (s : State) (n : Nat), (s.panel n).faulted = true ∧ (s.panel n).service ≠ .down ∧ (s.panel n).owner = none :=
  ⟨{ panels := [(0, { service := .full, faulted := true })] }, 0, rfl, (by decide), rfl⟩
theorem witness_moduleFaults_5 :
    ∃ (s : State) (n m reason peer : Nat) (p : Partition), n < 8 ∧ m < 8 ∧ n ≠ m ∧ reason ≤ 1 ∧ (s.panel n).owner = some peer ∧ (s.panel m).owner = some
    peer ∧ s.part? peer = some p :=
  ⟨{ parts := [(0, part)], panels := [(0, { owner := some 0, service := .full }), (1, { owner := some 0 })] }, 0, 1, 1, 0, part, by decide, by decide,
    (by decide), by decide, rfl, rfl, rfl⟩
theorem witness_moduleFaults_6 :
    ∃ (s : State), s.agate.failed = false :=
  ⟨{}, rfl⟩
theorem witness_moduleFaults_7 :
    ∃ (s : State) (pa : Nat), offChip pa = true ∧ (s.line pa).damage = .none :=
  ⟨{}, 2 ^ 41 - 1, rfl, rfl⟩
theorem witness_moduleFaults_8 :
    ∃ (s : State) (pa : Nat), offChip pa = true ∧ ∃ d peer, d ≠ Damage.none ∧ (s.line pa).damage = d ∧ (s.line pa).poison = false ∧ s.ownerOf
    (panelOfChannel (channelOf pa)) = some peer :=
  ⟨{ withPart part with lineMeta := [(0, { damage := .data 1 })] }, 0, rfl, (.data 1), 0, (by decide), rfl, rfl, rfl⟩
theorem witness_moduleFaults_9 :
    ∃ (s : State) (channel count peer : Nat), channel < 528 ∧ 1 ≤ count ∧ s.ownerOf (panelOfChannel channel) = some peer ∧ let old := if Config.newSecond s.freeIdx then 0 else SMap.getD s.corrections channel 0;
    old < 1024 ∧ 1024 ≤ old + count :=
  ⟨withPart part, 63, 1024, 0, by decide, by decide, rfl, (by split <;> decide), (by split <;> decide)⟩
theorem witness_moduleFaults_10 :
    ∃ (s : State) (channel count peer : Nat), channel < 528 ∧ 1 ≤ count ∧ s.ownerOf (panelOfChannel channel) = some peer ∧ let old := if Config.newSecond s.freeIdx then 0 else SMap.getD s.corrections channel 0;
    (1024 ≤ old ∨ old + count < 1024) :=
  ⟨withPart part, 63, 1023, 0, by decide, by decide, rfl, .inr (by split <;> decide)⟩
theorem witness_memoryCanonicalKept_1 :
    ∃ (s t : State), s.mem.wf = true ∧ step s = .next t :=
  ⟨{ agenda := [.event (.thermalStep 0 104)] }, _, rfl, rfl⟩
theorem witness_stepsAnswer_1 :
    ∃ (s : State), (∀ n, step s ≠ .fault (.noSuchLoom n)) :=
  ⟨{ agenda := [.event (.thermalStep 0 104)] }, (fun _ h => nomatch (rfl : step _ = .next _).symm.trans h)⟩
theorem witness_decodeOfEncode_1 :
    ∃ (i : Instr) (e : Words), i.WellFormed = true ∧ encode i = some e :=
  ⟨.add ⟨false, false⟩ 63 1 2, _, (by decide), rfl⟩
theorem witness_decodeOfEncode_2 :
    ∃ (sp : Space) (w : W32) (ws : List W32) (i : Instr), decodeInstr sp w ws = .ok i :=
  ⟨.A, wordA ⟨false, false⟩ 0x0A 5 0, [1, 2], _, rfl⟩
theorem witness_stepRunsDecoded_1 :
    ∃ (s u t : State) (e : Sel) (rest : List Move) (ws : List W32) (l : Line) (o : LaneOp) (r : List LaneOp), movesEngine s e rest ∧ e.loom < 320 ∧
    lineThere s e u ws ∧ decodeLine ws = .ok l ∧ l.opsFor e.eng = o :: r ∧ (∀ x ∈ o :: r, ((s.ctxAt e.loom e.ev).eng e.eng).lane ≤ x.lane) ∧ mayStart
    s u e l ∧ exec o.instr { atOp u e l o with disp := .idle } = .next t ∧ ∃ w, t.disp = .waits w :=
  ⟨atInstr (.add ⟨true, false⟩ 1 2 3), _, _, ⟨0, false, .A⟩, [], _, _, _, _, .inr ⟨rfl, rfl, rfl⟩, (by decide), .inl ⟨rfl, rfl⟩, rfl, rfl, (by decide),
    ⟨.inr (by decide), rfl, rfl, rfl, rfl, rfl, rfl, rfl, rfl, rfl, .inl rfl, rfl, .inr (.inl (by decide))⟩, rfl, _, rfl⟩
theorem witness_stepRunsDecoded_2 :
    ∃ (s u t : State) (e : Sel) (rest : List Move) (ws : List W32) (l : Line) (o : LaneOp) (r : List LaneOp), movesEngine s e rest ∧ e.loom < 320 ∧
    lineThere s e u ws ∧ decodeLine ws = .ok l ∧ l.opsFor e.eng = o :: r ∧ (∀ x ∈ o :: r, ((s.ctxAt e.loom e.ev).eng e.eng).lane ≤ x.lane) ∧ mayStart
    s u e l ∧ exec o.instr { atOp u e l o with disp := .idle } = .next t ∧ ∃ f, t.disp = .faults f :=
  ⟨atInstr (.trap ⟨false, false⟩ 3), _, _, ⟨0, false, .A⟩, [], _, _, _, _, .inr ⟨rfl, rfl, rfl⟩, (by decide), .inl ⟨rfl, rfl⟩, rfl, rfl, (by decide),
    ⟨.inr (by decide), rfl, rfl, rfl, rfl, rfl, rfl, rfl, rfl, rfl, .inl rfl, rfl, .inr (.inl (by decide))⟩, rfl, _, rfl⟩
theorem witness_stepRunsDecoded_3 :
    ∃ (s u t : State) (e : Sel) (rest : List Move) (ws : List W32) (l : Line) (o : LaneOp) (r : List LaneOp), movesEngine s e rest ∧ e.loom < 320 ∧
    lineThere s e u ws ∧ decodeLine ws = .ok l ∧ l.opsFor e.eng = o :: r ∧ (∀ x ∈ o :: r, ((s.ctxAt e.loom e.ev).eng e.eng).lane ≤ x.lane) ∧ mayStart
    s u e l ∧ exec o.instr { atOp u e l o with disp := .idle } = .next t ∧ t.disp = .issued ∧ (t.ctxAt e.loom e.ev).act = .running ∧ ((t.ctxAt e.loom e.ev).eng e.eng).inLine
    = true ∧ ((t.ctxAt e.loom e.ev).eng e.eng).ended = false :=
  ⟨atInstr (.add ⟨false, false⟩ 1 2 3), _, _, ⟨0, false, .A⟩, [], _, _, _, _, .inr ⟨rfl, rfl, rfl⟩, (by decide), .inl ⟨rfl, rfl⟩, rfl, rfl, (by decide),
    ⟨.inr (by decide), rfl, rfl, rfl, rfl, rfl, rfl, rfl, rfl, rfl, .inl rfl, rfl, .inr (.inl (by decide))⟩, rfl, rfl, rfl, rfl, rfl⟩
theorem witness_stepRunsDecoded_4 :
    ∃ (s t : State) (i : Instr) (rest : List Move), s.agenda = .event i :: rest ∧ encode i = none ∧ exec i s = .next t :=
  ⟨{ agenda := [.event (.thermalStep 0 104)] }, _, _, _, rfl, rfl, rfl⟩
theorem witness_jointWords_1 :
    ∃ (i : Instr) (e : Words), encode i = some e ∧ e.space = .J :=
  ⟨.safept 0 0 0 0 0, _, rfl, rfl⟩
theorem witness_jointWords_2 :
    ∃ (w : W32), (w.getLsbD 31 = true ∨ w.getLsbD 30 = true ∨ (w.extractLsb' 24 6).toNat ∉ jointMajors) :=
  ⟨0x80000000, .inl (by decide)⟩
theorem witness_immediatesAndSelection_1 :
    ∃ (imm : BitVec 18), imm ≠ 0 :=
  ⟨1, (by decide)⟩
theorem witness_immediatesAndSelection_2 :
    ∃ (s : State) (c : Ctx) (t : Tok), s.ctx.tokens .A t = .ok c ∧ c.inFlight.length < 32 :=
  ⟨{}, {}, ⟨false, false⟩, rfl, by decide⟩
theorem witness_immediatesAndSelection_3 :
    ∃ (s : State) (c : Ctx) (t : Tok) (x y ac : BitVec 6), s.ctx.tokens .A t = .ok c ∧ readyA c x ∧ readyA c y ∧ readyA c ac ∧ c.inFlight.length < 32 :=
  ⟨{}, {}, ⟨false, false⟩, 0, 0, 0, rfl, readyA_of rfl, readyA_of rfl, readyA_of rfl, by decide⟩
theorem witness_immediatesAndSelection_4 :
    ∃ (s : State) (c : Ctx) (t : Tok) (x y : BitVec 6), s.ctx.tokens .A t = .ok c ∧ readyA c x ∧ readyA c y ∧ c.inFlight.length < 32 :=
  ⟨{}, {}, ⟨false, false⟩, 0, 0, rfl, readyA_of rfl, readyA_of rfl, by decide⟩
theorem witness_outcomeBranch_1 :
    ∃ (s : State) (c : Ctx) (t : Tok), s.ctx.tokens .X t = .ok c ∧ c.bq = [] :=
  ⟨{}, {}, ⟨false, false⟩, rfl, rfl⟩
theorem witness_outcomeBranch_2 :
    ∃ (s : State) (c : Ctx) (t : Tok), s.ctx.tokens .X t = .ok c ∧ ∃ b r, c.bq = .outcome b :: r :=
  ⟨withCtx { bq := [.outcome true] }, { bq := [.outcome true] }, ⟨false, false⟩, rfl, _, _, rfl⟩
theorem witness_outcomeBranch_3 :
    ∃ (s : State) (c : Ctx) (t : Tok), s.ctx.tokens .X t = .ok c ∧ ∃ x r, c.bq = x :: r ∧ (∀ b, x ≠ .outcome b) :=
  ⟨withCtx { bq := [.count 1] }, { bq := [.count 1] }, ⟨false, false⟩, rfl, _, _, rfl, (by intro b h; cases h)⟩
theorem witness_misalignedWords_1 :
    ∃ (s : State) (c : Ctx) (i : Instr) (t : Tok) (srcs : List (BitVec 6)) (a : W64) (cause : Nat), wordForm c i = some (t, srcs, a, cause) ∧ s.ctx.tokens
    .A t = .ok c ∧ (∀ r ∈ srcs, readyA c r) ∧ a.toNat % 8 ≠ 0 :=
  ⟨withCtx { a := (Vector.replicate 64 0).set 1 0x1000000000000007 }, { a := (Vector.replicate 64 0).set 1 0x1000000000000007 }, .lda ⟨false, false⟩ 1 1
    0 0, _, _, _, _, rfl, rfl, fun _ _ => readyA_of rfl, (by decide)⟩
theorem witness_accessesIssue_1 :
    ∃ (s : State) (c : Ctx) (i : Instr) (f : MemForm), memForm s c i = some f ∧ s.ctx.tokens .A f.tok = .ok c ∧ (∀ r ∈ f.srcs, readyA c r) ∧
    fenceFree f.ctx f.acc.stream ∧ counterFree f.ctx f.ctr ∧ channelFree f.ctx f.acc.spans ∧ dataRoom f.ctx f.acc.dest :=
  ⟨withCtx copyRegs, copyRegs, .lda ⟨false, false⟩ 4 1 0 127, _, rfl, rfl, fun _ _ => readyA_of rfl, fenceFree_of rfl,
    counterFree_of rfl, channelFree_of rfl, ⟨by decide, by decide⟩⟩
theorem witness_accessesIssue_2 :
    ∃ (s : State) (c : Ctx) (i : Instr) (f : MemForm), atomicForm s c i = some f ∧ s.ctx.tokens .A f.tok = .ok c ∧ (∀ r ∈ f.srcs, readyA c r) ∧
    fenceFree f.ctx f.acc.stream ∧ counterFree f.ctx f.ctr ∧ channelFree f.ctx f.acc.spans ∧ dataRoom f.ctx f.acc.dest :=
  ⟨withCtx copyRegs, copyRegs, .cas ⟨false, false⟩ 4 2 0 3 0, _, rfl, rfl, fun _ _ => readyA_of rfl, fenceFree_of rfl, counterFree_of rfl,
    channelFree_of rfl, ⟨by decide, by decide⟩⟩
theorem witness_accessesIssue_3 :
    ∃ (s : State) (c : Ctx) (i : Instr) (f : MemForm), objectForm s c i = some f ∧ s.ctx.tokens .A f.tok = .ok c ∧ (∀ r ∈ f.srcs, readyA c r) ∧
    fenceFree f.ctx f.acc.stream ∧ counterFree f.ctx f.ctr ∧ channelFree f.ctx f.acc.spans ∧ dataRoom f.ctx f.acc.dest :=
  ⟨withCtx copyRegs, copyRegs, .barArrive ⟨false, false⟩ 4 2 0 0, _, rfl, rfl, fun _ _ => readyA_of rfl, fenceFree_of rfl, counterFree_of rfl,
    channelFree_of rfl, ⟨by decide, by decide⟩⟩

/-- A partition whose ports have drained. -/
def drainedPart : Partition := { mapped with drained := true }
/-! A plane of zeros but for its CRC and SIZE, and a fabric table of one member and no channel: their first bytes and zeros. -/

/-- The first bytes of the plane, with a CRC. -/
def crcHead (c : Nat) : List Byte := leBytes 4 0 ++ leBytes 4 c ++ leBytes 4 0x7100
/-- The first bytes of the table. -/
def fabricHead : List Byte := leBytes 4 0 ++ leBytes 4 1 ++ leBytes 2 1 ++ leBytes 2 1 ++ leBytes 2 1 ++ leBytes 2 1
/-- A plane with a CRC. -/
def zeroPlane (k c : Nat) : List Byte := crcHead c ++ List.replicate k 0
/-- Tables that map the first GiB of virtual addresses to the first GiB of HBM. -/
def planeTables : Memory := [(0, 0x01), (1, 0x10), (0x1000, 0x03)]
/-- Memory that has bytes at 0x40000 beside these tables. -/
def memWith (hd : List Byte) : Memory := planeTables ++ hd.zipIdx.map (fun x => (0x40000 + x.2, x.1))

theorem leNat_zeros (n : Nat) : leNat (List.replicate n (0#8)) = 0 := by
  induction n with
  | zero => rfl
  | succ n ih => rw [List.replicate_succ, leNat, ih]; rfl

theorem zeros_drop (hd : List Byte) (k off : Nat) (h : hd.length ≤ off) :
    (hd ++ List.replicate k 0#8).drop off = List.replicate (k - (off - hd.length)) 0#8 := by
  rw [List.drop_append, List.drop_eq_nil_of_le h, List.nil_append, List.drop_replicate]

theorem planeLE_zeros (hd : List Byte) (k off n : Nat) (h : hd.length ≤ off) : planeLE (hd ++ List.replicate k 0#8) off n = 0 := by
  rw [planeLE, zeros_drop hd k off h, List.take_replicate, leNat_zeros]

theorem zeroBytes_zeros (hd : List Byte) (k off n : Nat) (h : hd.length ≤ off) : zeroBytes (hd ++ List.replicate k 0#8) off n = true := by
  rw [zeroBytes, zeros_drop hd k off h, List.take_replicate]
  simp

theorem planeLE_zero (k c off n : Nat) (h : 12 ≤ off) : planeLE (zeroPlane k c) off n = 0 := planeLE_zeros (crcHead c) k off n h

theorem zeroBytes_zero (k c off n : Nat) (h : 12 ≤ off) : zeroBytes (zeroPlane k c) off n = true := zeroBytes_zeros (crcHead c) k off n h

theorem zeroPlane_ok (c : Nat) : planeOk (zeroPlane 0x70F4 c) = true := by
  generalize hk : 0x70F4 = k
  have hl : (zeroPlane k c).length = 0x7100 := by simp [zeroPlane, show (crcHead c).length = 12 from rfl, ← hk, -List.reduceReplicate]
  have hs : planeLE (zeroPlane k c) 8 4 = 0x7100 := rfl
  have hr : ∀ panel stage i, (planeRow (zeroPlane k c) panel stage i).ok (zeroPlane k c) panel stage = true := by
    intro panel stage i
    rw [planeRow, planeLE_zero _ c _ _ (by simp [stageBlock]; omega)]
    simp [Row.ok, Row.ofNat]
  have hz (panel stage j n : Nat) : zeroBytes (zeroPlane k c) (stageBlock panel stage + j) n = true :=
    zeroBytes_zero k c _ _ (by simp [stageBlock]; omega)
  have hp (panel stage j n : Nat) : planeLE (zeroPlane k c) (stageBlock panel stage + j) n = 0 :=
    planeLE_zero k c _ _ (by simp [stageBlock]; omega)
  have hb : ∀ panel stage, blockOk (zeroPlane k c) panel stage = true := by
    intro panel stage
    simp [blockOk, Nat.add_assoc, hr, hz, hp]
  have hi (i j n : Nat) : zeroBytes (zeroPlane k c) (256 + 32 * i + j) n = true := zeroBytes_zero k c _ _ (by omega)
  have hj (i j n : Nat) : planeLE (zeroPlane k c) (256 + 32 * i + j) n = 0 := planeLE_zero k c _ _ (by omega)
  simp [planeOk, hl, hs, zeroBytes_zero, hb, hi, hj]

theorem crcBit_lt (x : Nat) (h : x < 2 ^ 32) : crcBit x < 2 ^ 32 := by
  unfold crcBit
  split
  · exact Nat.xor_lt_two_pow (by omega) (by omega)
  · omega

theorem crcRun_lt (bs : List Byte) (x : Nat) (h : x < 2 ^ 32) : crcRun x bs < 2 ^ 32 := by
  induction bs generalizing x with
  | nil => exact h
  | cons b r ih =>
    exact ih _ (by
      unfold crcByte
      iterate 8 apply crcBit_lt
      exact Nat.xor_lt_two_pow h (by omega))

theorem crc32c_lt (bs : List Byte) : crc32c bs < 2 ^ 32 := Nat.xor_lt_two_pow (crcRun_lt bs _ (by decide)) (by decide)

theorem zeroPlane_crc (k c : Nat) : planeCrc (zeroPlane k c) = crc32c (zeroPlane k 0) := by
  rw [planeCrc, putBytes]
  have : 4 + [0#8, 0#8, 0#8, 0#8].length - (zeroPlane k c).length = 0 := by simp [zeroPlane, show (crcHead c).length = 12 from rfl]; omega
  simp only [BitVec.ofNat_eq_ofNat, this, List.replicate_zero, List.append_nil]
  rfl

theorem planeLE_crc (k c : Nat) (h : c < 2 ^ 32) : planeLE (zeroPlane k c) 4 4 = c := by
  show leNat (leBytes 4 c) = c
  rw [Laws.leNat_leBytes]; omega

theorem readN_above (m : Memory) (n a : Nat) (h : ∀ b, a ≤ b → m.read b = 0#8) : m.readN a n = List.replicate n 0#8 := by
  induction n generalizing a with
  | zero => rfl
  | succ n ih => rw [Memory.readN, h a (Nat.le_refl a), ih (a + 1) (fun b hb => h b (by omega)), List.replicate_succ]

theorem readN_add (m : Memory) (k n a : Nat) : m.readN a (k + n) = m.readN a k ++ m.readN (a + k) n := by
  induction k generalizing a with
  | zero => simp [Memory.readN]
  | succ k ih => rw [show k + 1 + n = (k + n) + 1 by omega, Memory.readN, ih, Memory.readN, List.cons_append]; congr 3; omega

theorem find_above {α : Type} (m : SMap α) (b : Nat) (h : ∀ c ∈ m, c.1 < b) : SMap.find? m b = none := by
  induction m with
  | nil => rfl
  | cons x r ih =>
    have hx := h x List.mem_cons_self
    simp only [SMap.find?]
    rw [if_neg (by omega), if_neg (by omega)]
    exact ih (fun c hc => h c (List.mem_cons_of_mem _ hc))

theorem find_append {α : Type} (m r : SMap α) (k : Nat) (h : ∀ c ∈ r, k < c.1) : SMap.find? (m ++ r) k = SMap.find? m k := by
  induction m with
  | nil =>
    cases r with
    | nil => rfl
    | cons x r => have := h x List.mem_cons_self; simp only [List.nil_append, SMap.find?]; rw [if_neg (by omega), if_pos this]
  | cons x m ih => simp only [List.cons_append, SMap.find?, ih]

theorem readN_append (m r : Memory) (n a : Nat) (h : ∀ c ∈ r, a + n ≤ c.1) : Memory.readN (m ++ r) a n = Memory.readN m a n := by
  induction n generalizing a with
  | zero => rfl
  | succ n ih =>
    rw [Memory.readN, Memory.readN, ih (a + 1) (fun c hc => by have := h c hc; omega), Memory.read, Memory.read, SMap.getD, SMap.getD,
      find_append m r a (fun c hc => by have := h c hc; omega)]

theorem memWith_keys (hd : List Byte) : ∀ x ∈ hd.zipIdx.map (fun x => ((0x40000 + x.2, x.1) : Nat × Byte)), 0x40000 ≤ x.1 ∧ x.1 < 0x40000 + hd.length := by
  intro x hx
  obtain ⟨⟨b, i⟩, hy, rfl⟩ := List.mem_map.mp hx
  have := (List.mem_zipIdx hy).2.1
  simp only at this ⊢
  omega

theorem memWith_above (hd : List Byte) (n : Nat) : (memWith hd).readN (0x40000 + hd.length) n = List.replicate n 0#8 := by
  refine readN_above _ _ _ (fun b hb => ?_)
  rw [Memory.read, SMap.getD, find_above]
  · rfl
  · intro x hx
    obtain h | h := List.mem_append.mp hx
    · have : ∀ x ∈ planeTables, x.1 < 0x40000 := by decide
      have := this x h
      omega
    · have := (memWith_keys hd x h).2
      omega

theorem memWith_read (hd : List Byte) (k : Nat) (h : (memWith hd).readN 0x40000 hd.length = hd) :
    (memWith hd).readN 0x40000 (hd.length + k) = hd ++ List.replicate k 0#8 := by
  rw [readN_add, memWith_above, h]

theorem memWith_level (hd : List Byte) (level table : Nat) (h : entryPa table level 0x40000 + 8 ≤ 0x40000) :
    ((hosted drainedPart (memWith hd)).receive 0 0).walkLevel drainedPart 0x40000 level table
      = ((hosted drainedPart planeTables).receive 0 0).walkLevel drainedPart 0x40000 level table := by
  have hr : Memory.readLE (memWith hd) (entryPa table level 0x40000) 8 = Memory.readLE planeTables (entryPa table level 0x40000) 8 := by
    rw [Memory.readLE, Memory.readLE]
    exact congrArg _ (readN_append planeTables _ 8 _ (fun x hx => by have := (memWith_keys hd x hx).1; omega))
  have h1 : ((hosted drainedPart (memWith hd)).receive 0 0).mem = memWith hd := rfl
  have h2 : ((hosted drainedPart planeTables).receive 0 0).mem = planeTables := rfl
  have h3 : ((hosted drainedPart (memWith hd)).receive 0 0).lineMeta = ((hosted drainedPart planeTables).receive 0 0).lineMeta := rfl
  have h4 : ((hosted drainedPart (memWith hd)).receive 0 0).retiredPages = ((hosted drainedPart planeTables).receive 0 0).retiredPages := rfl
  simp only [State.walkLevel, h1, h2, h3, h4, hr]

theorem memWith_at (hd : List Byte) (k : Nat) (hk : 0 < hd.length + k ∧ hd.length + k ≤ 65536)
    (h : (memWith hd).readN 0x40000 hd.length = hd) :
    ((hosted drainedPart (memWith hd)).receive 0 0).readVa drainedPart 0x40000 (hd.length + k) = some (hd ++ List.replicate k 0#8) := by
  have ht : ((hosted drainedPart (memWith hd)).receive 0 0).translateNow drainedPart 0x40000 = some (0x40000, 0) := by
    have h0 := (memWith_level hd 0 0 (by decide)).trans (show _ = WalkRes.next 0x1000 by decide +kernel)
    have h1 := (memWith_level hd 1 0x1000 (by decide)).trans (show _ = WalkRes.leaf (2 ^ 30) 0 0 by decide +kernel)
    simp only [State.translateNow, State.walkAll, show drainedPart.level0 = 0 from rfl, h0, h1]
    all_goals rfl
  have hm : ((hosted drainedPart (memWith hd)).receive 0 0).mem = memWith hd := rfl
  have hn : Nat.min (hd.length + k) (65536 - 0x40000 % 65536) = hd.length + k := Nat.min_eq_left hk.2
  simp only [State.readVa, State.readVaPages, ht, hm, hn]
  rw [if_neg (by omega), memWith_read hd k h]
  cases (hd.length + k) / 65536 <;> simp

theorem witness_partitionCommands_6 :
    ∃ (s : State) (peer : Nat) (req : HostReq) (p : Partition), takesRequest s peer req p ∧ let u := s.receive peer req.endpoint;
    ∃ (va : W64) (bs : List Byte), p.launches = [] ∧ u.readVa p va.toNat 0x7100 = some bs ∧ planeLE bs 4 4 = planeCrc bs ∧ planeOk bs = true :=
  ⟨hosted drainedPart (memWith (crcHead (crc32c (zeroPlane 0x70F4 0)))), 0, { id := 0 }, drainedPart, hosted_takes rfl rfl rfl rfl, 0x40000,
    zeroPlane 0x70F4 _, rfl, memWith_at (crcHead _) 0x70F4 ⟨by simp, by simp [show (crcHead _).length = 12 from rfl]⟩ rfl,
    (planeLE_crc _ _ (crc32c_lt _)).trans (zeroPlane_crc _ _).symm, zeroPlane_ok _⟩

theorem fabricBytes : ((hosted drainedPart (memWith fabricHead)).receive 0 0).readVa drainedPart 0x40000 0x1120
    = some (fabricHead ++ List.replicate 0x1110 0#8) := memWith_at fabricHead 0x1110 (by decide) (by decide +kernel)

theorem mapM_some {α β : Type} (f : α → β) (l : List α) : l.mapM (fun x => some (f x)) = some (l.map f) := List.mapM_pure

theorem parseFabric_zeros (k : Nat) (ports : List Nat) : (parseFabric (fabricHead ++ List.replicate k 0#8) 0 ports).isSome = true := by
  have hz (off n : Nat) (h : 16 ≤ off) : zeroBytes (fabricHead ++ List.replicate k 0#8) off n = true := zeroBytes_zeros fabricHead k off n h
  have hp (off n : Nat) (h : 16 ≤ off) : planeLE (fabricHead ++ List.replicate k 0#8) off n = 0 := planeLE_zeros fabricHead k off n h
  have h4 : planeLE (fabricHead ++ List.replicate k 0#8) 4 2 = 1 := rfl
  have h6 : planeLE (fabricHead ++ List.replicate k 0#8) 6 2 = 0 := rfl
  have h8 : planeLE (fabricHead ++ List.replicate k 0#8) 8 1 = 1 := rfl
  have h10 : planeLE (fabricHead ++ List.replicate k 0#8) 10 2 = 1 := rfl
  have h12 : planeLE (fabricHead ++ List.replicate k 0#8) 12 2 = 1 := rfl
  have h14 : planeLE (fabricHead ++ List.replicate k 0#8) 14 2 = 1 := rfl
  have h9 : zeroBytes (fabricHead ++ List.replicate k 0#8) 9 1 = true := rfl
  generalize hb : fabricHead ++ List.replicate k 0#8 = bs at *
  have hc (i : Nat) : parseChannel bs (0x100 + 32 * i) 1 = some {} := by simp [parseChannel, hz (0x100 + 32 * i) 32 (by omega)]
  have hd (i : Nat) : parseChannel bs (0x900 + 32 * i) 1 = some {} := by simp [parseChannel, hz (0x900 + 32 * i) 32 (by omega)]
  have hq : parsePort bs 1 = fun q => some (q, 0, 0) := by
    funext q
    simp [parsePort, hp (64 + 8 * q) _ (by omega), hp (64 + 8 * q + 2) _ (by omega), hz (64 + 8 * q + 1) _ (by omega),
      hz (64 + 8 * q + 4) _ (by omega)]
  have hm : parseMember bs = fun _ => some {  peer := 0, lat := 0, swbase := 0 } := by
    funext m
    have (j n : Nat) : planeLE bs (0x1100 + 32 * m + j) n = 0 := hp _ n (by omega)
    have hz' (j n : Nat) : zeroBytes bs (0x1100 + 32 * m + j) n = true := hz _ n (by omega)
    have h0 : planeLE bs (0x1100 + 32 * m) 2 = 0 := hp _ _ (by omega)
    simp [parseMember, this, hz', h0, Nat.blt]
  simp only [parseFabric, h4, h6, h8, h9, h10, h12, h14, hz 16 48 (by decide), hz 192 64 (by decide), hc, hd, hq, hm, mapM_some]
  rfl

theorem witness_launchAndFabricCommands_4 :
    ∃ (s : State) (peer : Nat) (req : HostReq) (p : Partition), takesRequest s peer req p ∧ let u := s.receive peer req.endpoint;
    ∃ (va : W64) (t : Fabric), p.drained = true ∧ u.fabricAt peer p va.toNat = some t := by
  refine ⟨hosted drainedPart (memWith fabricHead), 0, { id := 0 }, drainedPart, hosted_takes rfl rfl rfl rfl, 0x40000, ?_⟩
  have hg : ((hosted drainedPart (memWith fabricHead)).receive 0 0).readVa drainedPart (0x40000 + 4) 2 = some [1, 0] := by decide +kernel
  have hf : ((hosted drainedPart (memWith fabricHead)).receive 0 0).fabricAt 0 drainedPart 0x40000
      = parseFabric (fabricHead ++ List.replicate 0x1110 0#8) 0 (drainedPart.owned.flatMap (fun n => [2 * n, 2 * n + 1])) := by
    simp only [State.fabricAt, hg]
    rw [if_neg (by decide), show 0x1100 + 32 * leNat [1, 0] = 0x1120 from rfl, fabricBytes, Option.bind_some]
  exact ⟨_, rfl, hf.trans (some_of (parseFabric_zeros _ _))⟩

theorem witness_registersReadAndWritten_1 : ∃ (r q : BitVec 6), q ≠ r := ⟨0, 1, by decide⟩

theorem witness_registersReadAndWritten_2 : ∃ (r q : BitVec 5), q ≠ r := ⟨0, 1, by decide⟩

theorem witness_registersReadAndWritten_3 : ∃ (r q : BitVec 3), q ≠ r := ⟨0, 1, by decide⟩

theorem witness_registersReadAndWritten_4 : ∃ (r q : BitVec 5), q ≠ r := ⟨0, 1, by decide⟩

end Sys2Proof.Tests
end

section
/-!
PROOFS. The sequencer's own events (O34): what the landing of results and the leaving of counters do to a context, when the
events of the sequencer are enabled, and the statement assembled from them.
-/

namespace Sys2Proof.Proofs.Sequencer

open Sys2Proof.Machine Sys2Proof.Claims Sys2Proof.Laws

/-! ## Landing leaves the results in flight and the engines as they are -/

@[simp] theorem write_inFlight (c : Ctx) (d : Dest) (v : VReg) (failed : Bool) : (c.write d v failed).inFlight = c.inFlight := by
  cases d <;> simp only [Ctx.write] <;> split <;> rfl

@[simp] theorem write_ea (c : Ctx) (d : Dest) (v : VReg) (failed : Bool) : (c.write d v failed).ea = c.ea := by
  cases d <;> simp only [Ctx.write] <;> split <;> rfl

@[simp] theorem write_ex (c : Ctx) (d : Dest) (v : VReg) (failed : Bool) : (c.write d v failed).ex = c.ex := by
  cases d <;> simp only [Ctx.write] <;> split <;> rfl

@[simp] theorem pushTok_inFlight (c : Ctx) (e : Eng) : (c.pushTok e).inFlight = c.inFlight := by cases e <;> rfl

@[simp] theorem pushTok_ea (c : Ctx) (e : Eng) : (c.pushTok e).ea = c.ea := by cases e <;> rfl

@[simp] theorem pushTok_ex (c : Ctx) (e : Eng) : (c.pushTok e).ex = c.ex := by cases e <;> rfl

@[simp] theorem landOne_inFlight (c : Ctx) (r : Result) : (c.landOne r).inFlight = c.inFlight := by
  unfold Ctx.landOne
  split <;> simp

@[simp] theorem landOne_ea (c : Ctx) (r : Result) : (c.landOne r).ea = c.ea := by
  unfold Ctx.landOne
  split <;> simp

@[simp] theorem landOne_ex (c : Ctx) (r : Result) : (c.landOne r).ex = c.ex := by
  unfold Ctx.landOne
  split <;> simp

/-- What the landing of one result leaves as it is, the landing of several does too. -/
theorem foldl_landOne_keeps {α : Type} (f : Ctx → α) (hf : ∀ c r, f (c.landOne r) = f c) (rs : List Result) (c : Ctx) :
    f (rs.foldl Ctx.landOne c) = f c := by
  induction rs generalizing c with
  | nil => rfl
  | cons r rs ih => exact (ih _).trans (hf c r)

/-! ## The results that land first (R9, R36) -/

/-- The fold of `Ctx.landFirst` finds the least due cycle. -/
theorem foldl_min_due {rs : List Result} {n : Nat} (hn : ∃ r ∈ rs, r.due = n) (hle : ∀ r ∈ rs, n ≤ r.due) :
    rs.foldl (fun k r => Nat.min k r.due) ((rs.head?.map (·.due)).getD 0) = n := by
  have hmin : (rs.map (·.due)).min? = some n := by simpa [List.min?_eq_some_iff] using And.intro hn hle
  cases rs with
  | nil => simp at hmin
  | cons r rs =>
    rw [List.map_cons, List.min?_cons', List.foldl_map, Option.some_inj] at hmin
    exact (congrArg (fun m => rs.foldl _ m) (Nat.min_self r.due)).trans hmin

theorem landFirst_ea (c : Ctx) (e : Eng) : (c.landFirst e).ea = c.ea := foldl_landOne_keeps (·.ea) landOne_ea _ _

theorem landFirst_ex (c : Ctx) (e : Eng) : (c.landFirst e).ex = c.ex := foldl_landOne_keeps (·.ex) landOne_ex _ _

/-- Exactly the engine's results that are due first leave those in flight. -/
theorem mem_landFirst_inFlight {c : Ctx} {e : Eng} {n : Nat}
    (hn : ∃ r ∈ c.inFlight, (r.eng = e ∧ r.awaiting = none) ∧ r.due = n)
    (hle : ∀ r ∈ c.inFlight, r.eng = e ∧ r.awaiting = none → n ≤ r.due) (r : Result) :
    r ∈ (c.landFirst e).inFlight ↔ r ∈ c.inFlight ∧ ¬ ((r.eng = e ∧ r.awaiting = none) ∧ r.due = n) := by
  have hfirst := foldl_min_due (rs := c.inFlight.filter (fun r => r.eng == e && r.awaiting == none)) (n := n)
    (by simpa [and_assoc] using hn) (by simpa using hle)
  unfold Ctx.landFirst
  rw [foldl_landOne_keeps (·.inFlight) landOne_inFlight, hfirst]
  simp only [List.mem_filter, Bool.not_eq_true', ← Bool.not_eq_true, Bool.and_eq_true, beq_iff_eq]

/-- In scoreboard mode the results that a waiting engine is to take first land. -/
theorem resultLand_eq {s : State} {loom : Nat} {ev : Bool} {e : Eng} (hact : (s.ctxAt loom ev).act = .running)
    (hmode : ((s.ctxAt loom ev).eng e).mode = false) (hwait : ((s.ctxAt loom ev).eng e).waiting ≠ none)
    (hr : ∃ r ∈ (s.ctxAt loom ev).inFlight, r.eng = e ∧ r.awaiting = none) :
    s.resultLand loom ev e = some (s.setCtxAt loom ev ((s.ctxAt loom ev).landFirst e)) := by
  unfold State.resultLand
  exact if_pos ⟨hact, .inr ⟨by simp [hmode], Option.isSome_iff_ne_none.mpr hwait⟩, by simpa using hr⟩

/-! ## Declared completions (R170) -/

/-- The operations that stay in their counters: those that are not complete, and those whose declared cycle is still to come. -/
theorem mem_leaveDue_outs (c : Ctx) (o : Outstanding) :
    o ∈ c.leaveDue.outs ↔ o ∈ c.outs ∧ (o.completed = false ∨ ∃ d, o.due = some d ∧ c.detCyc < d) := by
  have hble (d : Nat) : Nat.ble d c.detCyc = false ↔ c.detCyc < d := by rw [Bool.eq_false_iff, ne_eq, Nat.ble_eq, Nat.not_le]
  cases hd : o.due <;> simp [Ctx.leaveDue, hd, hble, ← Bool.not_eq_true]

/-- A completed operation whose declared cycle has come enables the event. -/
theorem declaredCompletion_eq {s : State} {loom : Nat} {ev : Bool} {o : Outstanding} {due : Nat}
    (ho : o ∈ (s.ctxAt loom ev).outs) (hcomp : o.completed = true) (hdue : o.due = some due) (hle : due ≤ (s.ctxAt loom ev).detCyc) :
    s.declaredCompletion loom ev = some (s.setCtxAt loom ev (s.ctxAt loom ev).leaveDue) := by
  unfold State.declaredCompletion
  exact if_pos (List.any_eq_true.mpr ⟨o, ho, by simp [hcomp, hdue, hle]⟩)

/-! ## Lines without a SAFEPT, and standstill (R35, R44, R359) -/

/-- An engine at a line that is the 2,048th without a SAFEPT raises OVERRUN. -/
theorem safeptOverrun_eq {s : State} {loom : Nat} {ev : Bool} {e : Eng} {l : Line} (hat : atLine s loom ev e l)
    (hover : (s.ctxAt loom ev).overrun ev e l = true) :
    s.safeptOverrun loom ev e = some (s.raiseSequencer loom ev (overrunFault ((s.ctxAt loom ev).eng e))) := by
  obtain ⟨hact, hline, hended, hsafept, hheld, ws, hws, hl⟩ := hat
  simp [State.safeptOverrun, hws, hl, hact, hline, hended, hsafept, hheld, hover]

theorem overrun_iff (c : Ctx) (ev : Bool) (e : Eng) (l : Line) : c.overrun ev e l = true ↔
    (ev = false ∨ c.tframe ≠ 0) ∧ 2047 ≤ (c.eng e).lineCount ∧ l.exempt (c.tframe != 0) = false := by
  simp [Ctx.overrun, and_assoc]

/-- A progress fault that a running context has is raised by the sequencers. -/
theorem raiseIf_some {s : State} {loom : Nat} {ev : Bool} {f : Ctx → Option FaultInfo} {x : FaultInfo}
    (hact : (s.ctxAt loom ev).act = .running) (hf : f (s.ctxAt loom ev) = some x) :
    s.raiseIf loom ev f = some (s.raiseSequencer loom ev x) := by
  simp [State.raiseIf, hact, hf]

theorem queueWait_iff (b : Nat) : queueWait b = true ↔ b ∈ [1, 2, 4, 8] := by
  simp [queueWait, or_assoc]

/-- Two engines that both wait for a queue, bq or a token have a DEADLOCK. -/
theorem deadlock_of_queueWaits {c : Ctx} (ha : c.waitByte .A ∈ [1, 2, 4, 8]) (hx : c.waitByte .X ∈ [1, 2, 4, 8]) :
    c.deadlock = some { cls := 5, cause := 1, addr := c.ea.pc.toNat, d1 := c.waitByte .A + 256 * c.waitByte .X } := by
  unfold Ctx.deadlock
  exact if_pos (by simp [(queueWait_iff _).mpr ha, (queueWait_iff _).mpr hx])

/-- A slip window that holds the A-engine while the X-engine waits to be fed is a SLIP. -/
theorem slipStall_of_starved {c : Ctx} (ha : c.waitByte .A = 0x10) (hx : c.waitByte .X ∈ [1, 4, 8])
    (hroom : c.ex.waiting ≠ some .tokenRoom) :
    c.slipStall = some { cls := 7, cause := 3, addr := c.ea.pc.toNat, d1 := 0x10 + 256 * c.waitByte .X } := by
  have hfed : (c.waitByte .X == 1 || c.waitByte .X == 4 || c.waitByte .X == 8) = true := by
    simpa [or_assoc] using hx
  unfold Ctx.slipStall
  split
  · contradiction
  · simp [ha, hfed]

/-! ## The statement -/

/-- Settles O34: each event is enabled by its clause's conditions, and its effect is the one of the lemmas above. -/
theorem sequencerEvents : Obligations.SequencerEvents := by
  unfold Obligations.SequencerEvents
  refine ⟨?land, ?complete, ?overrun, ?deadlock, ?slip⟩
  case land =>
    intro s loom ev x n c mine hact hmode hwait hn hle
    have hland := resultLand_eq hact hmode hwait (hn.imp fun _ ⟨hr, hmine, _⟩ => ⟨hr, hmine⟩)
    refine ⟨_, event_some hland, ?_⟩
    rw [ctxAt_setCtxAt]
    exact ⟨mem_landFirst_inFlight hn hle, by rw [landFirst_ea], by rw [landFirst_ex]⟩
  case complete =>
    intro s loom ev o due c ho hcomp hdue hle
    refine ⟨_, event_some (declaredCompletion_eq ho hcomp hdue hle), ?_⟩
    rw [ctxAt_setCtxAt]
    exact mem_leaveDue_outs c
  case overrun =>
    intro s loom ev x l c g hat hctx hcount hexempt
    exact event_some (safeptOverrun_eq hat ((overrun_iff c ev _ l).mpr ⟨hctx, hcount, hexempt⟩))
  case deadlock =>
    intro s loom ev c hact ha hx
    exact event_some (raiseIf_some hact (deadlock_of_queueWaits ha hx))
  case slip =>
    intro s loom ev c hact ha hx hroom
    exact event_some (raiseIf_some hact (slipStall_of_starved ha hx hroom))

end Sys2Proof.Proofs.Sequencer
end

section
/-!
PROOFS. The requests of peers (O42): what memory and the sending of flits leave of the ports, how a port takes a flit and a request comes
in, what each kind of request makes of the state once it is complete, and the statement assembled from them.
-/

namespace Sys2Proof.Proofs.PeerRequests

open Sys2Proof.Machine Sys2Proof.Claims Sys2Proof.Laws

/-! ## Memory leaves the ports as they are -/

theorem ports_of_fst {α : Type} {s v : State} {r : State × α} {x : α} (hr : r.1.ports = s.ports) (h : r = (v, x)) :
    v.ports = s.ports := by
  rw [← hr, h]

theorem ite_fst_ports {α : Type} {s : State} {c : Prop} [Decidable c] {a b : State × α} (ha : a.1.ports = s.ports)
    (hb : b.1.ports = s.ports) : (if c then a else b).1.ports = s.ports := by
  split
  · exact ha
  · exact hb

@[simp] theorem fenceChannel_ports (s : State) (chan : Nat) : (s.fenceChannel chan).ports = s.ports := by
  unfold State.fenceChannel
  split <;> rfl

@[simp] theorem retire_ports (s : State) (pa : Nat) : (s.retire pa).ports = s.ports := by
  simp only [State.retire]
  generalize (if channelOf pa < 512 then 128 else 32) = room
  split
  · rfl
  · split
    · exact fenceChannel_ports ..
    · split
      · exact fenceChannel_ports ..
      · rfl

@[simp] theorem meetError_ports (s : State) (pa : Nat) : (s.meetError pa).ports = s.ports := by
  simp only [State.meetError, setLine_ports]
  split
  · exact retire_ports s pa
  · rfl

@[simp] theorem meetLine_ports (s : State) (pa va : Nat) (at' : BitVec 8) (whole : Bool) (reads : BitVec 4) :
    (s.meetLine pa va at' whole reads).1.ports = s.ports := by
  have herror (f : Option FaultInfo) : (s.meetError pa, f).1.ports = s.ports := meetError_ports s pa
  simp only [State.meetLine]
  exact ite_fst_ports rfl <| ite_fst_ports rfl <| ite_fst_ports rfl <| ite_fst_ports rfl <| ite_fst_ports rfl <|
    ite_fst_ports (herror _) <| ite_fst_ports (herror _) <| ite_fst_ports rfl <| ite_fst_ports rfl <| ite_fst_ports rfl rfl

@[simp] theorem readPieces_ports (s : State) (at' : BitVec 8) (ps : List Piece) : (s.readPieces at' ps).1.ports = s.ports := by
  induction ps generalizing s with
  | nil => rfl
  | cons p ps ih =>
    simp only [State.readPieces]
    split
    next u f h => exact ports_of_fst (meetLine_ports ..) h
    next u h => exact (ih u).trans (ports_of_fst (meetLine_ports ..) h)

@[simp] theorem readSpan_ports (s : State) (sp : Span) : (s.readSpan sp).1.ports = s.ports := readPieces_ports s _ _

@[simp] theorem readSpans_ports (s : State) (sps : List Span) : (s.readSpans sps).1.ports = s.ports := by
  induction sps generalizing s with
  | nil => rfl
  | cons sp sps ih =>
    simp only [State.readSpans]
    split
    next u bs f h => exact ports_of_fst (readSpan_ports s sp) h
    next u bs h => exact (ih u).trans (ports_of_fst (readSpan_ports s sp) h)

@[simp] theorem putPiece_ports (s : State) (at' : BitVec 8) (p : Piece) (bs : List Byte) : (s.putPiece at' p bs).ports = s.ports := rfl

@[simp] theorem writePieces_ports (s : State) (at' : BitVec 8) (data : List Byte) (ps : List Piece) :
    (s.writePieces at' data ps).1.ports = s.ports := by
  induction ps generalizing s with
  | nil => rfl
  | cons p ps ih =>
    simp only [State.writePieces]
    split
    · rfl
    · split
      next u f h => exact ports_of_fst (meetLine_ports ..) h
      next u h => exact ((ih _).trans (putPiece_ports ..)).trans (ports_of_fst (meetLine_ports ..) h)

@[simp] theorem writeRuns_ports (s : State) (data : List Byte) (sps : List Span) : (s.writeRuns data sps).1.ports = s.ports := by
  induction sps generalizing s with
  | nil => rfl
  | cons sp sps ih =>
    simp only [State.writeRuns]
    split
    next u runs f h => exact ports_of_fst (writePieces_ports ..) h
    next u runs h => exact (ih u).trans (ports_of_fst (writePieces_ports ..) h)

@[simp] theorem writeSpans_ports (s : State) (data : List Byte) (sps : List Span) (who : Option (Nat × Bool)) :
    (s.writeSpans data sps who).1.ports = s.ports := writeRuns_ports s data sps

@[simp] theorem writeSpan_ports (s : State) (sp : Span) (data : List Byte) (who : Option (Nat × Bool)) :
    (s.writeSpan sp data who).1.ports = s.ports := writeSpans_ports s data [sp] who

@[simp] theorem l1Update_ports (s : State) (loom : Nat) (sp : Span) : (s.l1Update loom sp).ports = s.ports := by
  unfold State.l1Update
  induction sp.pieces generalizing s with
  | nil => rfl
  | cons p ps ih =>
    rw [List.foldl_cons, ih]
    simp only []
    split <;> rfl

@[simp] theorem atomicAt_ports (s : State) (loom : Nat) (sp : Span) (op : AtomicOp) (o : W64) (who : Option (Nat × Bool)) :
    (s.atomicAt loom sp op o who).1.ports = s.ports := by
  unfold State.atomicAt
  split
  next u bs f h => exact ports_of_fst (readSpan_ports s sp) h
  next u bs h =>
    have hu : u.ports = s.ports := ports_of_fst (readSpan_ports s sp) h
    simp only []
    split
    · split
      next w f hw => exact (ports_of_fst (writeSpan_ports ..) hw).trans hu
      next w hw => exact (l1Update_ports w loom sp).trans ((ports_of_fst (writeSpan_ports ..) hw).trans hu)
    · exact hu

@[simp] theorem reduceMemory_ports (s : State) (ty : BitVec 2) (sp : Span) (vs : List Nat) (who : Option (Nat × Bool)) :
    (s.reduceMemory ty sp vs who).1.ports = s.ports := by
  unfold State.reduceMemory
  split
  next u bs f h => exact ports_of_fst (readSpan_ports s sp) h
  next u bs h =>
    have hu : u.ports = s.ports := ports_of_fst (readSpan_ports s sp) h
    simp only []
    split
    next w f hw => exact (ports_of_fst (writeSpan_ports ..) hw).trans hu
    next w hw => exact (ports_of_fst (writeSpan_ports ..) hw).trans hu

/-- A reduction that is added at once, in a memory-side page, leaves the ports as they are. -/
theorem reduceHere_ports {s v : State} {ty : BitVec 2} {sp : Span} {k : Contribution} {who : Option (Nat × Bool)} {fl : Flags}
    (h : s.reduceHere ty sp k who = (v, .ok (some fl))) : v.ports = s.ports := by
  unfold State.reduceHere at h
  split at h
  · simp only [] at h
    split at h <;> simp at h
  · split at h
    next hr => simp at h
    next u fl' hr =>
      obtain ⟨rfl, -⟩ : u = v ∧ _ := by simpa using h
      exact ports_of_fst (reduceMemory_ports ..) hr

@[simp] theorem joinSwitch_ports (s : State) (switch target : Nat) (part : CombPart) :
    (s.joinSwitch switch target part).1.ports = s.ports := by
  simp only [State.joinSwitch]
  split
  · rfl
  · split <;> rfl

@[simp] theorem slotWritten_ports (s : State) (peer rch va n : Nat) : (s.slotWritten peer rch va n).ports = s.ports := by
  unfold State.slotWritten State.modPart
  split <;> rfl

/-! ## Sending leaves the data flits that wait for their request -/

/-- A port that keeps its unclaimed data flits may be replaced. -/
theorem unclaimed_setPort (s : State) (q : Nat) (p : Port) (r : Nat) (h : p.unclaimed = (s.port q).unclaimed := by rfl) :
    ((s.setPort q p).port r).unclaimed = (s.port r).unclaimed := by
  by_cases hr : r = q
  · subst hr
    rw [port_setPort, h]
  · rw [port_setPort_ne s p hr]

@[simp] theorem unclaimed_emitControl (s : State) (q kind : Nat) (f : Flit) (r : Nat) :
    ((s.emitControl q kind f).port r).unclaimed = (s.port r).unclaimed :=
  unclaimed_setPort s q _ r

@[simp] theorem unclaimed_modPart (s : State) (peer : Nat) (f : Partition → Partition) (r : Nat) :
    ((s.modPart peer f).port r).unclaimed = (s.port r).unclaimed := by
  unfold State.modPart
  split <;> simp

@[simp] theorem unclaimed_noticeCongestion (s : State) (q kind : Nat) (f : Flit) (r : Nat) :
    ((s.noticeCongestion q kind f).port r).unclaimed = (s.port r).unclaimed := by
  have hset (u : State) (l : List Nat) (h : u.ports = s.ports) :
      ((u.setPort q { s.port q with noticed := l }).port r).unclaimed = (s.port r).unclaimed := by
    have hport (x : Nat) : u.port x = s.port x := by simp only [State.port, h]
    rw [unclaimed_setPort u q _ r (by rw [hport]), hport]
  simp only [State.noticeCongestion]
  generalize (if Config.newWindow s.freeIdx = true then [] else (s.port q).noticed) = noticed
  split
  · rfl
  · split
    · rfl
    · split
      · exact hset _ _ rfl
      · split
        · exact hset _ _ rfl
        · split
          · exact (unclaimed_modPart _ _ _ r).trans (hset _ _ rfl)
          · split
            · exact (unclaimed_emitControl _ _ _ _ r).trans (hset _ _ rfl)
            · exact hset _ _ rfl

@[simp] theorem unclaimed_emitFlit (s : State) (q kind : Nat) (f : Flit) (r : Nat) :
    ((s.emitFlit q kind f).port r).unclaimed = (s.port r).unclaimed := by
  simp only [State.emitFlit]
  exact (unclaimed_setPort _ _ _ r).trans ((unclaimed_emitControl _ _ _ _ r).trans (unclaimed_noticeCongestion s q kind f r))

@[simp] theorem unclaimed_sendFlit (s : State) (q kind : Nat) (f : Flit) (r : Nat) :
    ((s.sendFlit q kind f).port r).unclaimed = (s.port r).unclaimed := by
  simp only [State.sendFlit]
  split
  · rfl
  · split
    · exact unclaimed_emitFlit s q kind f r
    · exact unclaimed_setPort _ _ _ r

@[simp] theorem unclaimed_answer (s : State) (q : Nat) (f : Flit) (kind status : Nat) (opa : W64) (bs : List Byte) (r : Nat) :
    ((s.answer q f kind status opa bs).port r).unclaimed = (s.port r).unclaimed :=
  unclaimed_sendFlit _ _ _ _ r

/-- Where no data flits wait, none is claimed. -/
theorem claim_of_unclaimed_nil {s : State} {q : Nat} (h : (s.port q).unclaimed = []) (fuel : Nat) : s.claim q fuel = s := by
  cases fuel with
  | zero => rfl
  | succ fuel => simp [State.claim, h]

/-! ## A port takes a flit (R290, R396) -/

/-- What a state keeps when one of its ports takes or acknowledges a flit: all but its ports and its output. -/
theorem flitTaken_eq (s : State) (q : Nat) :
    ∃ ports out, flitTaken s q = { s with ports := ports, out := out } := by
  unfold flitTaken State.countReceived
  simp only []
  split <;> exact ⟨_, _, rfl⟩

@[simp] theorem flitTaken_incoming (s : State) (q : Nat) : (flitTaken s q).incoming = s.incoming := by
  obtain ⟨ports, out, h⟩ := flitTaken_eq s q
  rw [h]

@[simp] theorem flitTaken_part (s : State) (q peer : Nat) : (flitTaken s q).part? peer = s.part? peer := by
  obtain ⟨ports, out, h⟩ := flitTaken_eq s q
  rw [h]; rfl

@[simp] theorem flitTaken_portOwner (s : State) (q r : Nat) : (flitTaken s q).portOwner r = s.portOwner r := by
  obtain ⟨ports, out, h⟩ := flitTaken_eq s q
  rw [h]; rfl

@[simp] theorem unclaimed_countReceived (s : State) (q r : Nat) : ((s.countReceived q).port r).unclaimed = (s.port r).unclaimed := by
  have hset : ((s.setPort q { s.port q with gotSince := (s.port q).gotSince + 1 }).port r).unclaimed = (s.port r).unclaimed :=
    unclaimed_setPort _ _ _ r
  simp only [State.countReceived]
  split
  · exact (unclaimed_setPort _ _ _ r).trans hset
  · exact hset

@[simp] theorem unclaimed_flitTaken (s : State) (q r : Nat) : ((flitTaken s q).port r).unclaimed = (s.port r).unclaimed :=
  (unclaimed_countReceived _ q r).trans (unclaimed_setPort _ _ _ r)

/-- A flit that its port takes has its effect. -/
theorem onFlit_of_takesFlit {s : State} {q kind : Nat} {f : Flit} (h : takesFlit s q kind f) (act : State → State) :
    s.onFlit q kind f act = issued (act (flitTaken s q)) := by
  obtain ⟨hup, hcrc, hseq⟩ := h
  refine event_some ?_
  simp [State.acceptControl, hup, hcrc, hseq, flitTaken]

/-! ## A request comes in (R295) -/

theorem isOwn_of_forUs {s u : State} {q : Nat} {f g : Flit} {p : Partition} (h : forUs s q f p)
    (hu : u.portOwner q = s.portOwner q) (hg : g.dpeer = f.dpeer) : u.isOwn q g = true := by
  simp [State.isOwn, hu, hg, h.1]

theorem mine_iff (i : Incoming) (q key : Nat) :
    i.mine q key = true ↔ i.port = q ∧ reqKey i.flit = key ∧ i.done = false ∧ i.dup = false ∧ i.kind ≠ kReadReply := by
  simp [Incoming.mine, and_assoc]

theorem mine_of_found {u : State} {q key : Nat} {i : Incoming} (h : u.incoming? q key = some i) : i.mine q key = true :=
  List.find?_some (p := fun x : Incoming => x.mine q key) h

/-- The bytes of data flits that a request needs. -/
def dataNeeded (kind : Nat) (f : Flit) : Nat :=
  if (kind = kWrite ∨ kind = kReduce ∨ kind = kChWrite ∨ kind = kReadReply) ∧ 8 < f.lenM1.toNat + 1 then f.lenM1.toNat + 1 else 0

/-- A request that no other flit completes: it carries 8 bytes or fewer and is no CAS (R291). -/
structure SingleFlit (kind : Nat) (f : Flit) : Prop where
  isRequest : kind ≠ kReadReply
  needsNone : dataNeeded kind f = 0
  notCas : kind = kAtomic → f.aop ≠ 0x21

theorem singleFlit_of_short {kind : Nat} {f : Flit} (hkind : kind = kWrite ∨ kind = kReduce ∨ kind = kChWrite)
    (h : f.lenM1.toNat + 1 ≤ 8) : SingleFlit kind f :=
  ⟨by rcases hkind with rfl | rfl | rfl <;> decide, if_neg (fun hlong => Nat.not_lt.mpr h hlong.2),
    by rcases hkind with rfl | rfl | rfl <;> exact fun h => absurd h (by decide)⟩

theorem dataNeeded_of_carriesNone {kind : Nat} {f : Flit} (h : kind = kRead ∨ kind = kRelSt ∨ kind = kAtomic) : dataNeeded kind f = 0 := by
  rcases h with rfl | rfl | rfl <;> exact if_neg (fun h => absurd h.1 (by decide))

theorem singleFlit_of_carriesNone {kind : Nat} {f : Flit} (h : kind = kRead ∨ kind = kRelSt) : SingleFlit kind f :=
  ⟨by rcases h with rfl | rfl <;> decide, dataNeeded_of_carriesNone (h.imp_right .inl),
    by rcases h with rfl | rfl <;> exact fun h => absurd h (by decide)⟩

theorem singleFlit_atomic {f : Flit} (h : f.aop ≠ 0x21) : SingleFlit kAtomic f :=
  ⟨by decide, dataNeeded_of_carriesNone (.inr (.inr rfl)), fun _ => h⟩

/-- A complete request of this device that the filter does not know is performed. -/
theorem complete_own {u : State} {i : Incoming} (hown : u.isOwn i.port i.flit = true) (hkind : i.kind ≠ kReadReply)
    (hdup : i.dup = false) : u.complete i = u.serve i.port (reqKey i.flit) := by
  simp [State.complete, hown, hkind, hdup]

/-- The first request of its source and tag joins those that a port holds; it is performed at once unless it waits for data flits or for
the new value of a CAS. -/
theorem comeIn_first {s : State} {q kind : Nat} {f : Flit} {p : Partition} (h : firstRequest s q kind f p)
    (hkind : kind ≠ kReadReply) :
    (flitTaken s q).comeIn q kind f =
      (if 0 < dataNeeded kind f ∨ (kind = kAtomic ∧ f.aop = 0x21) then requestIn s q kind f (dataNeeded kind f)
       else (requestIn s q kind f (dataNeeded kind f)).serve q (reqKey f)).claim q 5 := by
  obtain ⟨-, hus, -, hnew, -⟩ := h
  have hown : (flitTaken s q).isOwn q f = true := isOwn_of_forUs hus (flitTaken_portOwner s q q) rfl
  have hunknown (x : Incoming) (hx : x ∈ s.incoming) : (reqKey x.flit == reqKey f) = false := beq_false_of_ne (hnew x hx)
  have hserve : (requestIn s q kind f (dataNeeded kind f)).complete (asIncoming (flitTaken s q) q kind f (dataNeeded kind f)) =
      (requestIn s q kind f (dataNeeded kind f)).serve q (reqKey f) :=
    complete_own (isOwn_of_forUs hus (flitTaken_portOwner s q q) rfl) hkind rfl
  have hlacks : (asIncoming (flitTaken s q) q kind f (dataNeeded kind f)).lacks = true ↔ 0 < dataNeeded kind f := by
    simp [asIncoming, Incoming.lacks]
  have hredo : (kind == kRead && s.incoming.any (fun x =>
      (x.kind != kReadReply && reqKey x.flit == reqKey f && x.flit.sseq == f.sseq) && x.done)) = false := by
    simp +contextual [List.any_eq_false, hunknown]
  have hknown : s.incoming.any (fun x => x.kind != kReadReply && reqKey x.flit == reqKey f && x.flit.sseq == f.sseq) = false := by
    simp +contextual [List.any_eq_false, hunknown]
  have hown' (l : List Incoming) : ({ flitTaken s q with incoming := l } : State).isOwn q f = true := hown
  simp only [← hserve, ← hlacks]
  simp [State.comeIn, asIncoming, requestIn, dataNeeded, hredo, hknown, hown, hown']

theorem unclaimed_requestIn {s : State} {q kind : Nat} {f : Flit} {p : Partition} (h : firstRequest s q kind f p) (need : Nat) :
    ((requestIn s q kind f need).port q).unclaimed = [] := by
  obtain ⟨-, -, -, -, hnone⟩ := h
  exact (unclaimed_flitTaken s q q).trans hnone

/-- A request that must wait for more flits waits. -/
theorem onFlit_waits {s : State} {q kind : Nat} {f : Flit} {p : Partition} (h : firstRequest s q kind f p) (hkind : kind ≠ kReadReply)
    (hwait : 0 < dataNeeded kind f ∨ (kind = kAtomic ∧ f.aop = 0x21)) :
    s.onFlit q kind f (fun u => u.comeIn q kind f) = issued (requestIn s q kind f (dataNeeded kind f)) := by
  rw [onFlit_of_takesFlit h.1, comeIn_first h hkind, if_pos hwait, claim_of_unclaimed_nil (unclaimed_requestIn h _)]

/-- A request that is complete as it comes in is performed. -/
theorem onFlit_serves {s t : State} {q kind : Nat} {f : Flit} {p : Partition} (h : firstRequest s q kind f p) (hone : SingleFlit kind f)
    (hserve : (requestIn s q kind f 0).serve q (reqKey f) = t)
    (ht : (t.port q).unclaimed = ((requestIn s q kind f 0).port q).unclaimed) :
    s.onFlit q kind f (fun u => u.comeIn q kind f) = issued t := by
  have hnow : ¬ (0 < dataNeeded kind f ∨ (kind = kAtomic ∧ f.aop = 0x21)) := by
    simpa [hone.needsNone] using hone.notCas
  rw [onFlit_of_takesFlit h.1, comeIn_first h hone.isRequest, if_neg hnow, hone.needsNone, hserve,
    claim_of_unclaimed_nil (ht.trans (unclaimed_requestIn h 0))]

/-- A request that is complete as it comes in and is answered once memory has been read or written. -/
theorem onFlit_answers {s v : State} {q kind k status : Nat} {f g : Flit} {p : Partition} {opa : W64} {bs : List Byte}
    (h : firstRequest s q kind f p) (hone : SingleFlit kind f)
    (hserve : (requestIn s q kind f 0).serve q (reqKey f) = v.answer q g k status opa bs)
    (hv : v.ports = (requestIn s q kind f 0).ports) :
    s.onFlit q kind f (fun u => u.comeIn q kind f) = issued (v.answer q g k status opa bs) :=
  onFlit_serves h hone hserve ((unclaimed_answer v q g k status opa bs q).trans (by simp only [State.port, hv]))

/-! ## What is performed (R167, R290, R295) -/

/-- A complete request that a port holds, which nothing has taken yet, to a partition that serves it. -/
structure Held (u : State) (q key : Nat) (i : Incoming) (p : Partition) : Prop where
  found : u.incoming? q key = some i
  ready : i.ready = true
  fresh : i.taken = false
  part : u.part? i.flit.dpeer.toNat = some p
  running : p.resetting = false

/-- A request that needs nothing more is held as it has come in. -/
theorem held_requestIn {s : State} {q kind : Nat} {f : Flit} {p : Partition} (h : firstRequest s q kind f p) (hone : SingleFlit kind f) :
    Held (requestIn s q kind f 0) q (reqKey f) (asIncoming (flitTaken s q) q kind f 0) p := by
  obtain ⟨-, ⟨-, hpart⟩, hrun, hnew, -⟩ := h
  refine ⟨?_, ?_, rfl, (flitTaken_part s q _).trans hpart, hrun⟩
  · have hmine : (asIncoming (flitTaken s q) q kind f 0).mine q (reqKey f) = true := (mine_iff _ _ _).mpr ⟨rfl, rfl, rfl, rfl, hone.isRequest⟩
    have hothers : s.incoming.find? (fun i => i.mine q (reqKey f)) = none := by
      simp only [List.find?_eq_none, mine_iff]
      exact fun x hx hm => hnew x hx hm.2.1
    simp [State.incoming?, requestIn, List.find?_append, hothers, hmine]
  · simpa [asIncoming, Incoming.ready] using Decidable.not_or_of_imp hone.notCas

theorem requestSpans_of_requestAt {u : State} {p : Partition} {op : MemOp} {i : Incoming} {n : Nat} {sps : List Span}
    (h : requestAt u p op i.flit n sps) : u.requestSpans p op i n = .ok sps := by
  obtain ⟨hend, hspans⟩ := h
  rw [State.requestSpans, if_neg (Nat.not_lt.mpr hend), hspans]

/-- A read or an atomic whose pages allow it and that meets no suspension is performed. -/
theorem serve_load {u : State} {q key : Nat} {i : Incoming} {p : Partition} {sps : List Span} (h : Held u q key i p)
    (hkind : i.kind = kRead ∨ i.kind = kAtomic) (hat : requestAt u p (kindOp i.kind) i.flit i.len sps)
    (hsus : u.meetsSuspension sps = false) : u.serve q key = u.serveLoad i sps := by
  obtain ⟨hfound, hready, hfresh, hpart, hrun⟩ := h
  have hred : i.kind ≠ kReduce := by rcases hkind with hk | hk <;> rw [hk] <;> decide
  simp [State.serve, hfound, hready, hfresh, hpart, hrun, hred, requestSpans_of_requestAt hat, hkind, hsus]

/-- A store, flag store or channel write whose pages allow it is performed. -/
theorem serve_write {u : State} {q key : Nat} {i : Incoming} {p : Partition} {sps : List Span} (h : Held u q key i p)
    (hkind : i.kind = kWrite ∨ i.kind = kRelSt ∨ i.kind = kChWrite) (hat : requestAt u p (kindOp i.kind) i.flit i.len sps) :
    u.serve q key = u.serveWrite i sps := by
  obtain ⟨hfound, hready, hfresh, hpart, hrun⟩ := h
  have hother : i.kind ≠ kReduce ∧ ¬ (i.kind = kRead ∨ i.kind = kAtomic) := by
    rcases hkind with hk | hk | hk <;> rw [hk] <;> decide
  simp [State.serve, hfound, hready, hfresh, hpart, hrun, hother, requestSpans_of_requestAt hat]

theorem serve_reduce {u : State} {q key : Nat} {i : Incoming} {p : Partition} (h : Held u q key i p) (hkind : i.kind = kReduce) :
    u.serve q key = u.serveReduce p i := by
  obtain ⟨hfound, hready, hfresh, hpart, hrun⟩ := h
  simp [State.serve, hfound, hready, hfresh, hpart, hrun, hkind]

/-- The bytes read go back in a READ REPLY. -/
theorem serveLoad_read {u v : State} {i : Incoming} {sps : List Span} {bs : List Byte} (hkind : i.kind = kRead)
    (hread : u.readSpans sps = (v, bs, none)) :
    u.serveLoad i sps = v.answer i.port i.flit kReadReply 0 (inline bs) (if bs.length ≤ 8 then [] else bs) := by
  simp [State.serveLoad, hkind, hread, replyKind]

/-- An atomic that joins no switch is performed on its word and answered with the old value, or with an ACK if it returns none. -/
theorem serveLoad_atomic {u v : State} {i : Incoming} {sp : Span} {op op' : AtomicOp} {ret : Bool} {old : Nat} (hkind : i.kind = kAtomic)
    (hop : AtomicOp.ofWire i.flit.aop.toNat (i.casNew.getD 0) = some (op, ret))
    (hret : AtomicOp.ofWire i.flit.aop.toNat 0 = some (op', ret)) (halign : i.flit.addr.toNat % 8 = 0)
    (hjoin : u.joinFar i sp = (u, false)) (hdone : u.atomicAt 512 sp op i.flit.opa = (v, old, none)) :
    u.serveLoad i [sp] = if ret then v.answer i.port i.flit kAtomicReply 0 (BitVec.ofNat 64 old) []
      else v.answer i.port i.flit kAck 0 0 [] := by
  have hne : kAtomic ≠ kRead := by decide
  simp only [State.serveLoad, hkind, hne, hop, halign, hjoin, State.serveLoad.loomNone, hdone, replyKind, hret]
  cases ret <;> simp [kAck, kAtomicReply]

/-- A FAA.C of a word of memory waits in the switch of its panel. -/
theorem serveLoad_joins {u v : State} {i : Incoming} {sp : Span} (hkind : i.kind = kAtomic) (haop : i.flit.aop.toNat = 0x20)
    (halign : i.flit.addr.toNat % 8 = 0) (hjoin : u.joinFar i sp = (v, true)) : u.serveLoad i [sp] = v := by
  have hne : kAtomic ≠ kRead := by decide
  simp [State.serveLoad, hkind, hne, haop, AtomicOp.ofWire, halign, hjoin]

theorem joinFar_false {u : State} {i : Incoming} {sp : Span} (h : i.flit.aop = 0x20 → offChip sp.pa = false) :
    u.joinFar i sp = (u, false) := by
  by_cases haop : i.flit.aop = 0x20
  · simp [State.joinFar, panelSwitch, h haop]
  · rw [State.joinFar, if_pos (.inr (.inr haop))]

theorem joinFar_true {u v : State} {i : Incoming} {sp : Span} (hkind : i.kind = kAtomic) (haop : i.flit.aop = 0x20)
    (honce : i.combined = false) (hoff : offChip sp.pa = true)
    (hjoin : u.joinSwitch (40 + panelOfPa sp.pa) sp.pa { port := 6 + i.port % 2, far := some (i.port, reqKey i.flit), addend := i.flit.opa }
      = (v, true)) :
    u.joinFar i sp = (v.modIncoming i.port (reqKey i.flit) (fun i => { i with taken := true, combined := true }), true) := by
  simp [State.joinFar, panelSwitch, hkind, haop, honce, hoff, hjoin]

/-- A store is acknowledged once its bytes are written. -/
theorem serveWrite_store {u v : State} {i : Incoming} {sps : List Span} (hkind : i.kind = kWrite)
    (hwrite : u.writeSpans i.bytes sps = (v, none)) : u.serveWrite i sps = v.answer i.port i.flit kAck 0 0 [] := by
  have hne : kWrite ≠ kRelSt ∧ kWrite ≠ kChWrite := by decide
  simp [State.serveWrite, hwrite, hkind, hne]

/-- A flag store is acknowledged once its flag is written. -/
theorem serveWrite_flag {u v : State} {i : Incoming} {sps : List Span} (hkind : i.kind = kRelSt)
    (hwrite : u.writeSpans (leBytes 8 i.flit.opa.toNat) sps = (v, none)) :
    u.serveWrite i sps = v.answer i.port i.flit kAck 0 0 [] := by
  have hne : kRelSt ≠ kChWrite := by decide
  simp [State.serveWrite, hwrite, hkind, hne]

/-- A channel write is acknowledged once its bytes stand in their slot. -/
theorem serveWrite_channel {u v : State} {i : Incoming} {sps : List Span} (hkind : i.kind = kChWrite)
    (hwrite : u.writeSpans i.bytes sps = (v, none)) :
    u.serveWrite i sps =
      (v.slotWritten i.flit.dpeer.toNat i.flit.aop.toNat i.flit.addr.toNat i.len).answer i.port i.flit kAck 0 0 [] := by
  have hne : kChWrite ≠ kRelSt := by decide
  simp [State.serveWrite, hwrite, hkind, hne]

/-- What a REDUCE of these bytes contributes, under a key. -/
def contributionOf (i : Incoming) (bs : List Byte) (loom : Nat) (ev : Bool) (seq : BitVec 16) (closes : Bool) : Contribution :=
  let ty : BitVec 2 := i.flit.aop.setWidth 2
  { key := ⟨i.flit.speer.toNat, ev, loom % 512, seq⟩, first := 0, int := ty == 3,
    values := redValues ty (i.len / (redWidths ty).2) bs, flags := 0, remote := some (i.port, reqKey i.flit), closes := closes }

/-- A REDUCE that is added at once is acknowledged with its flags. -/
theorem serveReduce_added {u v : State} {p : Partition} {i : Incoming} {sp : Span} {fl : Flags} {loom : Nat} {ev : Bool} {seq : BitVec 16}
    {closes : Bool} {ty : BitVec 2} {len : Nat} {bs : List Byte} (hbs : i.bytes = bs) (hty : ty = i.flit.aop.setWidth 2)
    (hlen : len = i.len / (redWidths ty).2 * (redWidths ty).1)
    (hspan : u.reduceSpan p i.flit.addr.toNat len = .ok sp) (hkey : Config.reduceKey u.freeIdx = (loom, ev, seq, closes))
    (hadd : ({ u with freeIdx := u.freeIdx + 1 } : State).reduceHere ty { sp with len := len } (contributionOf i bs loom ev seq closes) none =
      (v, .ok (some fl))) :
    u.serveReduce p i = v.answer i.port i.flit kAck 0 (fl.setWidth 64) [] := by
  subst hlen hty hbs
  unfold contributionOf at hadd
  simp only [] at hadd
  simp only [State.serveReduce, hspan, hkey, hadd]

/-! ## The new value of a CAS (R291) -/

/-- A request that a port holds, once its new value has come. -/
def withNewValue (i : Incoming) (x : W64) : Incoming := { i with casNew := some x }

/-- The state in which a request has got its new value. -/
def newValueIn (u : State) (i : Incoming) (x : W64) : State :=
  { u with incoming := u.incoming.map (fun j => if j = i then withNewValue i x else j) }

/-- A request keeps its place among those that a port holds when its new value comes. -/
theorem incoming_newValueIn {u : State} {q key : Nat} {i : Incoming} (h : u.incoming? q key = some i) (x : W64) :
    (newValueIn u i x).incoming? q key = some (withNewValue i x) := by
  have hsame (j : Incoming) : (if j = i then withNewValue i x else j).mine q key = j.mine q key := by
    split
    next hj => rw [hj]; rfl
    · rfl
  unfold State.incoming? at h ⊢
  simp only [newValueIn, List.find?_map, Function.comp_def, hsame, h, Option.map_some, if_true]

/-- A CASNEW completes the request that its port holds under its source and tag. -/
theorem newValue_completes {u : State} {q : Nat} {f : Flit} {i : Incoming} (hown : u.isOwn q f = true)
    (hfound : u.incoming? q (reqKey f) = some i) (hkind : i.kind = kAtomic) (haop : i.flit.aop = 0x21) (hnone : i.casNew = none) :
    u.newValue q f = (newValueIn u i f.opa).complete (withNewValue i f.opa) := by
  have hfirst : u.incoming.find? (fun i => i.mine q (reqKey f) && i.kind == kAtomic && i.flit.aop == 0x21 && i.casNew.isNone) = some i := by
    obtain ⟨hmine, as, bs, hl, has⟩ := List.find?_eq_some_iff_append.mp hfound
    refine List.find?_eq_some_iff_append.mpr ⟨by simp [hmine, hkind, haop, hnone], as, bs, hl, fun a ha => ?_⟩
    have hother : a.mine q (reqKey f) = false := by simpa using has a ha
    simp [hother]
  simp only [State.newValue, hown, hfirst]
  rfl

/-- A CAS whose new value has come is performed on its word and answered with the old value. -/
theorem newValue_answers {u v : State} {q : Nat} {f : Flit} {i : Incoming} {p : Partition} {sp : Span} {old : Nat}
    (hown : u.portOwner q = some f.dpeer.toNat) (hpart : u.part? f.dpeer.toNat = some p) (hrun : p.resetting = false)
    (hfound : u.incoming? q (reqKey f) = some i) (hkind : i.kind = kAtomic) (haop : i.flit.aop = 0x21) (hnone : i.casNew = none)
    (hfresh : i.taken = false) (hneed : i.need = 0) (hpeer : i.flit.dpeer = f.dpeer) (halign : i.flit.addr.toNat % 8 = 0)
    (hat : requestAt (newValueIn u i f.opa) p .atomic i.flit 8 [sp]) (hsus : (newValueIn u i f.opa).meetsSuspension [sp] = false)
    (hdone : (newValueIn u i f.opa).atomicAt 512 sp (.cas f.opa) i.flit.opa = (v, old, none)) :
    u.newValue q f = v.answer q i.flit kAtomicReply 0 (BitVec.ofNat 64 old) [] := by
  obtain ⟨hport, hkey, -, hdup, hreply⟩ := (mine_iff i q (reqKey f)).mp (mine_of_found hfound)
  have hheld : Held (newValueIn u i f.opa) q (reqKey f) (withNewValue i f.opa) p :=
    ⟨incoming_newValueIn hfound f.opa, by simp [withNewValue, Incoming.ready, hneed], hfresh, by rwa [← hpeer] at hpart, hrun⟩
  have hlen : (withNewValue i f.opa).len = 8 := if_pos (.inl hkind)
  have hjoin : (newValueIn u i f.opa).joinFar (withNewValue i f.opa) sp = (newValueIn u i f.opa, false) :=
    joinFar_false (fun h => by simp [withNewValue, haop] at h)
  calc u.newValue q f
      = (newValueIn u i f.opa).complete (withNewValue i f.opa) :=
        newValue_completes (by simp [State.isOwn, hown]) hfound hkind haop hnone
    _ = (newValueIn u i f.opa).serve i.port (reqKey i.flit) :=
        complete_own (by rw [← hport] at hown; exact isOwn_of_forUs ⟨hown, hpart⟩ rfl hpeer) hreply hdup
    _ = (newValueIn u i f.opa).serveLoad (withNewValue i f.opa) [sp] := by
        rw [hport, hkey]
        exact serve_load hheld (.inr hkind) (by rwa [hlen, show (withNewValue i f.opa).kind = kAtomic from hkind]) hsus
    _ = v.answer i.port i.flit kAtomicReply 0 (BitVec.ofNat 64 old) [] :=
        serveLoad_atomic (op := .cas f.opa) (op' := .cas 0) (ret := true) hkind (by simp [withNewValue, haop, AtomicOp.ofWire])
          (by simp [withNewValue, haop, AtomicOp.ofWire]) halign hjoin hdone
    _ = v.answer q i.flit kAtomicReply 0 (BitVec.ofNat 64 old) [] := by rw [hport]

/-! ## The statement -/

theorem dataNeeded_of_long {f : Flit} (h : 8 < f.lenM1.toNat + 1) : dataNeeded kWrite f = f.lenM1.toNat + 1 := if_pos ⟨.inl rfl, h⟩

/-- The bytes of a request that carries 8 or fewer. -/
theorem asIncoming_bytes {u : State} {q kind : Nat} {f : Flit} (h : f.lenM1.toNat + 1 ≤ 8) :
    (asIncoming u q kind f 0).bytes = leBytes (f.lenM1.toNat + 1) f.opa.toNat := if_pos h

/-- Settles O42: each request is taken, joins those that its port holds and is performed by the lemma of its kind. -/
theorem peerRequests : Obligations.PeerRequests := by
  unfold Obligations.PeerRequests
  intro s q f p n g first
  refine ⟨?read, ?write, ?writeLong, ?relst, ?chwrite, ?atomic, ?faac, ?cas, ?reduce, ?casnew⟩
  case read =>
    intro sps v bs u hfirst hat hsus hread
    have hone : SingleFlit kRead f := singleFlit_of_carriesNone (.inl rfl)
    have hserve := (serve_load (held_requestIn hfirst hone) (.inl rfl) hat hsus).trans (serveLoad_read rfl hread)
    exact onFlit_answers hfirst hone hserve (ports_of_fst (readSpans_ports u sps) hread)
  case write =>
    intro sps v u hfirst hshort hat hwrite
    have hone : SingleFlit kWrite f := singleFlit_of_short (.inl rfl) hshort
    have hserve := (serve_write (held_requestIn hfirst hone) (.inl rfl) hat).trans
      (serveWrite_store rfl (by rwa [asIncoming_bytes hshort]))
    exact onFlit_answers hfirst hone hserve (ports_of_fst (writeSpans_ports ..) hwrite)
  case writeLong =>
    intro hfirst hlong
    have hneed := dataNeeded_of_long hlong
    have hwaits := onFlit_waits hfirst (by decide) (.inl (by rw [hneed]; exact Nat.succ_pos _))
    rwa [hneed] at hwaits
  case relst =>
    intro sps v u hfirst hat hwrite
    have hone : SingleFlit kRelSt f := singleFlit_of_carriesNone (.inr rfl)
    have hserve := (serve_write (held_requestIn hfirst hone) (.inr (.inl rfl)) hat).trans
      (serveWrite_flag rfl hwrite)
    exact onFlit_answers hfirst hone hserve (ports_of_fst (writeSpans_ports ..) hwrite)
  case chwrite =>
    intro sps v u hfirst hshort hat hwrite
    have hone : SingleFlit kChWrite f := singleFlit_of_short (.inr (.inr rfl)) hshort
    have hserve := (serve_write (held_requestIn hfirst hone) (.inr (.inr rfl)) hat).trans
      (serveWrite_channel rfl (by rwa [asIncoming_bytes hshort]))
    exact onFlit_answers hfirst hone hserve ((slotWritten_ports ..).trans (ports_of_fst (writeSpans_ports ..) hwrite))
  case atomic =>
    intro op ret sp v old u hfirst hcas hop halign hat hsus hoff hdone
    have hone : SingleFlit kAtomic f := singleFlit_atomic (fun h => hcas (by rw [h]; rfl))
    have hjoin : u.joinFar (asIncoming (flitTaken s q) q kAtomic f 0) sp = (u, false) :=
      joinFar_false (fun h => hoff (congrArg BitVec.toNat h))
    have hserve := (serve_load (held_requestIn hfirst hone) (.inr rfl) hat hsus).trans (serveLoad_atomic rfl hop hop halign hjoin hdone)
    have hports : v.ports = u.ports := ports_of_fst (atomicAt_ports ..) hdone
    cases ret with
    | true => exact onFlit_answers hfirst hone hserve hports
    | false => exact onFlit_answers hfirst hone hserve hports
  case faac =>
    intro sp v u hfirst haop halign hat hsus hoff hjoin
    have haop' : f.aop = 0x20 := BitVec.eq_of_toNat_eq haop
    have hone : SingleFlit kAtomic f := singleFlit_atomic (by rw [haop']; decide)
    have hserve := (serve_load (held_requestIn hfirst hone) (.inr rfl) hat hsus).trans
      (serveLoad_joins rfl haop halign (joinFar_true rfl haop' rfl hoff hjoin))
    have hports : v.ports = u.ports := ports_of_fst (joinSwitch_ports ..) hjoin
    exact onFlit_serves hfirst hone hserve (congrArg (fun ports => (SMap.getD ports q {}).unclaimed) hports)
  case cas =>
    intro hfirst haop
    have hwaits := onFlit_waits hfirst (by decide) (.inr ⟨rfl, BitVec.eq_of_toNat_eq haop⟩)
    rwa [dataNeeded_of_carriesNone (.inr (.inr rfl))] at hwaits
  case reduce =>
    intro sp v fl loom ev seq closes u ty len hfirst hshort hspan hkey hadd
    have hone : SingleFlit kReduce f := singleFlit_of_short (.inr (.inl rfl)) hshort
    have hserve := (serve_reduce (held_requestIn hfirst hone) rfl).trans
      (serveReduce_added (asIncoming_bytes hshort) rfl rfl hspan hkey hadd)
    have hports := reduceHere_ports hadd
    exact onFlit_answers hfirst hone hserve hports
  case casnew =>
    intro i sp v old htakes hus hrun u w hfound hkind haop hnone hfresh hneed hpeer halign hat hsus hdone
    obtain ⟨hown, hpart⟩ := hus
    have hfound' : u.incoming? q (reqKey f) = some i := by rwa [State.incoming?, flitTaken_incoming]
    have hanswers := newValue_answers ((flitTaken_portOwner s q q).trans hown) ((flitTaken_part s q _).trans hpart) hrun hfound' hkind
      haop hnone hfresh hneed hpeer halign hat hsus hdone
    exact (onFlit_of_takesFlit htakes _).trans (congrArg issued hanswers)

end Sys2Proof.Proofs.PeerRequests
end

section
/-!
PROOFS. The memory stays in its canonical form (O51), function by function, in the order of the model's files. `f_mem` says that a
function of the state leaves the memory as it is, `f_wf` that a function that writes it keeps its canonical form.
-/

namespace Sys2Proof.Proofs.Canonical

open Sys2Proof.Machine Sys2Proof.Laws

/-! ## Folds, defaults and branches -/

theorem foldl_mem {α : Type} {f : State → α → State} (hf : ∀ s x, (f s x).mem = s.mem) (xs : List α) (s : State) :
    (xs.foldl f s).mem = s.mem := by
  induction xs generalizing s with
  | nil => rfl
  | cons x xs ih => exact (ih _).trans (hf s x)

theorem foldl_wf {α : Type} {f : State → α → State} {s : State} (hs : s.mem.wf = true)
    (hf : ∀ s x, s.mem.wf = true → (f s x).mem.wf = true) (xs : List α) : (xs.foldl f s).mem.wf = true := by
  induction xs generalizing s with
  | nil => exact hs
  | cons x xs ih => exact ih (hf s x hs)

theorem bind_ok {ε α β : Type} {x : Except ε α} {f : α → Except ε β} {r : β} :
    (x >>= f) = .ok r ↔ ∃ a, x = .ok a ∧ f a = .ok r := by
  cases x <;> simp [Bind.bind, Except.bind]

theorem pure_ok {ε α : Type} {x r : α} : (pure x : Except ε α) = .ok r ↔ x = r := by
  simp [pure, Except.pure]

theorem getD_mem {o : Option State} {s : State} (ho : ∀ t, o = some t → t.mem = s.mem) : (o.getD s).mem = s.mem := by
  cases o with
  | none => rfl
  | some t => exact ho t rfl

theorem getD_wf {o : Option State} {s : State} (hs : s.mem.wf = true) (ho : ∀ t, o = some t → t.mem.wf = true) :
    (o.getD s).mem.wf = true := by
  cases o with
  | none => exact hs
  | some t => exact ho t rfl

theorem getD_map_mem {α : Type} {g : α → State} {s : State} (hg : ∀ a, (g a).mem = s.mem) (o : Option α) :
    ((o.map g).getD s).mem = s.mem := by
  cases o with
  | none => rfl
  | some a => exact hg a

theorem ite_wf {c : Prop} [Decidable c] {u v : State} (hu : u.mem.wf = true) (hv : v.mem.wf = true) :
    (if c then u else v).mem.wf = true := by
  split
  · exact hu
  · exact hv

section
variable {s t u : State} (hs : s.mem.wf = true)

/-! ## Tables -/

@[simp] theorem modPart_mem (peer f) : (s.modPart peer f).mem = s.mem := by
  unfold State.modPart
  split <;> simp

/-! ## Memory -/

@[simp] theorem fenceChannel_mem (chan) : (s.fenceChannel chan).mem = s.mem := by
  unfold State.fenceChannel
  split <;> simp

@[simp] theorem retire_mem (pa) : (s.retire pa).mem = s.mem := by
  unfold State.retire
  grind [fenceChannel_mem]

@[simp] theorem meetError_mem (pa) : (s.meetError pa).mem = s.mem := by
  unfold State.meetError
  grind [retire_mem, setLine_mem]

@[simp] theorem meetLine_mem (pa va at' whole reads) : (s.meetLine pa va at' whole reads).1.mem = s.mem := by
  unfold State.meetLine
  simp only []
  repeat' split
  all_goals simp

@[simp] theorem readPieces_mem (at' ps) : (s.readPieces at' ps).1.mem = s.mem := by
  fun_induction State.readPieces <;> grind [meetLine_mem]

@[simp] theorem readSpan_mem (sp) : (s.readSpan sp).1.mem = s.mem := by simp [State.readSpan]

@[simp] theorem countWrite_mem (runs who) : (s.countWrite runs who).mem = s.mem := rfl

@[simp] theorem actionPosted_mem (k) : (s.actionPosted k).mem = s.mem := by
  unfold State.actionPosted
  grind [setBobbin_mem]

include hs in
theorem putPiece_wf (at' p bs) : (s.putPiece at' p bs).mem.wf = true := by simp [State.putPiece, writeN_wf, hs]

include hs in
theorem writePieces_wf (at' data ps) : (s.writePieces at' data ps).1.mem.wf = true := by
  fun_induction State.writePieces <;> grind [putPiece_wf, meetLine_mem]

include hs in
theorem writeRuns_wf (data sps) : (s.writeRuns data sps).1.mem.wf = true := by
  fun_induction State.writeRuns <;> grind [writePieces_wf]

include hs in
theorem writeSpans_wf (data sps who) : (s.writeSpans data sps who).1.mem.wf = true := by simp [State.writeSpans, writeRuns_wf, hs]

include hs in
theorem writeSpan_wf (sp data who) : (s.writeSpan sp data who).1.mem.wf = true := by simp [State.writeSpan, writeSpans_wf, hs]

@[simp] theorem readSpans_mem (sps) : (s.readSpans sps).1.mem = s.mem := by
  fun_induction State.readSpans <;> grind [readSpan_mem]

@[simp] theorem l1Fill_mem (loom sp) : (s.l1Fill loom sp).mem = s.mem := by
  unfold State.l1Fill
  grind [setLoom_mem, foldl_mem]

@[simp] theorem l1Update_mem (loom sp) : (s.l1Update loom sp).mem = s.mem := by
  unfold State.l1Update
  grind [setLoom_mem, foldl_mem]

@[simp] theorem l1Clear_mem (loom) : (s.l1Clear loom).mem = s.mem := rfl

@[simp] theorem l1DropIf_mem (loom peer obj) : (s.l1DropIf loom peer obj).mem = s.mem := rfl

@[simp] theorem l1Drop_mem (loom peer obj) : (s.l1Drop loom peer obj).mem = s.mem := rfl

@[simp] theorem meetBarrier_mem (sp) : (s.meetBarrier sp).1.mem = s.mem := by simp [State.meetBarrier]

include hs in
theorem setBarrier_wf (sp b) : (s.setBarrier sp b).mem.wf = true := by simp [State.setBarrier, putPiece_wf, hs]

include hs in
theorem updateBarrier_wf (sp b) : (s.updateBarrier sp b).mem.wf = true := by
  have hput (tally b') : (State.setBarrier { s with tally := tally } sp b').mem.wf = true := setBarrier_wf hs ..
  unfold State.updateBarrier
  extract_lets
  split
  · exact hput _ _
  · exact hput _ _

include hs in
theorem countBarrier_wf (sp n fl runs) : (s.countBarrier sp n fl runs).1.mem.wf = true := by
  unfold State.countBarrier
  grind [meetBarrier_mem, updateBarrier_wf]

@[simp] theorem l1DropRuns_mem (loom runs) : (s.l1DropRuns loom runs).mem = s.mem := rfl

@[simp] theorem l1DropCounted_mem (loom bar phase) : (s.l1DropCounted loom bar phase).mem = s.mem := rfl

/-! ## Link -/

@[simp] theorem emitControl_mem (q kind f) : (s.emitControl q kind f).mem = s.mem := rfl

@[simp] theorem noticeCongestion_mem (q kind f) : (s.noticeCongestion q kind f).mem = s.mem := by
  unfold State.noticeCongestion
  grind [setPort_mem, emitControl_mem, modPart_mem]

@[simp] theorem emitFlit_mem (q kind f) : (s.emitFlit q kind f).mem = s.mem := by simp [State.emitFlit]

@[simp] theorem sendFlit_mem (q kind f) : (s.sendFlit q kind f).mem = s.mem := by
  unfold State.sendFlit
  grind [setPort_mem, emitFlit_mem]

@[simp] theorem flushPort_mem (q fuel) : (s.flushPort q fuel).mem = s.mem := by
  fun_induction State.flushPort <;> grind [setPort_mem, emitFlit_mem]

theorem dataOut_mem {q} (h : s.dataOut q = some t) : t.mem = s.mem := by
  unfold State.dataOut at h
  grind [setPort_mem, flushPort_mem]

@[simp] theorem linkFlit_mem (q kind f) : (s.linkFlit q kind f).mem = s.mem := rfl

theorem transmit_mem {r} {r'} (h : s.transmit r = some r') : r'.1.mem = s.mem := by
  unfold State.transmit at h
  grind [sendFlit_mem, Option.map_eq_some_iff, Option.bind_eq_some_iff]

@[simp] theorem request_mem (src peer dpeer loom ev owner kind f casNew) :
    (s.request src peer dpeer loom ev owner kind f casNew).mem = s.mem := by
  simp only [State.request]
  split
  · rfl
  · split
    next h =>
      split at h
      · cases h
      · exact transmit_mem h
    · rfl

@[simp] theorem sendReply_mem (port kind f) : (s.sendReply port kind f).mem = s.mem := by simp [State.sendReply]

@[simp] theorem answer_mem (port req kind status opa bs) : (s.answer port req kind status opa bs).mem = s.mem := by simp [State.answer]

@[simp] theorem modIncoming_mem (port key f) : (s.modIncoming port key f).mem = s.mem := rfl

/-! ## Levels -/

include hs in
theorem setCounter_wf (p idx c) : (s.setCounter p idx c).mem.wf = true := by
  unfold State.setCounter
  split <;> simp [writeLE_wf, hs]

include hs in
theorem newCounter_wf (peer idx level expect parent) : (s.newCounter peer idx level expect parent).mem.wf = true := by
  unfold State.newCounter
  split <;> simp [setCounter_wf, hs]

@[simp] theorem pickRetired_mem (peer k cancelled) : (s.pickRetired peer k cancelled).mem = s.mem := by simp [State.pickRetired]

/-- The counter of a child that has retired once more, before its state is set (R23). -/
def countChild (c : CompCounter) (faulted cancelled : Bool) (fl : Flags) : CompCounter :=
  { c with done := c.done + 1, faulted := c.faulted || faulted, cancelled := c.cancelled || cancelled, aflags := c.aflags ||| fl }

/-- The same counter once all its children have retired. -/
def endCounter (c : CompCounter) : CompCounter := { c with state := if c.faulted then 4 else if c.cancelled then 3 else 1 }

/-- What the end of a counter does to the pick or the launch that it counts. -/
def endCounted (s : State) (peer idx : Nat) (p : Machine.Partition) (c : CompCounter) : State :=
  if c.level = 0 then
    match p.picks.find? (·.counter == idx) with
    | some k => s.pickRetired peer k c.cancelled
    | none => s
  else if c.level = 1 then s.modPart peer (fun p => { p with launches := p.launches.filter (·.counter != idx) })
  else s

theorem retireChild_succ (s : State) (peer fuel idx : Nat) (faulted cancelled : Bool) (fl : Flags) :
    s.retireChild peer (fuel + 1) idx faulted cancelled fl =
      match s.part? peer with
      | none => s
      | some p =>
        let c := countChild (s.counter p idx) faulted cancelled fl
        if c.done ≠ c.expect then s.setCounter p idx c
        else
          let v := endCounted (s.setCounter p idx (endCounter c)) peer idx p (endCounter c)
          if c.parent = 0xFFFF then v else v.retireChild peer fuel c.parent c.faulted c.cancelled c.aflags := by
  rfl

include hs in
theorem endCounted_wf (peer idx p c) : (endCounted s peer idx p c).mem.wf = true := by
  unfold endCounted
  repeat' split
  all_goals simp [hs]

include hs in
theorem retireChild_wf (peer fuel idx faulted cancelled fl) :
    (s.retireChild peer fuel idx faulted cancelled fl).mem.wf = true := by
  induction fuel generalizing s idx faulted cancelled fl with
  | zero => exact hs
  | succ fuel ih =>
    rw [retireChild_succ]
    cases s.part? peer with
    | none => exact hs
    | some p =>
      have hend (c) := endCounted_wf (setCounter_wf hs p idx c) peer idx p c
      exact ite_wf (setCounter_wf hs ..) (ite_wf (hend _) (ih (hend _) ..))

include hs in
theorem retireCancelled_wf (peer idx n) : (s.retireCancelled peer idx n).mem.wf = true := by
  fun_induction State.retireCancelled <;> grind [retireChild_wf]

include hs in
theorem cancelLoom_wf (peer k loom) : (s.cancelLoom peer k loom).mem.wf = true := by
  unfold State.cancelLoom
  grind [setCtxAt_mem, retireChild_wf, modPart_mem]

include hs in
theorem cancelPick_wf (peer k) : (s.cancelPick peer k).mem.wf = true := by
  unfold State.cancelPick
  grind [retireCancelled_wf, cancelLoom_wf, foldl_wf]

@[simp] theorem emptyStage_mem (panel idx) : (s.emptyStage panel idx).mem = s.mem := by
  unfold State.emptyStage
  grind [actionPosted_mem, setStage_mem, foldl_mem]

include hs in
theorem cancelCounter_wf (peer fuel idx) : (s.cancelCounter peer fuel idx).mem.wf = true := by
  fun_induction State.cancelCounter <;> grind [emptyStage_mem, setCounter_wf, retireCancelled_wf, cancelPick_wf, foldl_wf]

include hs in
theorem cancelJob_wf (peer) : (s.cancelJob peer).mem.wf = true := by
  unfold State.cancelJob
  grind [cancelCounter_wf, foldl_wf]

/-! ## Faults -/

@[simp] theorem sendMessage_mem (peer endpoint cls payload) : (s.sendMessage peer endpoint cls payload).mem = s.mem := rfl

include hs in
theorem writeVaPages_wf (p fuel va bs) : (s.writeVaPages p fuel va bs).mem.wf = true := by
  fun_induction State.writeVaPages <;> grind [writeSpan_wf]

include hs in
theorem writeVa_wf (p va bs) : (s.writeVa p va bs).mem.wf = true := by simp [State.writeVa, writeVaPages_wf, hs]

include hs in
theorem deliverRecord_wf (peer p bs) : (s.deliverRecord peer p bs).mem.wf = true := by
  unfold State.deliverRecord
  split <;> simp [writeVa_wf, hs]

include hs in
theorem writeRecord_wf (peer f r) : (s.writeRecord peer f r).1.mem.wf = true := by
  have hcount (u : State) (n g) : (State.modPart { u with freeIdx := n } peer g).mem = u.mem := modPart_mem ..
  unfold State.writeRecord
  split
  · exact hs
  · dsimp only
    refine deliverRecord_wf ?_ ..
    rw [hcount]
    exact writeVa_wf (writeVa_wf hs ..) ..

include hs in
theorem unitRecord_wf (peer unit f) : (s.unitRecord peer unit f).mem.wf = true := by simp [State.unitRecord, writeRecord_wf, hs]

@[simp] theorem moduleRecord_mem (unit f) : (s.moduleRecord unit f).mem = s.mem := by
  unfold State.moduleRecord
  split <;> simp

include hs in
theorem jobRecord_wf (peer unit f) : (s.jobRecord peer unit f).mem.wf = true := by
  unfold State.jobRecord
  grind [writeRecord_wf, cancelCounter_wf]

@[simp] theorem dropWalks_mem (loom ev) : (s.dropWalks loom ev).mem = s.mem := rfl

@[simp] theorem notePreempt_mem (peer launch) : (s.notePreempt peer launch).mem = s.mem := by simp [State.notePreempt]

@[simp] theorem dropPhases_mem (loom ev) : (s.dropPhases loom ev).mem = s.mem := rfl

include hs in
theorem raiseFor_wf (loom ev f) : (s.raiseFor loom ev f).mem.wf = true := by
  unfold State.raiseFor
  grind [writeRecord_wf, dropWalks_mem, notePreempt_mem, setCtxAt_mem, dropPhases_mem, cancelCounter_wf]

include hs in
theorem raiseAsync_wf (loom ev f) : (s.raiseAsync loom ev f).mem.wf = true := by simp [State.raiseAsync, raiseFor_wf, hs]

include hs in
theorem raisePrecise_wf (e lane word stream f) : (s.raisePrecise e lane word stream f).mem.wf = true := by
  unfold State.raisePrecise
  grind [setCtxAt_mem, raiseFor_wf]

include hs in
theorem raiseSequencer_wf (loom ev f) : (s.raiseSequencer loom ev f).mem.wf = true := by simp [State.raiseSequencer, raiseFor_wf, hs]

/-! ## Access -/

@[simp] theorem sendSpan_mem (loom ev peer a i sp) : (s.sendSpan loom ev peer a i sp).mem = s.mem := by
  cases hk : a.kind with
  | atomic op o => cases op <;> simp only [State.sendSpan, hk, request_mem]
  | _ => simp only [State.sendSpan, hk, request_mem]

@[simp] theorem joinSwitch_mem (switch target part) : (s.joinSwitch switch target part).1.mem = s.mem := by
  unfold State.joinSwitch
  grind

@[simp] theorem enterSwitch_mem (loom ev a) : (s.enterSwitch loom ev a).mem = s.mem := by
  unfold State.enterSwitch
  grind [setCtxAt_mem, joinSwitch_mem]

@[simp] theorem pumpAccess_mem (loom ev a) : (s.pumpAccess loom ev a).mem = s.mem := by
  unfold State.pumpAccess
  grind [setCtxAt_mem, enterSwitch_mem, sendSpan_mem, foldl_mem]

@[simp] theorem pump_mem (loom ev) : (s.pump loom ev).mem = s.mem := by
  unfold State.pump
  grind [pumpAccess_mem, foldl_mem]

@[simp] theorem joinAccess_mem (t c a) : (s.joinAccess t c a).mem = s.mem := by simp [State.joinAccess]

theorem issueAccess_mem {t c a ctr lat base} (h : s.issueAccess t c a ctr lat base = .ok u) : u.mem = s.mem := by
  unfold State.issueAccess at h
  grind [joinAccess_mem, bind_ok, pure_ok]

/-! ## Arrivals -/

@[simp] theorem reply_mem (peer cls code req status data) : (s.reply peer cls code req status data).mem = s.mem := rfl

include hs in
theorem treadleRecord_wf (peer panel cause d0 d1) : (s.treadleRecord peer panel cause d0 d1).mem.wf = true := by
  simp [State.treadleRecord, unitRecord_wf, hs]

include hs in
theorem stageRecord_wf (peer panel stage unit f) : (s.stageRecord peer panel stage unit f).mem.wf = true := by
  unfold State.stageRecord
  grind [writeRecord_wf, cancelCounter_wf]

include hs in
theorem fenceQueue_wf (peer panel stage q r va) : (s.fenceQueue peer panel stage q r va).mem.wf = true := by
  simp [State.fenceQueue, treadleRecord_wf, hs]

include hs in
theorem enqueue_wf (peer panel stage a) : (s.enqueue peer panel stage a).1.mem.wf = true := by
  unfold State.enqueue
  grind [fenceQueue_wf, writeSpan_wf, setStage_mem, treadleRecord_wf, stageRecord_wf]

include hs in
theorem postArrival_wf (peer panel stage a src) : (s.postArrival peer panel stage a src).1.mem.wf = true := by
  unfold State.postArrival
  grind [enqueue_wf, setStage_mem]

include hs in
theorem spillReturn_wf {panel stage q} (h : s.spillReturn panel stage q = some t) : t.mem.wf = true := by
  unfold State.spillReturn at h
  grind [readSpan_mem, fenceQueue_wf, setStage_mem, stageRecord_wf, Option.bind_eq_some_iff]

theorem spillFenceRetry_mem {panel stage q} (h : s.spillFenceRetry panel stage q = some t) : t.mem = s.mem := by
  unfold State.spillFenceRetry at h
  grind [setStage_mem, Option.bind_eq_some_iff]

include hs in
theorem arrivalWaits_wf (peer o) : (s.arrivalWaits peer o).mem.wf = true := by
  unfold State.arrivalWaits
  grind [enqueue_wf]

/-! ## Bobbin -/

@[simp] theorem bobDisarm_mem (h) : (s.bobDisarm h).1.mem = s.mem := by
  unfold State.bobDisarm
  split <;> simp

theorem armAt_mem {peer p d bolt sps} {r'} (h : s.armAt peer p d bolt sps = .ok r') : r'.1.mem = s.mem := by
  unfold State.armAt at h
  grind [setBobbin_mem, bind_ok, pure_ok]

include hs in
theorem actionFails_wf (k reason) : (s.actionFails k reason).mem.wf = true := by simp [State.actionFails, unitRecord_wf, hs]

@[simp] theorem actionRecords_mem (p k o) : (s.actionRecords p k o).1.mem = s.mem := by
  unfold State.actionRecords
  simp only []
  repeat' split
  all_goals grind [readSpan_mem, readSpans_mem]

@[simp] theorem deliverTasks_mem (peer bolt handle bs) : (s.deliverTasks peer bolt handle bs).mem = s.mem := rfl

include hs in
theorem postAction_wf {k} (h : s.postAction k = some t) : t.mem.wf = true := by
  unfold State.postAction at h
  grind [setBobbin_mem, postArrival_wf, actionRecords_mem, actionFails_wf, meetBarrier_mem, updateBarrier_wf, actionPosted_mem,
    deliverTasks_mem]

include hs in
theorem postActions_wf : s.postActions.mem.wf = true :=
  foldl_wf hs (fun _ _ hu => foldl_wf hu (fun _ _ hv => getD_wf hv fun _ => postAction_wf hv) _) _

@[simp] theorem heldPosted_mem (src) : (s.heldPosted src).mem = s.mem := by
  unfold State.heldPosted
  split <;> simp

include hs in
theorem heldArrivalPost_wf {panel stage q} (h : s.heldArrivalPost panel stage q = some t) : t.mem.wf = true := by
  unfold State.heldArrivalPost at h
  grind [enqueue_wf, heldPosted_mem, setStage_mem, Option.bind_eq_some_iff]

include hs in
theorem bobbinError_wf (k) : (s.bobbinError k).mem.wf = true := by
  unfold State.bobbinError
  grind [setBobbin_mem, unitRecord_wf]

/-! ## Cells -/

@[simp] theorem setCell_mem (pa cell) : (s.setCell pa cell).mem = s.mem := rfl

include hs in
theorem markLines_wf (head headVa ls) : (s.markLines head headVa ls).1.mem.wf = true := by
  fun_induction State.markLines <;> grind [setCell_mem, putPiece_wf, meetLine_mem, countWrite_mem]

@[simp] theorem takeSid_mem (peer) : (s.takeSid peer).1.mem = s.mem := by
  unfold State.takeSid
  split <;> simp

include hs in
theorem makeSuspension_wf (peer desc headVa sps) : (s.makeSuspension peer desc headVa sps).1.mem.wf = true := by
  simp [State.makeSuspension, markLines_wf, hs]

/-! ## Perform -/

@[simp] theorem finishAccess_mem (loom ev a v failed) : (s.finishAccess loom ev a v failed).mem = s.mem := by simp [State.finishAccess]

include hs in
theorem failAccess_wf (loom ev a f) : (s.failAccess loom ev a f).mem.wf = true := by simp [State.failAccess, raiseAsync_wf, hs]

@[simp] theorem putAccess_mem (loom ev a) : (s.putAccess loom ev a).mem = s.mem := rfl

@[simp] theorem loadSpans_mem (loom c fromL1 now) : (s.loadSpans loom c fromL1 now).1.mem = s.mem := by
  fun_induction State.loadSpans <;> grind [readSpans_mem, l1Fill_mem, foldl_mem]

include hs in
theorem atomicAt_wf (loom sp op o who) : (s.atomicAt loom sp op o who).1.mem.wf = true := by
  unfold State.atomicAt
  grind [readSpan_mem, l1Update_mem, writeSpan_wf]

include hs in
theorem barrierForm_wf (sp k) : (s.barrierForm sp k).1.mem.wf = true := by
  unfold State.barrierForm
  grind [setBarrier_wf, updateBarrier_wf]

include hs in
theorem barrierAt_wf (sp k) : (s.barrierAt sp k).1.mem.wf = true := by
  unfold State.barrierAt
  grind [barrierForm_wf, meetBarrier_mem]

include hs in
theorem objectAt_wf (loom ev sp k) : (s.objectAt loom ev sp k).1.mem.wf = true := by
  unfold State.objectAt
  split <;> simp [barrierAt_wf, atomicAt_wf, hs]

include hs in
theorem storeSpans_wf (loom c op data now) : (s.storeSpans loom c op data now).1.mem.wf = true := by
  fun_induction State.storeSpans <;> grind [l1Update_mem, writeRuns_wf, foldl_wf]

include hs in
theorem unitReturn_wf {loom ev a t} (h : s.unitReturn loom ev a = some t) : t.mem.wf = true := by
  unfold State.unitReturn at h
  cases hk : a.kind <;> rw [hk] at h
  case load => grind [finishAccess_mem]
  case value => grind [finishAccess_mem]
  case bobRead => grind [finishAccess_mem]
  case bobDisarm => grind [bobDisarm_mem, finishAccess_mem]
  case suspMk => grind [makeSuspension_wf, failAccess_wf, finishAccess_mem]
  case peek => grind [failAccess_wf, finishAccess_mem]
  all_goals cases h

include hs in
theorem loadReturn_wf {loom ev id fromL1 part} (h : s.loadReturn loom ev id fromL1 part = some t) : t.mem.wf = true := by
  unfold State.loadReturn at h
  simp only [Option.bind_eq_some_iff] at h
  grind [pump_mem, objectAt_wf, failAccess_wf, unitReturn_wf, putAccess_mem, finishAccess_mem, loadSpans_mem, bind_ok, pure_ok,
    Option.map_eq_some_iff, Option.bind_eq_some_iff]

@[simp] theorem stored_mem (loom ev a) : (s.stored loom ev a).mem = s.mem := by
  unfold State.stored
  grind [pump_mem, putAccess_mem, finishAccess_mem, countWrite_mem]

include hs in
theorem writeAck_wf {loom ev id part} (h : s.writeAck loom ev id part = some t) : t.mem.wf = true := by
  unfold State.writeAck at h
  simp only [Option.bind_eq_some_iff] at h
  grind [storeSpans_wf, objectAt_wf, failAccess_wf, stored_mem, finishAccess_mem, countWrite_mem, bind_ok, pure_ok,
    Option.map_eq_some_iff, Option.bind_eq_some_iff]

include hs in
theorem multicastLand_wf {loom ev id} (h : s.multicastLand loom ev id = some t) : t.mem.wf = true := by
  unfold State.multicastLand at h
  grind [failAccess_wf, finishAccess_mem, writeSpans_wf, Option.bind_eq_some_iff]

@[simp] theorem startWalk_mem (panel peer page who) : (s.startWalk panel peer page who).mem = s.mem := by
  unfold State.startWalk
  split <;> simp

@[simp] theorem requestWalk_mem (panel w peer va) : (s.requestWalk panel w peer va).mem = s.mem := by
  unfold State.requestWalk
  grind [setPanel_mem, startWalk_mem]

@[simp] theorem nextWalks_mem (panel) : (s.nextWalks panel).mem = s.mem := by
  unfold State.nextWalks
  grind [setPanel_mem, startWalk_mem]

theorem pageWalk_mem {panel walk} (h : s.pageWalk panel walk = some t) : t.mem = s.mem := by
  unfold State.pageWalk at h
  grind [setPanel_mem, setBolt_mem, nextWalks_mem, meetError_mem, foldl_mem, bind_ok, pure_ok, Option.map_eq_some_iff,
    Option.bind_eq_some_iff]

/-! ## Sync -/

@[simp] theorem acquireSeen_mem (loom peer x) : (s.acquireSeen loom peer x).mem = s.mem := rfl

theorem barrierOp_mem {t c a st k dest after} (h : s.barrierOp t c a st k dest after = .ok u) : u.mem = s.mem := by
  unfold State.barrierOp at h
  grind [issueAccess_mem, bind_ok, pure_ok]

@[simp] theorem acquireFlip_mem (loom peer obj bar phase) : (s.acquireFlip loom peer obj bar phase).mem = s.mem := rfl

include hs in
theorem setTimedOut_wf (loom peer raw) : (s.setTimedOut loom peer raw).mem.wf = true := by
  unfold State.setTimedOut
  split <;> simp [setBarrier_wf, hs]

include hs in
theorem barrierTimeout_wf {loom ev} (h : s.barrierTimeout loom ev = some t) : t.mem.wf = true := by
  unfold State.barrierTimeout at h
  grind [raisePrecise_wf, setTimedOut_wf, Option.map_eq_some_iff]

/-! ## Sequencer -/

include hs in
theorem completeLine_wf (e l) : (s.completeLine e l).mem.wf = true := by
  unfold State.completeLine
  grind [raiseSequencer_wf, setCtxAt_mem]

include hs in
theorem endLine_wf {e l} (h : s.endLine e l = .ok t) : t.mem.wf = true := by
  unfold State.endLine at h
  grind [completeLine_wf, setCtxAt_mem, bind_ok, pure_ok]

include hs in
theorem raiseIf_wf {loom ev f} (h : s.raiseIf loom ev f = some t) : t.mem.wf = true := by
  unfold State.raiseIf at h
  grind [raiseSequencer_wf, Option.map_eq_some_iff]

include hs in
theorem checkStandstill_wf (e) : (s.checkStandstill e).mem.wf = true := by
  unfold State.checkStandstill
  refine getD_wf hs fun t h => ?_
  rcases Option.or_eq_some_iff.mp h with h | ⟨-, h⟩
  · exact raiseIf_wf hs h
  · exact raiseIf_wf hs h

@[simp] theorem parkAt_mem (e pa phase raw) : (s.parkAt e pa phase raw).mem = s.mem := by
  unfold State.parkAt
  grind [setCtxAt_mem]

@[simp] theorem fetchOperand_mem (e st a len) : (s.fetchOperand e st a len).mem = s.mem := by
  unfold State.fetchOperand
  grind [pump_mem, setCtxAt_mem]

include hs in
theorem waitEffect_wf (e w) : (s.waitEffect e w).mem.wf = true := by
  unfold State.waitEffect
  grind [arrivalWaits_wf, fetchOperand_mem, setCtxAt_mem, parkAt_mem, requestWalk_mem]

include hs in
theorem hold_wf (e w) : (s.hold e w).mem.wf = true := by simp [State.hold, checkStandstill_wf, waitEffect_wf, hs]

include hs in
theorem laneFault_wf (e o f) : (s.laneFault e o f).mem.wf = true := by simp [State.laneFault, raisePrecise_wf, hs]

include hs in
theorem afterLanes_wf (e l) : (s.afterLanes e l).mem.wf = true := by
  unfold State.afterLanes
  grind [raisePrecise_wf, endLine_wf, setCtxAt_mem, hold_wf]

@[simp] theorem spendShare_mem (t : State) (e) : (s.spendShare t e).mem = t.mem := by
  unfold State.spendShare
  simp only []
  repeat' split
  all_goals simp

include hs in
theorem safeptOverrun_wf {loom ev e} (h : s.safeptOverrun loom ev e = some t) : t.mem.wf = true := by
  unfold State.safeptOverrun at h
  grind [raiseSequencer_wf]

theorem resultLand_mem {loom ev e} (h : s.resultLand loom ev e = some t) : t.mem = s.mem := by
  unfold State.resultLand at h
  grind [setCtxAt_mem]

theorem declaredCompletion_mem {loom ev} (h : s.declaredCompletion loom ev = some t) : t.mem = s.mem := by
  unfold State.declaredCompletion at h
  grind [setCtxAt_mem]

/-! ## Area -/

include hs in
theorem putPieces_wf (p base ps) : (s.putPieces p base ps).mem.wf = true := by
  unfold State.putPieces
  grind [writeVa_wf, foldl_wf]

include hs in
theorem writeFrame_wf (loom ev st) : (s.writeFrame loom ev st).mem.wf = true := by
  unfold State.writeFrame
  grind [putPieces_wf, setCtxAt_mem]

include hs in
theorem handledEntry_wf {loom ev} (h : s.handledEntry loom ev = some t) : t.mem.wf = true := by
  unfold State.handledEntry at h
  grind [setCtxAt_mem, writeFrame_wf]

include hs in
theorem unhandledStop_wf {loom ev} (h : s.unhandledStop loom ev = some t) : t.mem.wf = true := by
  unfold State.unhandledStop at h
  grind [setCtxAt_mem, writeFrame_wf, Option.map_eq_some_iff, Option.bind_eq_some_iff]

include hs in
theorem savePieces_wf (who sps ps) : (s.savePieces who sps ps).1.mem.wf = true := by
  fun_induction State.savePieces <;> grind [writeSpans_wf]

include hs in
theorem preemptSave_wf {loom t} (h : s.preemptSave loom = some t) : t.mem.wf = true := by
  unfold State.preemptSave at h
  extract_lets c at h
  split at h
  · split at h
    · cases h
    · obtain rfl := Option.some.inj h
      rw [setCtxAt_mem, modPart_mem]
      exact putPieces_wf (putPieces_wf hs ..) ..
  · cases h

include hs in
theorem unpark_wf {loom} (h : s.unpark loom = .ok t) : t.mem.wf = true := by
  unfold State.unpark at h
  grind [setCtxAt_mem, writeVa_wf, bind_ok, pure_ok]

/-! ## Command -/

include hs in
theorem countFor_wf (peer bar n fl runs) : (s.countFor peer bar n fl runs).1.mem.wf = true := by
  unfold State.countFor
  grind [countBarrier_wf]

@[simp] theorem modCopy_mem (loom ev id f) : (s.modCopy loom ev id f).mem = s.mem := rfl

@[simp] theorem finishCopy_mem (loom ev id) : (s.finishCopy loom ev id).mem = s.mem := by simp [State.finishCopy]

include hs in
theorem failCopy_wf (loom ev k f) : (s.failCopy loom ev k f).mem.wf = true := by simp [State.failCopy, raiseAsync_wf, hs]

@[simp] theorem modAccOp_mem (loom ev id f) : (s.modAccOp loom ev id f).mem = s.mem := rfl

@[simp] theorem finishAccOp_mem (loom ev id) : (s.finishAccOp loom ev id).mem = s.mem := by simp [State.finishAccOp]

/-! ## Bob -/

theorem bobArm_mem {t c ra st p d sps lat u} (h : s.bobArm t c ra st p d sps lat = .ok u) : u.mem = s.mem := by
  unfold State.bobArm at h
  split at h
  · cases h
  next v x hv => exact (issueAccess_mem h).trans (armAt_mem hv)

theorem bobOp_mem {t c ra h st k} (h : s.bobOp t c ra h st k = .ok u) : u.mem = s.mem := by
  unfold State.bobOp at h
  grind [issueAccess_mem, bind_ok, pure_ok]

/-! ## Slice -/

include hs in
theorem overflowPut_wf {n u k} (h : s.overflowPut n u k = .ok t) : t.mem.wf = true := by
  unfold State.overflowPut at h
  grind [setTile_mem, writeRuns_wf, bind_ok, pure_ok]

@[simp] theorem readBack_mem (n k) : (s.readBack n k).1.mem = s.mem := by
  unfold State.readBack
  grind [readSpan_mem]

include hs in
theorem contribute_wf {n k} (h : s.contribute n k = .ok t) : t.mem.wf = true := by
  unfold State.contribute at h
  grind [overflowPut_wf, setTile_mem, bind_ok, pure_ok]

@[simp] theorem modTask_mem (b id f) : (s.modTask b id f).mem = s.mem := rfl

@[simp] theorem notePickFlags_mem (loom ev fl) : (s.notePickFlags loom ev fl).mem = s.mem := rfl

@[simp] theorem dropTask_mem (b t) : (s.dropTask b t).mem = s.mem := by
  unfold State.dropTask
  split <;> simp

include hs in
theorem taskFault_wf (b t f) : (s.taskFault b t f).mem.wf = true := by
  unfold State.taskFault
  split <;> simp [raiseAsync_wf, unitRecord_wf, hs]

include hs in
theorem failTask_wf (b t f) : (s.failTask b t f).mem.wf = true := by simp [State.failTask, taskFault_wf, hs]

include hs in
theorem refuse_wf (k f) : (s.refuse k f).mem.wf = true := by
  unfold State.refuse
  grind [answer_mem, failCopy_wf, failTask_wf]

include hs in
theorem mergedFor_wf (int k fl runs) : (s.mergedFor int k fl runs).mem.wf = true := by
  unfold State.mergedFor
  split
  · rw [modTask_mem]; exact hs
  · split
    · exact hs
    · extract_lets n src
      clear_value src
      grind [countFor_wf, failCopy_wf, finishCopy_mem, modCopy_mem, notePickFlags_mem]
  · grind [answer_mem]
  · exact hs

theorem mergeInto_wf (int pa m fl xs) (hm : m.wf = true) : (mergeInto int pa m fl xs).1.wf = true := by
  induction xs generalizing pa m fl with
  | nil => exact hm
  | cons x xs ih => exact ih _ _ _ (writeLE_wf _ _ _ hm)

include hs in
theorem mergeBytes_wf (n int k) : (s.mergeBytes n int k).1.mem.wf = true := by
  unfold State.mergeBytes
  extract_lets t len
  split
  · exact mergeInto_wf _ _ _ _ _ hs
  · exact writeN_wf _ _ hs

include hs in
theorem mergeAt_wf {n pos} (h : s.mergeAt n pos = some t) : t.mem.wf = true := by
  unfold State.mergeAt at h
  grind [readSpan_mem, mergeBytes_wf, refuse_wf, setTile_mem, readBack_mem, mergedFor_wf, bind_ok, pure_ok, Option.map_eq_some_iff,
    Option.bind_eq_some_iff]

@[simp] theorem queueAccOp_mem (t c o) : (s.queueAccOp t c o).mem = s.mem := rfl

include hs in
theorem zeroRange_wf (pa n) : (s.zeroRange pa n).mem.wf = true := filter_wf _ hs

include hs in
theorem failAccOp_wf (loom ev o f) : (s.failAccOp loom ev o f).mem.wf = true := by simp [State.failAccOp, raiseAsync_wf, hs]

@[simp] theorem askSlots_mem (loom ev o) : (s.askSlots loom ev o).mem = s.mem := by
  unfold State.askSlots
  grind [modAccOp_mem, request_mem, foldl_mem]

include hs in
theorem applyInit_wf {loom ev id} (h : s.applyInit loom ev id = some t) : t.mem.wf = true := by
  unfold State.applyInit at h
  grind [askSlots_mem, failAccOp_wf, zeroRange_wf, finishAccOp_mem, setTile_mem, Option.map_eq_some_iff, Option.bind_eq_some_iff]

include hs in
theorem rowDone_wf (loom ev id row runs) : (s.rowDone loom ev id row runs).mem.wf = true := by
  unfold State.rowDone
  grind [failAccOp_wf, modAccOp_mem, finishAccOp_mem, countFor_wf, notePickFlags_mem]

@[simp] theorem sendWrite_mem (src peer loom ev st owner sp bs) : (s.sendWrite src peer loom ev st owner sp bs).mem = s.mem := by
  simp [State.sendWrite]

include hs in
theorem writeRows_wf (loom ev peer o data w now) : (s.writeRows loom ev peer o data w now).1.mem.wf = true := by
  fun_induction State.writeRows <;> grind [modAccOp_mem, sendWrite_mem, rowDone_wf, writeSpans_wf, foldl_wf]

include hs in
theorem tileDrain_wf {loom ev id} (h : s.tileDrain loom ev id = some t) : t.mem.wf = true := by
  unfold State.tileDrain at h
  grind [readSpan_mem, failAccOp_wf, modAccOp_mem, setTile_mem, writeRows_wf, Option.map_eq_some_iff, Option.bind_eq_some_iff]

include hs in
theorem drainTimeout_wf {loom ev id} (h : s.drainTimeout loom ev id = some t) : t.mem.wf = true := by
  unfold State.drainTimeout at h
  grind [failAccOp_wf, Option.map_eq_some_iff, Option.bind_eq_some_iff]

/-! ## Matrix -/

include hs in
theorem cancelTask_wf (b t) : (s.cancelTask b t).mem.wf = true := by
  unfold State.cancelTask
  grind [pump_mem, setCtxAt_mem, taskFault_wf, countFor_wf, modTask_mem]

include hs in
theorem sendNothing_wf (b t) : (s.sendNothing b t).mem.wf = true := by
  unfold State.sendNothing
  grind [setBolt_mem, taskFault_wf, contribute_wf]

include hs in
theorem flushCancelled_wf : (s.flushCancelled).mem.wf = true := by
  unfold State.flushCancelled
  grind [sendNothing_wf, foldl_wf]

include hs in
theorem refuseRecord_wf (b t) : (s.refuseRecord b t).mem.wf = true := by simp [State.refuseRecord, unitRecord_wf, hs]

include hs in
theorem advanceDelivered_wf {b t} (h : s.advanceDelivered b t = some u) : u.mem.wf = true := by
  unfold State.advanceDelivered at h
  grind [refuseRecord_wf, requestWalk_mem, modTask_mem]

include hs in
theorem schedulerStart_wf {b t} (h : s.schedulerStart b = some t) : t.mem.wf = true := by
  unfold State.schedulerStart at h
  simp only [] at h
  split at h
  next u hu =>
    obtain rfl := Option.some.inj h
    obtain ⟨r, -, hr⟩ := List.exists_of_findSome?_eq_some hu
    exact advanceDelivered_wf hs hr
  · split at h
    next e r he hr =>
      obtain rfl := Option.some.inj h
      have hu : (s.modTask b r.id fun _ => { r with engine := some e }).mem.wf = true := by rw [modTask_mem]; exact hs
      split
      · exact hu
      · exact getD_wf hu fun _ => advanceDelivered_wf hu
    · cases h

include hs in
theorem partialDone_wf {b e} (h : s.partialDone b e = some t) : t.mem.wf = true := by
  unfold State.partialDone at h
  grind [pump_mem, readSpans_mem, failTask_wf, setCtxAt_mem, contribute_wf, modTask_mem, Option.bind_eq_some_iff]

include hs in
theorem taskRetire_wf {b id} (h : s.taskRetire b id = some t) : t.mem.wf = true := by
  unfold State.taskRetire at h
  grind [dropTask_mem, failTask_wf, countFor_wf, notePickFlags_mem, Option.bind_eq_some_iff]

/-! ## Copy -/

theorem queueCopy_mem {t c load k bar p1 p2 bytes lat} (h : s.queueCopy t c load k bar p1 p2 bytes lat = .ok u) : u.mem = s.mem := by
  unfold State.queueCopy at h
  grind [setCtx_mem, bind_ok, pure_ok]

theorem copyPlain_mem {t c maj op kind ra rb st len dlen ab p1 p2} (h : s.copyPlain t c maj op kind ra rb st len dlen ab p1 p2 = .ok u) :
    u.mem = s.mem := by
  unfold State.copyPlain at h
  simp only [bind_ok] at h
  grind [queueCopy_mem, bind_ok, pure_ok]

theorem queueUnnumbered_mem {t c k bar} (h : s.queueUnnumbered t c k bar = .ok u) : u.mem = s.mem := by
  unfold State.queueUnnumbered at h
  grind [setCtx_mem, bind_ok, pure_ok]

@[simp] theorem gatherSource_mem (c k sps) : (s.gatherSource c k sps).1.mem = s.mem := by
  fun_induction State.gatherSource <;> grind [readSpans_mem]

@[simp] theorem askSource_mem (loom ev k upto) : (s.askSource loom ev k upto).mem = s.mem := by
  unfold State.askSource
  grind [modCopy_mem, request_mem, foldl_mem]

theorem fetchUnit_sent {loom ev k n u} (h : s.fetchUnit loom ev k n = .sent u) : u.mem = s.mem := by
  unfold State.fetchUnit at h
  grind [askSource_mem]

theorem fetchUnit_fault {loom ev k n u f} (h : s.fetchUnit loom ev k n = .fault u f) : u.mem = s.mem := by
  unfold State.fetchUnit at h
  grind [gatherSource_mem]

theorem fetchUnit_bytes {loom ev k n u bs} (h : s.fetchUnit loom ev k n = .bytes u bs) : u.mem = s.mem := by
  unfold State.fetchUnit at h
  grind [gatherSource_mem, modCopy_mem]

include hs in
theorem copyWrote_wf (loom ev id n runs fl) : (s.copyWrote loom ev id n runs fl).mem.wf = true := by
  unfold State.copyWrote
  grind [failCopy_wf, finishCopy_mem, modCopy_mem, countFor_wf, notePickFlags_mem]

include hs in
theorem putChunk_wf (loom ev k data base sp) : (s.putChunk loom ev k data base sp).1.mem.wf = true := by
  unfold State.putChunk
  grind [countWrite_mem, writeRuns_wf]

include hs in
theorem putChunks_wf (loom ev k data base sps) : (s.putChunks loom ev k data base sps).1.mem.wf = true := by
  fun_induction State.putChunks <;> grind [putChunk_wf, copyWrote_wf]

include hs in
theorem copyOut_wf (loom ev k base data) : (s.copyOut loom ev k base data).mem.wf = true := by
  unfold State.copyOut
  grind [putChunks_wf, failCopy_wf, sendWrite_mem, foldl_wf]

include hs in
theorem reduceMemory_wf (ty sp vs who) : (s.reduceMemory ty sp vs who).1.mem.wf = true := by
  unfold State.reduceMemory
  grind [readSpan_mem, writeSpan_wf, writeN_wf, writeLE_wf]

include hs in
theorem reduceHere_wf (ty sp k who) : (s.reduceHere ty sp k who).1.mem.wf = true := by
  unfold State.reduceHere
  grind [reduceMemory_wf, contribute_wf]

include hs in
theorem redStep_wf {loom ev k ty t} (h : s.redStep loom ev k ty = some t) : t.mem.wf = true := by
  unfold State.redStep at h
  split at h
  next wd ws hw =>
  extract_lets at' left at h
  split at h
  · cases h
  · split at h
    · grind [fetchUnit_sent, fetchUnit_fault, fetchUnit_bytes, failCopy_wf, request_mem]
    · grind [fetchUnit_sent, fetchUnit_fault, fetchUnit_bytes, failCopy_wf, reduceHere_wf, mergedFor_wf]

include hs in
theorem csumStep_wf {loom ev k t} (h : s.csumStep loom ev k = some t) : t.mem.wf = true := by
  unfold State.csumStep at h
  grind [fetchUnit_sent, fetchUnit_fault, fetchUnit_bytes, failCopy_wf, copyOut_wf, modCopy_mem]

include hs in
theorem plainStep_wf {loom ev k t} (h : s.plainStep loom ev k = some t) : t.mem.wf = true := by
  unfold State.plainStep at h
  grind [fetchUnit_sent, fetchUnit_fault, fetchUnit_bytes, failCopy_wf, copyOut_wf]

@[simp] theorem slotWritten_mem (peer rch va n) : (s.slotWritten peer rch va n).mem = s.mem := by simp [State.slotWritten]

include hs in
theorem sendStep_wf {loom ev k ch t} (h : s.sendStep loom ev k ch = some t) : t.mem.wf = true := by
  unfold State.sendStep at h
  grind [fetchUnit_sent, fetchUnit_fault, fetchUnit_bytes, failCopy_wf, copyOut_wf, modPart_mem, request_mem, slotWritten_mem]

include hs in
theorem startSend_wf {loom ev k ch} (h : s.startSend loom ev k ch = some t) : t.mem.wf = true := by
  unfold State.startSend at h
  grind [setPart_mem, failCopy_wf, modCopy_mem]

include hs in
theorem copyStart_wf {loom ev storeQ} (h : s.copyStart loom ev storeQ = some t) : t.mem.wf = true := by
  unfold State.copyStart at h
  grind [startSend_wf, setBolt_mem, modCopy_mem, Option.bind_eq_some_iff]

@[simp] theorem popDecoder_mem (b) : (s.popDecoder b).mem = s.mem := rfl

@[simp] theorem endFaulted_mem (loom ev id) : (s.endFaulted loom ev id).mem = s.mem := by
  unfold State.endFaulted
  grind [finishCopy_mem]

include hs in
theorem decoderFault_wf (b loom ev k f readOn) : (s.decoderFault b loom ev k f readOn).mem.wf = true := by
  simp [State.decoderFault, raiseAsync_wf, hs]

include hs in
theorem tableStep_wf {b loom ev k slot t} (h : s.tableStep b loom ev k slot = some t) : t.mem.wf = true := by
  unfold State.tableStep at h
  grind [fetchUnit_sent, fetchUnit_fault, fetchUnit_bytes, setBolt_mem, failCopy_wf, popDecoder_mem, finishCopy_mem]

include hs in
theorem feedStep_wf {loom ev k t} (h : s.feedStep loom ev k = some t) : t.mem.wf = true := by
  unfold State.feedStep at h
  grind [fetchUnit_sent, fetchUnit_fault, fetchUnit_bytes, modCopy_mem, endFaulted_mem, decoderFault_wf, setBolt_mem]

include hs in
theorem decodeStep_wf {b loom ev k slot t} (h : s.decodeStep b loom ev k slot = some t) : t.mem.wf = true := by
  unfold State.decodeStep at h
  extract_lets bo at' bad hdr elen dlen reserved next lastBlock out at h
  have hbad (c d) : (bad c d).mem.wf = true := decoderFault_wf hs ..
  clear_value bad
  split at h
  · cases h
  split at h
  · grind
  split at h
  · grind
  · grind [setBolt_mem, popDecoder_mem, modCopy_mem]

include hs in
theorem bankWrite_wf {b} (h : s.bankWrite b = some t) : t.mem.wf = true := by
  unfold State.bankWrite at h
  grind [putChunks_wf, setBolt_mem, failCopy_wf, popDecoder_mem, endFaulted_mem, Option.bind_eq_some_iff]

include hs in
theorem decoderBlock_wf {b write} (h : s.decoderBlock b write = some t) : t.mem.wf = true := by
  unfold State.decoderBlock at h
  grind [bankWrite_wf, tableStep_wf, popDecoder_mem, decodeStep_wf, Option.bind_eq_some_iff]

include hs in
theorem chunkStep_wf {loom ev k} (h : s.chunkStep loom ev k = some t) : t.mem.wf = true := by
  unfold State.chunkStep at h
  grind [feedStep_wf, sendStep_wf, redStep_wf, plainStep_wf, csumStep_wf]

include hs in
theorem copyChunk_wf {loom ev id} (h : s.copyChunk loom ev id = some t) : t.mem.wf = true := by
  unfold State.copyChunk at h
  grind [chunkStep_wf, setCtxAt_mem, Option.map_eq_some_iff, Option.bind_eq_some_iff]

/-! ## Serve -/

include hs in
theorem serveReduce_wf (p i) : (s.serveReduce p i).mem.wf = true := by
  unfold State.serveReduce
  grind [answer_mem, reduceHere_wf, modIncoming_mem]

include hs in
theorem serveWrite_wf (i sps) : (s.serveWrite i sps).mem.wf = true := by
  unfold State.serveWrite
  grind [answer_mem, slotWritten_mem, writeSpans_wf]

@[simp] theorem joinFar_mem (i sp) : (s.joinFar i sp).1.mem = s.mem := by
  unfold State.joinFar
  grind [joinSwitch_mem, modIncoming_mem]

include hs in
theorem serveLoad_wf (i sps) : (s.serveLoad i sps).mem.wf = true := by
  unfold State.serveLoad
  grind [answer_mem, readSpans_mem, atomicAt_wf, joinFar_mem]

include hs in
theorem serve_wf (port key) : (s.serve port key).mem.wf = true := by
  unfold State.serve
  grind [answer_mem, serveLoad_wf, serveWrite_wf, serveReduce_wf]

/-! ## Suspend -/

include hs in
theorem refuseMake_wf {t c ra st head n} (h : s.refuseMake t c ra st head n = .ok u) : u.mem.wf = true := by
  unfold State.refuseMake at h
  grind [issueAccess_mem, failAccess_wf, bind_ok, pure_ok]

include hs in
theorem dropPick_wf (peer x) : (s.dropPick peer x).mem.wf = true := by
  unfold State.dropPick
  grind [retireChild_wf, foldl_wf]

include hs in
theorem failStash_wf (o f) : (s.failStash o f).mem.wf = true := by
  unfold State.failStash
  grind [raiseAsync_wf, dropPick_wf, unitRecord_wf, stageRecord_wf]

include hs in
theorem failLoader_wf (loom ev who f) : (s.failLoader loom ev who f).mem.wf = true := by
  unfold State.failLoader
  grind [answer_mem, failCopy_wf, failStash_wf, failAccess_wf]

@[simp] theorem modEval_mem (head f) : (s.modEval head f).mem = s.mem := rfl

theorem queueEval_mem {loom e} (h : s.queueEval loom e = some t) : t.mem = s.mem := by
  unfold State.queueEval at h
  grind [setLoom_mem, modEval_mem]

@[simp] theorem placeHome_mem (e avoid) : (s.placeHome e avoid).mem = s.mem := by
  unfold State.placeHome
  split
  next u h =>
    obtain ⟨l, -, h⟩ := Option.bind_eq_some_iff.mp h
    exact queueEval_mem h
  · rw [modEval_mem]

include hs in
theorem placeNamed_wf (p e d) : (s.placeNamed p e d).mem.wf = true := by
  unfold State.placeNamed
  split <;> simp [postArrival_wf, hs]

@[simp] theorem placeHeld_mem : s.placeHeld.mem = s.mem := by
  refine foldl_mem (fun u r => ?_) _ _
  split
  · split
    next v h =>
      obtain ⟨l, -, h⟩ := Option.bind_eq_some_iff.mp h
      exact queueEval_mem h
    · rfl
  · rfl

include hs in
theorem orphan_wf (loom ev who pa va) : (s.orphan loom ev who pa va).mem.wf = true := by simp [State.orphan, failLoader_wf, hs]

include hs in
theorem trigger_wf (loom ev who p peer head headVa d ls) : (s.trigger loom ev who p peer head headVa d ls).mem.wf = true := by
  have hmark : (ls.foldl (fun s l => s.setCell l.1.pa 2) s).mem.wf = true := by
    rw [foldl_mem (fun _ _ => setCell_mem ..)]
    exact hs
  unfold State.trigger
  extract_lets _ _ _ _ u _ v _ _ w
  have hw : w.mem.wf = true := writeLE_wf _ _ _ hmark
  clear_value w
  grind [placeNamed_wf, placeHome_mem, queueEval_mem]

include hs in
theorem loaderArrival_wf {loom ev who} (h : s.loaderArrival loom ev who = some t) : t.mem.wf = true := by
  unfold State.loaderArrival at h
  grind [failLoader_wf, orphan_wf, trigger_wf, Option.map_eq_some_iff, Option.bind_eq_some_iff]

include hs in
theorem answerWaiter_wf (w) : (s.answerWaiter w).mem.wf = true := by
  unfold State.answerWaiter
  extract_lets u
  have hu : u.mem.wf = true := hs
  clear_value u
  split
  · refine getD_wf hu fun t h => ?_
    rcases Option.or_eq_some_iff.mp h with h | ⟨-, h⟩
    · exact loadReturn_wf hu h
    · exact writeAck_wf hu h
  · exact getD_wf hu fun _ => copyChunk_wf hu
  · exact serve_wf hu ..
  · exact hu

include hs in
theorem regionFilled_wf (r) : (s.regionFilled r).mem.wf = true := by
  unfold State.regionFilled
  grind [answerWaiter_wf, foldl_wf]

include hs in
theorem restoreRegion_wf (r) : (s.restoreRegion r).mem.wf = true := by
  unfold State.restoreRegion
  grind [setCell_mem, writeN_wf, writeLE_wf, foldl_wf]

include hs in
theorem evaluationFails_wf (r) : (s.evaluationFails r).mem.wf = true := by
  unfold State.evaluationFails
  grind [failLoader_wf, restoreRegion_wf, failStash_wf, unitRecord_wf, foldl_wf]

include hs in
theorem failEvaluations_wf : (s.failEvaluations).mem.wf = true := by
  unfold State.failEvaluations
  grind [evaluationFails_wf, foldl_wf]

theorem evaluationStart_mem {loom} (h : s.evaluationStart loom = some t) : t.mem = s.mem := by
  unfold State.evaluationStart at h
  grind [setLoom_mem]

include hs in
theorem fillLine_wf {loom ev id t} (h : s.fillLine loom ev id = some t) : t.mem.wf = true := by
  unfold State.fillLine at h
  obtain ⟨k, -, h⟩ := Option.bind_eq_some_iff.mp h
  split at h
  · cases h
  split at h
  · cases h
  · grind [fetchUnit_sent]
  · grind [fetchUnit_fault, failCopy_wf]
  next u bs hu =>
    have hu : u.mem.wf = true := by rw [fetchUnit_bytes hu]; exact hs
    grind [setCell_mem, regionFilled_wf, putPiece_wf, failCopy_wf, meetLine_mem, copyWrote_wf, countWrite_mem]

include hs in
theorem suspensionLimit_wf {loom ev id} (h : s.suspensionLimit loom ev id = some t) : t.mem.wf = true := by
  unfold State.suspensionLimit at h
  grind [failLoader_wf, modEval_mem, Option.map_eq_some_iff]

/-! ## Stash -/

@[simp] theorem putEntry_mem (o e) : (s.putEntry o e).mem = s.mem := rfl

@[simp] theorem modStash_mem (id f) : (s.modStash id f).mem = s.mem := rfl

include hs in
theorem endStash_wf (o n runs) : (s.endStash o n runs).mem.wf = true := by
  unfold State.endStash
  grind [failStash_wf, countFor_wf]

include hs in
theorem packPieces_wf (spans ps) : (s.packPieces spans ps).1.mem.wf = true := by
  fun_induction State.packPieces <;> grind [readSpans_mem, writeSpan_wf]

include hs in
theorem movePieces_wf (who source dst ps) : (s.movePieces who source dst ps).1.mem.wf = true := by
  fun_induction State.movePieces <;> grind [readSpans_mem, writeSpans_wf]

include hs in
theorem suspendRegion_wf (p o region len place' arg spans) : (s.suspendRegion p o region len place' arg spans).1.mem.wf = true := by
  unfold State.suspendRegion
  grind [makeSuspension_wf]

theorem stashHeld_mem {o spans} (h : s.stashHeld o spans = some t) : t.mem = s.mem := by
  unfold State.stashHeld at h
  grind [modStash_mem]

include hs in
theorem stashPut_wf {p o t} (h : s.stashPut p o = some t) : t.mem.wf = true := by
  unfold State.stashPut at h
  split at h
  · grind [failStash_wf]
  split at h
  · grind [failStash_wf]
  split at h
  · grind [endStash_wf, putEntry_mem]
  split at h
  · grind [failStash_wf]
  split at h
  · grind [failStash_wf, suspendRegion_wf, endStash_wf, putEntry_mem]
  · grind [failStash_wf, endStash_wf, putEntry_mem, packPieces_wf, stashHeld_mem]

include hs in
theorem stashDrop_wf {p o} (h : s.stashDrop p o = some t) : t.mem.wf = true := by
  unfold State.stashDrop at h
  grind [failStash_wf, suspendRegion_wf, endStash_wf, putEntry_mem]

include hs in
theorem fetchDropped_wf {p o e spans} (h : s.fetchDropped p o e spans = some t) : t.mem.wf = true := by
  unfold State.fetchDropped at h
  grind [orphan_wf, trigger_wf, endStash_wf, modStash_mem]

include hs in
theorem fetchBytes_wf {p o e loom dest} (h : s.fetchBytes p o e loom dest = some t) : t.mem.wf = true := by
  unfold State.fetchBytes at h
  grind [failStash_wf, endStash_wf, putEntry_mem, stashHeld_mem, countFor_wf, movePieces_wf, Option.map_eq_some_iff]

include hs in
theorem stashFetch_wf {p o} (h : s.stashFetch p o = some t) : t.mem.wf = true := by
  unfold State.stashFetch at h
  grind [failStash_wf, fetchBytes_wf, fetchDropped_wf, endStash_wf]

include hs in
theorem zeroLine_wf (x) : (s.zeroLine x).mem.wf = true := by
  unfold State.zeroLine
  split <;> simp [writeN_wf, hs]

include hs in
theorem stashFree_wf {p o} (h : s.stashFree p o = some t) : t.mem.wf = true := by
  unfold State.stashFree at h
  grind [failStash_wf, endStash_wf, putEntry_mem, zeroLine_wf, foldl_wf]

include hs in
theorem stashAction_wf {panel id} (h : s.stashAction panel id = some t) : t.mem.wf = true := by
  unfold State.stashAction at h
  grind [stashPut_wf, stashFree_wf, stashDrop_wf, stashFetch_wf, Option.bind_eq_some_iff]

@[simp] theorem acceptStash_mem (o) : (s.acceptStash o).mem = s.mem := rfl

theorem stashCommand_mem {t c kind rb st ab f} (h : s.stashCommand t c kind rb st ab f = .ok u) : u.mem = s.mem := by
  unfold State.stashCommand at h
  grind [acceptStash_mem, setCtx_mem, bind_ok, pure_ok]

/-! ## Treadle -/

@[simp] theorem freeBytes_mem (n) : (s.freeBytes n).1.mem = s.mem := rfl

@[simp] theorem descriptorAt_mem (p va) : (s.descriptorAt p va).1.mem = s.mem := by
  unfold State.descriptorAt
  split <;> simp

include hs in
theorem startPick_wf {peer p panel stage r i g} (h : s.startPick peer p panel stage r i g = some t) : t.mem.wf = true := by
  unfold State.startPick at h
  grind [newCounter_wf, descriptorAt_mem, setStage_mem, acceptStash_mem, modPart_mem, foldl_wf, Option.map_eq_some_iff,
    Option.bind_eq_some_iff]

include hs in
theorem treadleDecision_wf {panel stage} (h : s.treadleDecision panel stage = some t) : t.mem.wf = true := by
  unfold State.treadleDecision at h
  grind [setStage_mem, startPick_wf, Option.bind_eq_some_iff]

@[simp] theorem observePick_mem (k loom) : (s.observePick k loom).mem = s.mem := by
  unfold State.observePick
  cases k.fired <;> simp only [] <;> repeat' split
  all_goals simp

theorem gangStart_mem {peer pick} (h : s.gangStart peer pick = some t) : t.mem = s.mem := by
  unfold State.gangStart at h
  grind [setCtxAt_mem, observePick_mem, modPart_mem, foldl_mem, Option.map_eq_some_iff, Option.bind_eq_some_iff]

@[simp] theorem armStage_mem (p panel stage) : (s.armStage p panel stage).mem = s.mem := rfl

include hs in
theorem replayStart_wf {panel stage} (h : s.replayStart panel stage = some t) : t.mem.wf = true := by
  unfold State.replayStart at h
  grind [setStage_mem, startPick_wf, Option.map_eq_some_iff, Option.bind_eq_some_iff]

include hs in
theorem liftStall_wf {panel stage} (h : s.liftStall panel stage = some t) : t.mem.wf = true := by
  unfold State.liftStall at h
  grind [setStage_mem, treadleRecord_wf, Option.bind_eq_some_iff]

theorem trdReturn_mem {t c ra st v} (h : s.trdReturn t c ra st v = .ok u) : u.mem = s.mem := by
  unfold State.trdReturn at h
  grind [issueAccess_mem, bind_ok, pure_ok]

include hs in
theorem endDiff_wf (peer d status crc panel) : (s.endDiff peer d status crc panel).mem.wf = true := by
  unfold State.endDiff
  grind [setPart_mem, writeVa_wf, unitRecord_wf, countFor_wf, treadleRecord_wf]

@[simp] theorem switchPlane_mem (peer p bs) : (s.switchPlane peer p bs).mem = s.mem := by
  unfold State.switchPlane
  grind [setPart_mem, setStage_mem, l1Clear_mem, foldl_mem]

include hs in
theorem planeSwitch_wf {peer} (h : s.planeSwitch peer = some t) : t.mem.wf = true := by
  unfold State.planeSwitch at h
  grind [endDiff_wf, setPart_mem, switchPlane_mem, Option.map_eq_some_iff, Option.bind_eq_some_iff]

include hs in
theorem planeError_wf (panel off) : (s.planeError panel off).mem.wf = true := by
  unfold State.planeError
  grind [jobRecord_wf, unitRecord_wf]

/-! ## Retire -/

@[simp] theorem idleCtx_mem (loom ev) : (s.idleCtx loom ev).mem = s.mem := rfl

include hs in
theorem retireLoom_wf (loom) : (s.retireLoom loom).mem.wf = true := by
  unfold State.retireLoom
  grind [setPart_mem, retireChild_wf, idleCtx_mem]

@[simp] theorem nextEvaluation_mem (loom) : (s.nextEvaluation loom).mem = s.mem := by
  unfold State.nextEvaluation
  grind [setLoom_mem, evaluationStart_mem]

@[simp] theorem retireEval_mem (loom) : (s.retireEval loom).mem = s.mem := by simp [State.retireEval]

include hs in
theorem raiseResidue_wf (loom ev) : (s.raiseResidue loom ev).mem.wf = true := by simp [State.raiseResidue, raiseAsync_wf, hs]

include hs in
theorem loomRetire_wf {loom ev} (h : s.loomRetire loom ev = some t) : t.mem.wf = true := by
  unfold State.loomRetire at h
  grind [retireEval_mem, retireLoom_wf, raiseResidue_wf]

@[simp] theorem settlePreempt_mem (peer x) : (s.settlePreempt peer x).mem = s.mem := by
  unfold State.settlePreempt
  grind [reply_mem, setPart_mem]

@[simp] theorem settlePreempts_mem : (s.settlePreempts).mem = s.mem := by
  unfold State.settlePreempts
  grind [settlePreempt_mem, foldl_mem]

include hs in
theorem reload_wf (loom) : (s.reload loom).mem.wf = true := by
  unfold State.reload
  grind [raiseSequencer_wf, unpark_wf, setCtxAt_mem]

include hs in
theorem preemptLimit_wf {peer launch} (h : s.preemptLimit peer launch = some t) : t.mem.wf = true := by
  unfold State.preemptLimit at h
  grind [reply_mem, setCtxAt_mem, reload_wf, modPart_mem, foldl_wf, Option.map_eq_some_iff, Option.bind_eq_some_iff]

/-! ## Channel -/

include hs in
theorem raiseWindow_wf (peer ch f port) : (s.raiseWindow peer ch f port).mem.wf = true := by
  unfold State.raiseWindow
  simp only []
  repeat' split
  all_goals simp [unitRecord_wf, hs]

include hs in
theorem sendWindow_wf (peer ch) : (s.sendWindow peer ch).mem.wf = true := by
  unfold State.sendWindow
  grind [setPart_mem, sendFlit_mem, raiseWindow_wf]

include hs in
theorem giveWindow_wf (peer ch) : (s.giveWindow peer ch).mem.wf = true := by
  unfold State.giveWindow
  grind [sendWindow_wf]

include hs in
theorem giveWindows_wf : (s.giveWindows).mem.wf = true := by
  unfold State.giveWindows
  grind [giveWindow_wf, foldl_wf]

/-! ## Combine -/

@[simp] theorem dropEntry_mem (id) : (s.dropEntry id).mem = s.mem := rfl

include hs in
theorem passOn_wf (p) : (s.passOn p).mem.wf = true := by
  unfold State.passOn
  split <;> simp [serve_wf, hs]

@[simp] theorem sendMerged_mem (e) : (s.sendMerged e).mem = s.mem := by
  unfold State.sendMerged
  split <;> simp

include hs in
theorem combineDepart_wf {switch id} (h : s.combineDepart switch id = some t) : t.mem.wf = true := by
  unfold State.combineDepart at h
  grind [dropEntry_mem, sendMerged_mem, joinSwitch_mem, passOn_wf, Option.map_eq_some_iff]

include hs in
theorem failParts_wf (f fuel ps) : (s.failParts f fuel ps).mem.wf = true := by
  fun_induction State.failParts <;> grind [answer_mem, dropEntry_mem, failAccess_wf, foldl_wf]

include hs in
theorem dissolve_wf (fuel e) : (s.dissolve fuel e).mem.wf = true := by
  fun_induction State.dissolve <;> grind [dropEntry_mem, passOn_wf, foldl_wf]

@[simp] theorem splitReply_mem (target rs) : (s.splitReply target rs).mem = s.mem := by
  fun_induction State.splitReply <;> grind [answer_mem, l1Update_mem, finishAccess_mem]

include hs in
theorem splitEntry_wf (e base lost) : (s.splitEntry e base lost).mem.wf = true := by
  unfold State.splitEntry
  grind [dropEntry_mem, unitRecord_wf, splitReply_mem, failParts_wf, foldl_wf]

include hs in
theorem decombineReply_wf {switch id lost} (h : s.decombineReply switch id lost = some t) : t.mem.wf = true := by
  unfold State.decombineReply at h
  grind [dissolve_wf, dropEntry_mem, atomicAt_wf, splitEntry_wf, failParts_wf, Option.map_eq_some_iff, Option.bind_eq_some_iff]

/-! ## Fabric -/

@[simp] theorem partDone_mem (loom ev a i opa bs) : (s.partDone loom ev a i opa bs).mem = s.mem := by
  unfold State.partDone
  grind [pump_mem, putAccess_mem, finishAccess_mem, bind_ok, pure_ok]

@[simp] theorem phaseCame_mem (loom ev raw opa) : (s.phaseCame loom ev raw opa).mem = s.mem := rfl

@[simp] theorem mergedBase_mem (id base) : (s.mergedBase id base).mem = s.mem := rfl

include hs in
theorem requestDone_wf (r opa bs) : (s.requestDone r opa bs).mem.wf = true := by
  unfold State.requestDone
  grind [phaseCame_mem, partDone_mem, modAccOp_mem, modCopy_mem, copyWrote_wf, rowDone_wf, mergedBase_mem]

include hs in
theorem requestFails_wf (r f) : (s.requestFails r f).mem.wf = true := by
  unfold State.requestFails
  grind [raiseAsync_wf, failAccOp_wf, failCopy_wf, dropEntry_mem, failAccess_wf, setCtxAt_mem, modPart_mem, failParts_wf]

@[simp] theorem dropRequest_mem (tag) : (s.dropRequest tag).mem = s.mem := rfl

include hs in
theorem takeReply_wf (f bs) : (s.takeReply f bs).mem.wf = true := by
  unfold State.takeReply
  grind [dropRequest_mem, requestFails_wf, requestDone_wf]

include hs in
theorem giveUpRequests_wf : (s.giveUpRequests).mem.wf = true := by
  unfold State.giveUpRequests
  grind [dropRequest_mem, requestFails_wf, foldl_wf]

include hs in
theorem portRecord_wf (q cause d0 d1) : (s.portRecord q cause d0 d1).mem.wf = true := by
  unfold State.portRecord
  split <;> simp [unitRecord_wf, hs]

include hs in
theorem linkError_wf (q wave) : (s.linkError q wave).mem.wf = true := by
  unfold State.linkError
  grind [setPort_mem, portRecord_wf]

@[simp] theorem sendPark_mem (q code dseq) : (s.sendPark q code dseq).mem = s.mem := by simp [State.sendPark]

@[simp] theorem resend_mem (q lseq dseq) : (s.resend q lseq dseq).mem = s.mem := rfl

include hs in
theorem portDown_wf (q reason) : (s.portDown q reason).mem.wf = true := by
  unfold State.portDown
  grind [setPort_mem, portRecord_wf]

include hs in
theorem loseWave_wf (q wave) : (s.loseWave q wave).mem.wf = true := by
  unfold State.loseWave
  grind [setPort_mem, resend_mem, portDown_wf, portRecord_wf, sendPark_mem]

@[simp] theorem sendLRetry_mem (q) : (s.sendLRetry q).mem = s.mem := rfl

@[simp] theorem sendLack_mem (q) : (s.sendLack q).mem = s.mem := rfl

@[simp] theorem countReceived_mem (q) : (s.countReceived q).mem = s.mem := by
  unfold State.countReceived
  grind [setPort_mem, sendLack_mem]

include hs in
theorem badControl_wf (q again) : (s.badControl q again).mem.wf = true := by
  unfold State.badControl
  grind [setPort_mem, sendLRetry_mem, portDown_wf, linkError_wf]

include hs in
theorem badData_wf (q again wave) : (s.badData q again wave).mem.wf = true := by
  unfold State.badData
  grind [loseWave_wf, setPort_mem, sendLRetry_mem, portDown_wf, linkError_wf]

include hs in
theorem acceptControl_wf (q kind f) : (s.acceptControl q kind f).1.mem.wf = true := by
  unfold State.acceptControl
  grind [countReceived_mem, setPort_mem, badControl_wf]

@[simp] theorem noteCarried_mem (out kind f) : (s.noteCarried out kind f).mem = s.mem := by
  unfold State.noteCarried
  grind [setPort_mem]

@[simp] theorem forward_mem (q kind f) : (s.forward q kind f).mem = s.mem := by
  unfold State.forward
  grind [sendFlit_mem, noteCarried_mem]

include hs in
theorem complete_wf (i) : (s.complete i).mem.wf = true := by
  unfold State.complete
  grind [takeReply_wf, serve_wf, sendReply_mem, forward_mem]

include hs in
theorem claim_wf (q fuel) : (s.claim q fuel).mem.wf = true := by
  fun_induction State.claim <;> grind [setPort_mem, complete_wf]

include hs in
theorem comeIn_wf (q kind f) : (s.comeIn q kind f).mem.wf = true := by
  unfold State.comeIn
  grind [complete_wf, claim_wf]

include hs in
theorem newValue_wf (q f) : (s.newValue q f).mem.wf = true := by
  unfold State.newValue
  grind [complete_wf, forward_mem]

include hs in
theorem shortReply_wf (q kind f) : (s.shortReply q kind f).mem.wf = true := by
  unfold State.shortReply
  split <;> simp [takeReply_wf, hs]

include hs in
theorem windowFlit_wf (q f) : (s.windowFlit q f).mem.wf = true := by
  unfold State.windowFlit
  grind [linkError_wf, forward_mem, raiseWindow_wf]

include hs in
theorem relock_wf {q f} (h : s.relock q f = some t) : t.mem.wf = true := by
  unfold State.relock at h
  grind [setPort_mem, portRecord_wf, Option.bind_eq_some_iff]

include hs in
theorem takeData_wf (q fuel d) : (s.takeData q fuel d).mem.wf = true := by
  fun_induction State.takeData <;> grind [countReceived_mem, setPort_mem, claim_wf]

include hs in
theorem dataFlitIn_wf (q d) : (s.dataFlitIn q d).mem.wf = true := by
  unfold State.dataFlitIn
  grind [setPort_mem, takeData_wf, badData_wf]

include hs in
theorem replayRequest_wf (r) : (s.replayRequest r).mem.wf = true := by
  have hfail (f) : ((s.dropRequest r.rtag).requestFails r f).mem.wf = true := requestFails_wf (by rw [dropRequest_mem]; exact hs) ..
  unfold State.replayRequest
  split
  · rw [dropRequest_mem]; exact hs
  split
  · exact hfail _
  · simp only []
    split
    next u q h => exact (transmit_mem h ▸ hs : u.mem.wf = true)
    · exact hfail _

include hs in
theorem replayAccess_wf {loom ev a} (h : s.replayAccess loom ev a = some t) : t.mem.wf = true := by
  unfold State.replayAccess at h
  grind [failAccess_wf, putAccess_mem, Option.map_eq_some_iff]

include hs in
theorem replayCopy_wf {loom ev k} (h : s.replayCopy loom ev k = some t) : t.mem.wf = true := by
  unfold State.replayCopy at h
  grind [failCopy_wf, modCopy_mem, Option.map_eq_some_iff]

include hs in
theorem requestReplay_wf {loom ev id} (h : s.requestReplay loom ev id = some t) : t.mem.wf = true := by
  unfold State.requestReplay at h
  grind [replayRequest_wf, replayAccess_wf, replayCopy_wf, foldl_wf]

include hs in
theorem loaderRetry_wf {loom ev id t} (h : s.loaderRetry loom ev id = some t) : t.mem.wf = true := by
  unfold State.loaderRetry at h
  split at h
  next r _ =>
    have ht (v q) (h : s.transmit { r with refused := false } = some (v, q)) : v.mem = s.mem := transmit_mem h
    grind [requestFails_wf, dropRequest_mem]
  · rcases Option.or_eq_some_iff.mp h with h | ⟨-, h⟩
    · exact loaderArrival_wf hs h
    · exact loaderArrival_wf hs h

include hs in
theorem strangeFlit_wf {q f} (h : s.strangeFlit q f = some t) : t.mem.wf = true := by
  unfold State.strangeFlit at h
  grind [badControl_wf]

/-! ## Host -/

@[simp] theorem receive_mem (peer endpoint status) : (s.receive peer endpoint status).mem = s.mem := rfl

@[simp] theorem bootRecord_mem (peer endpoint) : (s.bootRecord peer endpoint).mem = s.mem := rfl

include hs in
theorem imageWriteAt_wf (peer p req va data) : (s.imageWriteAt peer p req va data).mem.wf = true := by
  unfold State.imageWriteAt
  grind [receive_mem, writeSpans_wf]

@[simp] theorem imageReadAt_mem (peer p req va n) : (s.imageReadAt peer p req va n).mem = s.mem := by
  unfold State.imageReadAt
  grind [reply_mem, readSpans_mem]

@[simp] theorem attest_mem (via endpoint peer nonce) : (s.attest via endpoint peer nonce).mem = s.mem := by
  unfold State.attest
  split <;> simp

/-! ## System -/

@[simp] theorem liftFences_mem (n) : (s.liftFences n).mem = s.mem := by
  unfold State.liftFences
  grind [foldl_mem]

include hs in
theorem scrub_wf (n) : (s.scrub n).mem.wf = true := filter_wf _ hs

include hs in
theorem wipePanel_wf (n) : (s.wipePanel n).mem.wf = true := by simp [State.wipePanel, scrub_wf, hs]

include hs in
theorem releasePanel_wf (n) : (s.releasePanel n).mem.wf = true := by simp [State.releasePanel, wipePanel_wf, hs]

@[simp] theorem formReply_mem (peer req status) : (s.formReply peer req status).mem = s.mem := rfl

include hs in
theorem formWith_wf (req f) : (s.formWith req f).mem.wf = true := by
  have hend (u : State) (e n) : (State.formReply { u with endpoints := e, freeIdx := n } f.peer req 0).mem = u.mem := formReply_mem ..
  have hpanels : ((panelsOf f.panels).foldl (fun s n => s.setPanel n { s.panel n with owner := some f.peer }) s).mem = s.mem :=
    foldl_mem (fun _ _ => setPanel_mem ..) ..
  unfold State.formWith
  simp only []
  repeat' split
  · rw [formReply_mem]; exact hs
  · rw [formReply_mem]; exact hs
  · rw [formReply_mem]; exact hs
  · rw [hend]
    exact writeVa_wf (by rw [setPart_mem, hpanels]; exact hs) ..

@[simp] theorem failPending_mem (peer p) : (s.failPending peer p).mem = s.mem := by
  unfold State.failPending
  rw [modPart_mem]
  iterate 4 rw [getD_map_mem fun _ => reply_mem ..]
  iterate 3 rw [foldl_mem fun _ _ => reply_mem ..]

include hs in
theorem dissolveWith_wf (peer req p) : (s.dissolveWith peer req p).mem.wf = true := by
  unfold State.dissolveWith
  grind [releasePanel_wf, reply_mem, failPending_mem, foldl_wf]

@[simp] theorem dropTranslations_mem (peer va n) : (s.dropTranslations peer va n).mem = s.mem := rfl

include hs in
theorem putCounters_wf (p xs) : (s.putCounters p xs).mem.wf = true := by
  unfold State.putCounters
  grind [setCounter_wf, foldl_wf]

include hs in
theorem resizeWith_wf (peer req mask p) : (s.resizeWith peer req mask p).mem.wf = true := by
  unfold State.resizeWith
  extract_lets old joins leaves p' held s1 s2 s3 bad s4
  have h2 : s2.mem.wf = true :=
    foldl_wf (by rw [dropTranslations_mem]; exact hs) (fun _ _ hu => releasePanel_wf hu ..) _
  have h3 : s3.mem.wf = true := foldl_wf h2 (fun _ _ hu => by rw [setPanel_mem]; exact wipePanel_wf hu ..) _
  have h4 : s4.mem.wf = true := putCounters_wf h3 ..
  clear_value s4
  repeat' split
  all_goals simpa

include hs in
theorem beginReset_wf (peer req) : (s.beginReset peer req).mem.wf = true := by
  unfold State.beginReset
  grind [failPending_mem, cancelCounter_wf, modPart_mem, foldl_wf]

@[simp] theorem resetStop_mem (peer p) : (s.resetStop peer p).mem = s.mem := rfl

@[simp] theorem resetDone_mem (peer p req) : (s.resetDone peer p req).mem = s.mem := by
  unfold State.resetDone
  split <;> simp

include hs in
theorem settleReset_wf (peer p req) : (s.settleReset peer p req).mem.wf = true := by
  unfold State.settleReset
  grind [wipePanel_wf, setPart_mem, resetDone_mem, resetStop_mem, foldl_wf]

include hs in
theorem settleResets_wf : (s.settleResets).mem.wf = true := by
  unfold State.settleResets
  grind [settleReset_wf, foldl_wf]

@[simp] theorem settleResizes_mem : (s.settleResizes).mem = s.mem := by
  unfold State.settleResizes
  grind [reply_mem, modPart_mem, foldl_mem]

@[simp] theorem retryFences_mem (p) : (s.retryFences p).mem = s.mem :=
  foldl_mem (fun _ _ => foldl_mem (fun _ _ => getD_mem fun _ => spillFenceRetry_mem) _ _) _ _

@[simp] theorem settleInvalidation_mem (peer x) : (s.settleInvalidation peer x).mem = s.mem := by
  unfold State.settleInvalidation
  grind [reply_mem, dropTranslations_mem, retryFences_mem, modPart_mem]

@[simp] theorem settleInvalidations_mem : (s.settleInvalidations).mem = s.mem := by
  unfold State.settleInvalidations
  grind [settleInvalidation_mem, foldl_mem]

@[simp] theorem loadPlaneAt_mem (peer req va p) : (s.loadPlaneAt peer req va p).mem = s.mem := by
  unfold State.loadPlaneAt
  grind [reply_mem, switchPlane_mem]

include hs in
theorem makeCounter_wf (peer req level expect parent determinate p) :
    (s.makeCounter peer req level expect parent determinate p).mem.wf = true := by
  unfold State.makeCounter
  grind [reply_mem, newCounter_wf, modPart_mem]

include hs in
theorem postHost_wf (peer ops) : (s.postHost peer ops).1.mem.wf = true := by
  fun_induction State.postHost <;> grind [enqueue_wf]

include hs in
theorem postWaiting_wf (peer req ops) : (s.postWaiting peer req ops).mem.wf = true := by
  unfold State.postWaiting
  grind [reply_mem, postHost_wf, modPart_mem]

include hs in
theorem settleArrivals_wf : (s.settleArrivals).mem.wf = true := by
  unfold State.settleArrivals
  grind [postWaiting_wf, foldl_wf]

include hs in
theorem armNow_wf (peer h p) : (s.armNow peer h p).mem.wf = true := by
  unfold State.armNow
  grind [reply_mem, newCounter_wf, armStage_mem, modPart_mem]

include hs in
theorem armWith_wf (peer h p) : (s.armWith peer h p).mem.wf = true := by
  unfold State.armWith
  grind [reply_mem, setPart_mem, armNow_wf]

include hs in
theorem settleHeldArms_wf : (s.settleHeldArms).mem.wf = true := by
  unfold State.settleHeldArms
  grind [setPart_mem, armWith_wf, foldl_wf]

@[simp] theorem preemptWith_mem (peer req launch p) : (s.preemptWith peer req launch p).mem = s.mem := by
  unfold State.preemptWith
  grind [reply_mem, setCtxAt_mem, modPart_mem, foldl_mem]

include hs in
theorem resumeWith_wf (peer req launch p) : (s.resumeWith peer req launch p).mem.wf = true := by
  unfold State.resumeWith
  grind [reply_mem, setStage_mem, reload_wf, modPart_mem, foldl_wf]

@[simp] theorem sendDrain_mem (peer q) : (s.sendDrain peer q).mem = s.mem := by
  unfold State.sendDrain
  grind [setPort_mem, sendFlit_mem]

@[simp] theorem settleDrain_mem (peer p) : (s.settleDrain peer p).mem = s.mem := by
  unfold State.settleDrain
  extract_lets u v w
  have hu : u.mem = s.mem := foldl_mem (fun _ _ => sendDrain_mem ..) _ _
  have hv : v.mem = u.mem := by
    unfold v
    split
    · exact foldl_mem (fun _ _ => setPort_mem ..) _ _
    · rfl
  have hw : w.mem = s.mem := (setPart_mem ..).trans (hv.trans hu)
  split
  · exact hu
  · exact (getD_map_mem (fun _ => reply_mem ..) _).trans hw

@[simp] theorem settleDrains_mem : (s.settleDrains).mem = s.mem := by
  unfold State.settleDrains
  grind [settleDrain_mem, foldl_mem]

@[simp] theorem fabricWith_mem (peer req va p) : (s.fabricWith peer req va p).mem = s.mem := by
  unfold State.fabricWith
  grind [reply_mem, setPart_mem, setPort_mem, linkFlit_mem, foldl_mem]

@[simp] theorem resumeFabric_mem (peer p req t) : (s.resumeFabric peer p req t).mem = s.mem := by
  unfold State.resumeFabric
  rw [reply_mem]
  refine (foldl_mem (fun u r => ?_) _ _).trans (setPart_mem ..)
  split
  next v q h => exact transmit_mem h
  · rfl

@[simp] theorem settleFabrics_mem : (s.settleFabrics).mem = s.mem := by
  unfold State.settleFabrics
  grind [resumeFabric_mem, foldl_mem]

@[simp] theorem unparkPanel_mem (n) : (s.unparkPanel n).mem = s.mem := by
  unfold State.unparkPanel
  grind [setPanel_mem]

@[simp] theorem powerWith_mem (peer req mode budget p) : (s.powerWith peer req mode budget p).mem = s.mem := by
  unfold State.powerWith
  grind [reply_mem, setPart_mem, unparkPanel_mem, foldl_mem]

/-! ## Agate -/

theorem moduleReset_wf (s : State) (ok) : (s.moduleReset ok).mem.wf = true := by
  unfold State.moduleReset
  split <;> rfl

@[simp] theorem nextPanel_mem : (s.nextPanel).mem = s.mem := by
  unfold State.nextPanel
  grind [setPanel_mem]

@[simp] theorem turnEnds_mem (n) : (s.turnEnds n).mem = s.mem := by simp [State.turnEnds]

@[simp] theorem failedRecord_mem : (s.failedRecord).mem = s.mem := by simp [State.failedRecord]

include hs in
theorem panelFailed_wf (n) : (s.panelFailed n).mem.wf = true := by
  unfold State.panelFailed
  grind [setPanel_mem, setPart_mem, failedRecord_mem, cancelJob_wf, turnEnds_mem, unitRecord_wf]

include hs in
theorem bringUpFails_wf (n) : (s.bringUpFails n).mem.wf = true := by
  unfold State.bringUpFails
  grind [setPanel_mem, panelFailed_wf]

include hs in
theorem trainingEnd_wf {n ok} (h : s.trainingEnd n ok = some t) : t.mem.wf = true := by
  unfold State.trainingEnd at h
  grind [setPanel_mem, bringUpFails_wf, turnEnds_mem, scrub_wf]

@[simp] theorem loomMoves_mem (loom) : (s.loomMoves loom).mem = s.mem := rfl

include hs in
theorem calibrationEnd_wf {n ok} (h : s.calibrationEnd n ok = some t) : t.mem.wf = true := by
  unfold State.calibrationEnd at h
  grind [setPanel_mem, bringUpFails_wf]

theorem loomServiceMove_mem {loom} (h : s.loomServiceMove loom = some t) : t.mem = s.mem := by
  unfold State.loomServiceMove at h
  grind [loomMoves_mem]

@[simp] theorem settleMoves_mem : s.settleMoves.mem = s.mem := by
  refine foldl_mem (fun u l => ?_) _ _
  simp only []
  split
  · exact loomMoves_mem ..
  · rfl

include hs in
theorem cappedMeasure_wf {peer watts} (h : s.cappedMeasure peer watts = some t) : t.mem.wf = true := by
  unfold State.cappedMeasure at h
  grind [setPart_mem, unitRecord_wf, Option.bind_eq_some_iff]

include hs in
theorem loomFails_wf (loom) : (s.loomFails loom).mem.wf = true := by
  unfold State.loomFails
  grind [retireEval_mem, setLoom_mem, retireLoom_wf, setCtxAt_mem]

include hs in
theorem panelStops_wf (n) : (s.panelStops n).mem.wf = true := by
  unfold State.panelStops
  grind [setPanel_mem, loomFails_wf, foldl_wf]

include hs in
theorem holdFor_wf (peer n) : (s.holdFor peer n).mem.wf = true := by
  unfold State.holdFor
  split <;> simp [unitRecord_wf, hs]

include hs in
theorem panelFails_wf (n f) : (s.panelFails n f).mem.wf = true := by
  unfold State.panelFails
  grind [setPanel_mem, failedRecord_mem, jobRecord_wf, turnEnds_mem, panelStops_wf, modPart_mem, holdFor_wf]

include hs in
theorem panelFault_wf {n reason} (h : s.panelFault n reason = some t) : t.mem.wf = true := by
  unfold State.panelFault at h
  grind [panelFails_wf, moduleRecord_mem]

include hs in
theorem thermalStep_wf {n hottest} (h : s.thermalStep n hottest = some t) : t.mem.wf = true := by
  unfold State.thermalStep at h
  grind [setPanel_mem, panelFault_wf]

include hs in
theorem panelFaultClear_wf {n} (h : s.panelFaultClear n = some t) : t.mem.wf = true := by
  unfold State.panelFaultClear at h
  grind [wipePanel_wf, setPanel_mem, beginReset_wf]

include hs in
theorem moduleInputFault_wf : (s.moduleInputFault).mem.wf = true := by
  unfold State.moduleInputFault
  grind [cancelJob_wf, moduleRecord_mem, foldl_wf]

theorem badConfig_mem (h : s.badConfig = some t) : t.mem = s.mem := by
  unfold State.badConfig at h
  grind [moduleRecord_mem]

include hs in
theorem bridgeFailsFor_wf (n m f loom ev) : (s.bridgeFailsFor n m f loom ev).mem.wf = true := by
  unfold State.bridgeFailsFor
  grind [failAccOp_wf, failCopy_wf, failAccess_wf, foldl_wf]

include hs in
theorem bridgeFailsAt_wf (n m f tile) : (s.bridgeFailsAt n m f tile).mem.wf = true := by
  unfold State.bridgeFailsAt
  grind [refuse_wf, setTile_mem, foldl_wf]

include hs in
theorem bridgeFails_wf {n m reason} (h : s.bridgeFails n m reason = some t) : t.mem.wf = true := by
  unfold State.bridgeFails at h
  grind [jobRecord_wf, beginReset_wf, bridgeFailsFor_wf, bridgeFailsAt_wf, modPart_mem, foldl_wf]

include hs in
theorem gateTest_wf {n m passed} (h : s.gateTest n m passed = some t) : t.mem.wf = true := by
  unfold State.gateTest at h
  grind [panelFails_wf]

include hs in
theorem controllerRecord_wf (chan cause d0) : (s.controllerRecord chan cause d0).mem.wf = true := by
  unfold State.controllerRecord
  split <;> simp [unitRecord_wf, hs]

include hs in
theorem patrolScrub_wf {pa} (h : s.patrolScrub pa = some t) : t.mem.wf = true := by
  unfold State.patrolScrub at h
  grind [controllerRecord_wf, meetError_mem]

include hs in
theorem corrected_wf {channel count} (h : s.corrected channel count = some t) : t.mem.wf = true := by
  unfold State.corrected at h
  grind [controllerRecord_wf]

/-! ## Message -/

@[simp] theorem dropMessage_mem (peer m) : (s.dropMessage peer m).mem = s.mem := by
  unfold State.dropMessage
  split <;> simp

/-! ## Settle -/

include hs in
theorem fenceRecord_wf (chan) : (s.fenceRecord chan).mem.wf = true := by
  unfold State.fenceRecord
  split <;> simp [jobRecord_wf, hs]

include hs in
theorem settleFences_wf : (s.settleFences).mem.wf = true := by
  unfold State.settleFences
  grind [fenceRecord_wf, foldl_wf]

include hs in
theorem settleUnits_wf : (s.settleUnits).mem.wf = true := by
  unfold State.settleUnits
  grind [placeHeld_mem, flushCancelled_wf, failEvaluations_wf, postActions_wf, settleFences_wf]

include hs in
theorem settlePorts_wf : (s.settlePorts).mem.wf = true := by simp [State.settlePorts, giveWindows_wf, giveUpRequests_wf, hs]

include hs in
theorem settleManager_wf : (s.settleManager).mem.wf = true := by
  unfold State.settleManager
  grind [settleResizes_mem, settleArrivals_wf, settleMoves_mem, settleResets_wf, settleInvalidations_mem, settlePreempts_mem,
    settleHeldArms_wf]

include hs in
theorem settle_wf : (s.settle).mem.wf = true := by
  unfold State.settle
  grind [settlePorts_wf, settleUnits_wf, settleManager_wf]

/-! ## Step -/

@[simp] theorem moveDamage_mem (pa k) : (s.moveDamage pa k).mem = s.mem := rfl

include hs in
theorem moveFirmware_wf (pa e) : (s.moveFirmware pa e).mem.wf = true := by
  unfold State.moveFirmware
  split <;> simp [writeLE_wf, hs]

include hs in
theorem moveFirmwareLine_wf (pa bs) : (s.moveFirmwareLine pa bs).mem.wf = true := by
  unfold State.moveFirmwareLine
  split <;> simp [putPiece_wf, hs]

end

end Sys2Proof.Proofs.Canonical
end

section
/-!
PROOFS. Every instruction, event and message keeps the memory's canonical form (O51): the shared shapes of a meaning first, then the
commands of a stream, then the other meanings, and `exec` over all of them.
-/

namespace Sys2Proof.Proofs.Canonical

open Sys2Proof.Machine Sys2Proof.Laws

section
variable {s t u : State} (hs : s.mem.wf = true)

/-! ## How a move's meaning ends -/

include hs in
theorem done_wf {r : Act State} {t} (hr : ∀ u, r = .ok u → u.mem.wf = true) (h : s.done r = .next t) : t.mem.wf = true := by
  rcases done_cases h with ⟨u, hu, rfl⟩ | ⟨w, -, rfl⟩ | ⟨f, -, rfl⟩
  · exact hr u hu
  · exact hs
  · exact hs

include hs in
theorem local_wf {e tok f t} (h : s.local e tok f = .next t) : t.mem.wf = true := by
  refine done_wf hs (fun u hu => ?_) h
  obtain ⟨c, -, hu⟩ := bind_ok.mp hu
  obtain ⟨d, -, hu⟩ := bind_ok.mp hu
  rw [← pure_ok.mp hu, setCtx_mem]
  exact hs

include hs in
theorem command_wf {tok f t} (hf : ∀ c u, f c = .ok u → u.mem.wf = true) (h : s.command tok f = .next t) : t.mem.wf = true := by
  refine done_wf hs (fun u hu => ?_) h
  obtain ⟨c, -, hu⟩ := bind_ok.mp hu
  exact hf c u hu

include hs in
theorem event_wf {r : Option State} {t} (hr : ∀ u, r = some u → u.mem.wf = true) (h : s.event r = .next t) : t.mem.wf = true := by
  rcases event_cases h with ⟨u, hu, rfl⟩ | ⟨-, rfl⟩
  · exact hr u hu
  · exact hs

include hs in
theorem onMessage_wf {peer endpoint act t} (hact : ∀ u, act s = some u → u.mem.wf = true)
    (h : s.onMessage peer endpoint act = .next t) : t.mem.wf = true := by
  refine event_wf hs (fun u hu => ?_) h
  grind [bootRecord_mem]

include hs in
theorem onRequest_wf {peer cls code req excepted act t} (hact : ∀ u p, u.mem.wf = true → (act u p).mem.wf = true)
    (h : s.onRequest peer cls code req excepted act = .next t) : t.mem.wf = true := by
  refine onMessage_wf hs (fun u hu => ?_) h
  grind [receive_mem, reply_mem]

include hs in
theorem onFlit_wf {q kind f act t} (hact : ∀ u, u.mem.wf = true → (act u).mem.wf = true)
    (h : s.onFlit q kind f act = .next t) : t.mem.wf = true := by
  refine event_wf hs (fun u hu => ?_) h
  grind [acceptControl_wf]

include hs in
theorem onLink_wf {q kind f act t} (hact : (act s).mem.wf = true) (h : s.onLink q kind f act = .next t) : t.mem.wf = true := by
  refine event_wf hs (fun u hu => ?_) h
  grind [badControl_wf]

include hs in
theorem linkWidth_wf {tok rd q act t} (hact : ∀ u, (act u).mem = u.mem) (h : s.linkWidth tok rd q act = .next t) :
    t.mem.wf = true := by
  refine done_wf hs (fun u hu => ?_) h
  simp only [bind_ok, pure_ok] at hu
  obtain ⟨c, -, -, -, d, -, rfl⟩ := hu
  rw [hact, setCtx_mem]
  exact hs

/-- Every state that an action can answer with has a memory in canonical form. -/
def Keeps (r : Act State) : Prop := ∀ u, r = .ok u → u.mem.wf = true

theorem keeps_bind {α : Type} {x : Act α} {f : α → Act State} (h : ∀ a, Keeps (f a)) : Keeps (x >>= f) := by
  intro u hu
  obtain ⟨a, -, ha⟩ := bind_ok.mp hu
  exact h a u ha

theorem keeps_pure {u : State} (h : u.mem.wf = true) : Keeps (pure u) := fun _ hv => pure_ok.mp hv ▸ h

theorem keeps_error {e : Stop} : Keeps (.error e) := fun _ hu => by cases hu

include hs in
theorem execLda_wf {tok reg base st off t} (h : execLda tok reg base st off s = .next t) : t.mem.wf = true :=
  command_wf hs (fun c u h => by grind [issueAccess_mem, bind_ok, pure_ok]) h

include hs in
theorem execSta_wf {tok reg base st off t} (h : execSta tok reg base st off s = .next t) : t.mem.wf = true :=
  command_wf hs (fun c u h => by grind [issueAccess_mem, bind_ok, pure_ok]) h

include hs in
theorem execLdq_wf {tok q base st off t} (h : execLdq tok q base st off s = .next t) : t.mem.wf = true :=
  command_wf hs (fun c u h => by grind [issueAccess_mem, bind_ok, pure_ok]) h

include hs in
theorem execStq_wf {tok q base st off t} (h : execStq tok q base st off s = .next t) : t.mem.wf = true :=
  command_wf hs (fun c u h => by grind [issueAccess_mem, bind_ok, pure_ok]) h

include hs in
theorem execLdq2d_wf {tok q base st off rows rowBytes t} (h : execLdq2d tok q base st off rows rowBytes s = .next t) : t.mem.wf = true :=
  command_wf hs (fun c u h => by grind [issueAccess_mem, bind_ok, pure_ok]) h

include hs in
theorem execStq2d_wf {tok q base st off rows rowBytes t} (h : execStq2d tok q base st off rows rowBytes s = .next t) : t.mem.wf = true :=
  command_wf hs (fun c u h => by grind [issueAccess_mem, bind_ok, pure_ok]) h

include hs in
theorem execGathq_wf {tok q base st off esz isq shift t} (h : execGathq tok q base st off esz isq shift s = .next t) : t.mem.wf = true :=
  command_wf hs (fun c u h => by grind [issueAccess_mem, bind_ok, pure_ok]) h

include hs in
theorem execScatq_wf {tok q base st off esz isq shift t} (h : execScatq tok q base st off esz isq shift s = .next t) : t.mem.wf = true :=
  command_wf hs (fun c u h => by grind [issueAccess_mem, bind_ok, pure_ok]) h

include hs in
theorem execPref_wf {tok hint base st off t} (h : execPref tok hint base st off s = .next t) : t.mem.wf = true :=
  command_wf hs (fun c u h => by grind [dropWalks_mem, l1Fill_mem, meetLine_mem, setCtx_mem, bind_ok, pure_ok]) h

include hs in
theorem atomic_wf {tok ra rb st maj op ao an t} (h : s.atomic tok ra rb st maj op ao an = .next t) : t.mem.wf = true :=
  command_wf hs (fun c u h => by grind [issueAccess_mem, bind_ok, pure_ok]) h

include hs in
theorem execFenceD_wf {tok t} (h : execFenceD tok s = .next t) : t.mem.wf = true :=
  command_wf hs (fun c u h => by grind [l1Clear_mem, setCtx_mem, bind_ok, pure_ok]) h

include hs in
theorem execAcq_wf {tok rb st scope t} (h : execAcq tok rb st scope s = .next t) : t.mem.wf = true :=
  command_wf hs (fun c u h => by grind [acquireSeen_mem, setCtx_mem, bind_ok, pure_ok, foldl_wf]) h

include hs in
theorem execRelSt_wf {tok ra rb st scope t} (h : execRelSt tok ra rb st scope s = .next t) : t.mem.wf = true :=
  command_wf hs (fun c u h => by grind [issueAccess_mem, bind_ok, pure_ok]) h

include hs in
theorem execBind_wf {tok ra rb st kind ao t} (h : execBind tok ra rb st kind ao s = .next t) : t.mem.wf = true := by
  refine command_wf hs (fun c => ?_) h
  iterate 7 refine keeps_bind fun _ => ?_
  split
  · exact keeps_error
  · iterate 4 refine keeps_bind fun _ => ?_
    dsimp only
    split
    · exact keeps_error
    · exact keeps_pure (by simpa using hs)

include hs in
theorem execUnbind_wf {tok ra st t} (h : execUnbind tok ra st s = .next t) : t.mem.wf = true :=
  command_wf hs (fun c u h => by grind [setPart_mem, l1Clear_mem, setCtx_mem, bind_ok, pure_ok]) h

include hs in
theorem execBarInit_wf {tok ra rb st ab t} (h : execBarInit tok ra rb st ab s = .next t) : t.mem.wf = true :=
  command_wf hs (fun c u h => by grind [barrierOp_mem, bind_ok, pure_ok]) h

include hs in
theorem execBarExpect_wf {tok ra rb st t} (h : execBarExpect tok ra rb st s = .next t) : t.mem.wf = true :=
  command_wf hs (fun c u h => by grind [barrierOp_mem, bind_ok, pure_ok]) h

include hs in
theorem execBarArrive_wf {tok ra rb st scope t} (h : execBarArrive tok ra rb st scope s = .next t) : t.mem.wf = true :=
  command_wf hs (fun c u h => by grind [barrierOp_mem, bind_ok, pure_ok]) h

include hs in
theorem execBarWait_wf {tok ra rb st scope t} (h : execBarWait tok ra rb st scope s = .next t) : t.mem.wf = true := by
  refine command_wf hs (fun c => ?_) h
  have hflip (d : Ctx) (peer a bar phase) : ((s.setCtx d).acquireFlip s.cur.loom peer a bar phase).mem.wf = true := by simpa using hs
  iterate 5 refine keeps_bind fun _ => ?_
  dsimp only
  split
  · split
    · exact keeps_bind fun _ => keeps_pure (hflip ..)
    · exact keeps_error
  · split
    · exact keeps_error
    · split
      · exact keeps_error
      · split
        · exact keeps_error
        · split
          · exact keeps_error
          · exact keeps_pure (hflip ..)

include hs in
theorem execBarTest_wf {tok ra rb st t} (h : execBarTest tok ra rb st s = .next t) : t.mem.wf = true :=
  command_wf hs (fun c u h => by grind [barrierOp_mem, bind_ok, pure_ok]) h

include hs in
theorem execBarFlags_wf {tok ra rb st t} (h : execBarFlags tok ra rb st s = .next t) : t.mem.wf = true :=
  command_wf hs (fun c u h => by grind [barrierOp_mem, bind_ok, pure_ok]) h

include hs in
theorem execRett_wf {tok rs1 t} (h : execRett tok rs1 s = .next t) : t.mem.wf = true := by
  refine command_wf hs (fun c => ?_) h
  have hback (d : Ctx) (p va bs) : ((s.setCtx d).writeVa p va bs).mem.wf = true := writeVa_wf (by simpa using hs) ..
  iterate 4 refine keeps_bind fun _ => ?_
  split
  · exact keeps_error
  · dsimp only
    generalize checkFrame _ _ _ = frame
    cases frame with
    | error n => exact keeps_error
    | ok rs => exact keeps_pure (by rw [setLoom_mem]; exact hback ..)

include hs in
theorem execCtxSave_wf {tok rd rs1 t} (h : execCtxSave tok rd rs1 s = .next t) : t.mem.wf = true := by
  refine command_wf hs (fun c => ?_) h
  iterate 3 refine keeps_bind fun _ => ?_
  dsimp only
  have hsave who sps ps : (s.savePieces who sps ps).1.mem.wf = true := savePieces_wf hs who sps ps
  generalize hr : State.savePieces _ _ _ _ = r
  have hset (d : Ctx) : (r.1.setCtx d).mem.wf = true := by rw [setCtx_mem, ← hr]; exact hsave ..
  refine keeps_pure ?_
  split
  · exact raiseAsync_wf (hset _) ..
  · exact hset _

include hs in
theorem execCtxLoad_wf {tok rs1 t} (h : execCtxLoad tok rs1 s = .next t) : t.mem.wf = true :=
  command_wf hs (fun c u h => by grind [raiseAsync_wf, readSpans_mem, setCtx_mem, bind_ok, pure_ok]) h

include hs in
theorem execBobArm_wf {tok ra rb st t} (h : execBobArm tok ra rb st s = .next t) : t.mem.wf = true := by
  refine command_wf hs (fun c => ?_) h
  have harm {tok c ra st p d sps lat} : Keeps (s.bobArm tok c ra st p d sps lat) :=
    fun u hu => by rw [bobArm_mem hu]; exact hs
  have hissue {tok c a ctr lat base} : Keeps (s.issueAccess tok c a ctr lat base) :=
    fun u hu => by rw [issueAccess_mem hu]; exact hs
  iterate 4 refine keeps_bind fun _ => ?_
  dsimp only
  refine keeps_bind fun _ => ?_
  split
  · exact keeps_error
  · exact harm
  · refine keeps_bind fun _ => ?_
    split
    · split
      · exact keeps_error
      · split
        · exact keeps_error
        · exact harm
    · exact hissue
  · exact keeps_bind fun _ => harm

include hs in
theorem execBobDisarm_wf {tok ra rb st t} (h : execBobDisarm tok ra rb st s = .next t) : t.mem.wf = true :=
  command_wf hs (fun c u h => by grind [bobOp_mem, bind_ok, pure_ok]) h

include hs in
theorem execBobRead_wf {tok ra rb st t} (h : execBobRead tok ra rb st s = .next t) : t.mem.wf = true :=
  command_wf hs (fun c u h => by grind [bobOp_mem, bind_ok, pure_ok]) h

include hs in
theorem execAccInit_wf {tok ra rb st sl t} (h : execAccInit tok ra rb st sl s = .next t) : t.mem.wf = true := by
  refine command_wf hs (fun c => ?_) h
  iterate 8 refine keeps_bind fun _ => ?_
  dsimp only
  split
  · exact keeps_error
  · exact keeps_bind fun _ => keeps_pure (by rw [queueAccOp_mem]; exact hs)

include hs in
theorem execAccDrain_wf {tok ra rb st ap ab t} (h : execAccDrain tok ra rb st ap ab s = .next t) : t.mem.wf = true := by
  refine command_wf hs (fun c => ?_) h
  iterate 14 refine keeps_bind fun _ => ?_
  split
  · exact keeps_pure (raiseAsync_wf (by simpa using hs) ..)
  · exact keeps_pure (by rw [queueAccOp_mem]; exact hs)

include hs in
theorem taskPut_wf {tok ra rb st ac ab km1 opc p1 p2 t} (h : s.taskPut tok ra rb st ac ab km1 opc p1 p2 = .next t) : t.mem.wf = true := by
  refine command_wf hs (fun c => ?_) h
  iterate 11 refine keeps_bind fun _ => ?_
  split
  · exact keeps_error
  · iterate 4 refine keeps_bind fun _ => ?_
    exact keeps_pure (by simpa using hs)

include hs in
theorem execTaskCancel_wf {tok ra rb st t} (h : execTaskCancel tok ra rb st s = .next t) : t.mem.wf = true :=
  command_wf hs (fun c u h => by grind [issueAccess_mem, cancelTask_wf, bind_ok, pure_ok, foldl_wf]) h

include hs in
theorem execCpy_wf {tok ra rb st aL ab p1 p2 t} (h : execCpy tok ra rb st aL ab p1 p2 s = .next t) : t.mem.wf = true :=
  command_wf hs (fun c u h => by grind [copyPlain_mem, bind_ok, pure_ok]) h

include hs in
theorem execCpyRed_wf {tok ra rb st aL ab p1 p2 ty t} (h : execCpyRed tok ra rb st aL ab p1 p2 ty s = .next t) : t.mem.wf = true :=
  command_wf hs (fun c u h => by grind [copyPlain_mem, bind_ok, pure_ok]) h

include hs in
theorem execCpyMc_wf {tok ra rb st aL ab p1 p2 t} (h : execCpyMc tok ra rb st aL ab p1 p2 s = .next t) : t.mem.wf = true :=
  command_wf hs (fun c u h => by grind [copyPlain_mem, bind_ok, pure_ok]) h

include hs in
theorem execCpyDec_wf {tok ra rb st aL ab p1 p2 slot t} (h : execCpyDec tok ra rb st aL ab p1 p2 slot s = .next t) : t.mem.wf = true :=
  command_wf hs (fun c u h => by grind [copyPlain_mem, bind_ok, pure_ok]) h

include hs in
theorem execCpyCsum_wf {tok ra rb st aL ab p1 p2 t} (h : execCpyCsum tok ra rb st aL ab p1 p2 s = .next t) : t.mem.wf = true :=
  command_wf hs (fun c u h => by grind [copyPlain_mem, bind_ok, pure_ok]) h

include hs in
theorem execCpy2d_wf {tok ra rb st aL ab p1 p2 ap t} (h : execCpy2d tok ra rb st aL ab p1 p2 ap s = .next t) : t.mem.wf = true := by
  refine command_wf hs (fun c u h => ?_) h
  simp only [bind_ok] at h
  grind [queueCopy_mem]

include hs in
theorem execCtbl_wf {tok rb st slot t} (h : execCtbl tok rb st slot s = .next t) : t.mem.wf = true :=
  command_wf hs (fun c u h => by grind [queueUnnumbered_mem, bind_ok, pure_ok]) h

include hs in
theorem execSuspMk_wf {tok ra rb st ah t} (h : execSuspMk tok ra rb st ah s = .next t) : t.mem.wf = true := by
  refine command_wf hs (fun c u h => ?_) h
  simp only [bind_ok] at h
  grind [dropWalks_mem, issueAccess_mem, refuseMake_wf]

include hs in
theorem execSuspPeek_wf {tok ra rb st t} (h : execSuspPeek tok ra rb st s = .next t) : t.mem.wf = true :=
  command_wf hs (fun c u h => by grind [issueAccess_mem, bind_ok, pure_ok]) h

include hs in
theorem execSuspFill_wf {tok ra rb st al ab t} (h : execSuspFill tok ra rb st al ab s = .next t) : t.mem.wf = true := by
  refine command_wf hs (fun c => ?_) h
  iterate 6 refine keeps_bind fun _ => ?_
  dsimp only
  split
  · exact keeps_error
  · iterate 3 refine keeps_bind fun _ => ?_
    split
    · exact keeps_pure (by simpa using hs)
    · exact fun u hu => by rw [queueUnnumbered_mem hu]; exact hs
  · exact keeps_pure (raiseAsync_wf (by simpa using hs) ..)

include hs in
theorem execStashPut_wf {tok ra rb st aL ab policy tier place' aa t}
    (h : execStashPut tok ra rb st aL ab policy tier place' aa s = .next t) : t.mem.wf = true :=
  command_wf hs (fun c u h => by grind [stashCommand_mem, bind_ok, pure_ok]) h

include hs in
theorem execStashDrop_wf {tok rb st t} (h : execStashDrop tok rb st s = .next t) : t.mem.wf = true :=
  command_wf hs (fun c u h => by grind [stashCommand_mem, bind_ok, pure_ok]) h

include hs in
theorem execStashFetch_wf {tok ra rb st ab t} (h : execStashFetch tok ra rb st ab s = .next t) : t.mem.wf = true :=
  command_wf hs (fun c u h => by grind [stashCommand_mem, bind_ok, pure_ok]) h

include hs in
theorem execStashFree_wf {tok rb st t} (h : execStashFree tok rb st s = .next t) : t.mem.wf = true :=
  command_wf hs (fun c u h => by grind [stashCommand_mem, bind_ok, pure_ok]) h

include hs in
theorem execTrdArrive_wf {tok ra st t} (h : execTrdArrive tok ra st s = .next t) : t.mem.wf = true :=
  command_wf hs (fun c u h => by grind [enqueue_wf, setCtx_mem, bind_ok, pure_ok]) h

include hs in
theorem execTrdVpin_wf {tok ra rb st publish named panel stage t} (h : execTrdVpin tok ra rb st publish named panel stage s = .next t) :
    t.mem.wf = true :=
  command_wf hs (fun c u h => by grind [setStage_mem, trdReturn_mem, treadleRecord_wf, bind_ok, pure_ok]) h

include hs in
theorem execTrdVunpin_wf {tok rb st t} (h : execTrdVunpin tok rb st s = .next t) : t.mem.wf = true :=
  command_wf hs (fun c u h => by grind [setStage_mem, setCtx_mem, bind_ok, pure_ok]) h

include hs in
theorem execTrdInfo_wf {tok ra rb st t} (h : execTrdInfo tok ra rb st s = .next t) : t.mem.wf = true :=
  command_wf hs (fun c u h => by grind [trdReturn_mem, bind_ok, pure_ok]) h

include hs in
theorem execTrdDiff_wf {tok rb st ab t} (h : execTrdDiff tok rb st ab s = .next t) : t.mem.wf = true :=
  command_wf hs (fun c u h => by grind [setCtx_mem, modPart_mem, bind_ok, pure_ok]) h

include hs in
theorem execTrdCancel_wf {tok ra rb st t} (h : execTrdCancel tok ra rb st s = .next t) : t.mem.wf = true := by
  refine command_wf hs (fun c => ?_) h
  iterate 3 refine keeps_bind fun _ => ?_
  dsimp only
  split
  · split
    · exact keeps_error
    · exact keeps_error
    · split
      · exact keeps_error
      · iterate 2 refine keeps_bind fun _ => ?_
        exact keeps_pure (cancelCounter_wf (by simpa using hs) ..)
  · exact keeps_error

include hs in
theorem execChSend_wf {tok ra rb st aL ab p1 p2 t} (h : execChSend tok ra rb st aL ab p1 p2 s = .next t) : t.mem.wf = true := by
  refine command_wf hs (fun c u h => ?_) h
  simp only [bind_ok] at h
  grind [queueCopy_mem]

include hs in
theorem execChFree_wf {tok ra rb st t} (h : execChFree tok ra rb st s = .next t) : t.mem.wf = true :=
  command_wf hs (fun c u h => by grind [setCtx_mem, modPart_mem, giveWindow_wf, bind_ok, pure_ok]) h

include hs in
theorem execChWin_wf {tok ra rb st t} (h : execChWin tok ra rb st s = .next t) : t.mem.wf = true :=
  command_wf hs (fun c u h => by grind [issueAccess_mem, bind_ok, pure_ok]) h

/-! ## Events, messages and flits -/

include hs in
theorem wf_of_mem_eq {u : State} (h : u.mem = s.mem) : u.mem.wf = true := by rw [h]; exact hs

include hs in
theorem execLinkPark_wf {tok rd width port t} (h : execLinkPark tok rd width port s = .next t) : t.mem.wf = true := by
  refine linkWidth_wf hs (fun u => ?_) h
  dsimp only
  split
  · rw [sendPark_mem, setPort_mem]
  · rfl

include hs in
theorem execLinkWake_wf {tok rd width port t} (h : execLinkWake tok rd width port s = .next t) : t.mem.wf = true := by
  refine linkWidth_wf hs (fun u => ?_) h
  dsimp only
  split
  · rw [sendFlit_mem, setPort_mem]
  · rfl

include hs in
theorem execTrap_wf {tok code t} (h : execTrap tok code s = .next t) : t.mem.wf = true := by
  refine done_wf hs (fun u hu => ?_) h
  obtain ⟨_, -, hu⟩ := bind_ok.mp hu
  cases hu

include hs in
theorem execYieldExpiry_wf {loom ev t} (h : execYieldExpiry loom ev s = .next t) : t.mem.wf = true :=
  event_wf hs (fun _ hu => by grind [setCtxAt_mem]) h

include hs in
theorem execCongestionDecay_wf {peer mem t} (h : execCongestionDecay peer mem s = .next t) : t.mem.wf = true := by
  refine event_wf hs (fun u hu => ?_) h
  obtain ⟨p, -, hu⟩ := Option.bind_eq_some_iff.mp hu
  split at hu
  · cases hu
  · rw [← Option.some.inj hu, setPart_mem]
    exact hs

include hs in
theorem execDataFlit_wf {port d t} (h : execDataFlit port d s = .next t) : t.mem.wf = true :=
  event_wf hs (fun _ hu => by grind [dataFlitIn_wf]) h

include hs in
theorem execModuleReset_wf {signatureOk t} (h : execModuleReset signatureOk s = .next t) : t.mem.wf = true := by
  refine event_wf hs (fun u hu => ?_) h
  rw [← Option.some.inj hu]
  exact moduleReset_wf ..

include hs in
theorem execLackInterval_wf {port t} (h : execLackInterval port s = .next t) : t.mem.wf = true :=
  event_wf hs (fun _ hu => by grind [sendLack_mem]) h

include hs in
theorem execModuleInputFault_wf {t} (h : execModuleInputFault s = .next t) : t.mem.wf = true :=
  event_wf hs (fun _ hu => by grind [moduleInputFault_wf]) h

include hs in
theorem execLaunch_wf {peer req args t} (h : execLaunch peer req args s = .next t) : t.mem.wf = true := by
  refine onRequest_wf hs (fun u p hu => ?_) h
  exact armWith_wf hu ..

include hs in
theorem execCancel_wf {peer req index level t} (h : execCancel peer req index level s = .next t) : t.mem.wf = true := by
  refine onRequest_wf hs (fun u p hu => ?_) h
  grind [cancelCounter_wf, reply_mem]

include hs in
theorem execStatus_wf {peer req index t} (h : execStatus peer req index s = .next t) : t.mem.wf = true := by
  refine onRequest_wf hs (fun u p hu => ?_) h
  grind [reply_mem]

include hs in
theorem execArrivals_wf {peer req count payload ops t} (h : execArrivals peer req count payload ops s = .next t) : t.mem.wf = true := by
  refine onRequest_wf hs (fun u p hu => ?_) h
  grind [reply_mem, postWaiting_wf]

include hs in
theorem execImageRead_wf {peer req va len t} (h : execImageRead peer req va len s = .next t) : t.mem.wf = true := by
  refine onRequest_wf hs (fun u p hu => ?_) h
  exact wf_of_mem_eq hu (imageReadAt_mem ..)

include hs in
theorem execDissolve_wf {peer req t} (h : execDissolve peer req s = .next t) : t.mem.wf = true := by
  refine onRequest_wf hs (fun u p hu => ?_) h
  exact dissolveWith_wf hu ..

include hs in
theorem execResize_wf {peer req panels t} (h : execResize peer req panels s = .next t) : t.mem.wf = true := by
  refine onRequest_wf hs (fun u p hu => ?_) h
  exact resizeWith_wf hu ..

include hs in
theorem execReset_wf {peer req t} (h : execReset peer req s = .next t) : t.mem.wf = true := by
  refine onRequest_wf hs (fun u p hu => ?_) h
  exact beginReset_wf hu ..

include hs in
theorem execInvalidate_wf {peer req va len t} (h : execInvalidate peer req va len s = .next t) : t.mem.wf = true := by
  refine onRequest_wf hs (fun u p hu => ?_) h
  grind [dropTranslations_mem, modPart_mem]

include hs in
theorem execLoadplane_wf {peer req va t} (h : execLoadplane peer req va s = .next t) : t.mem.wf = true := by
  refine onRequest_wf hs (fun u p hu => ?_) h
  exact wf_of_mem_eq hu (loadPlaneAt_mem ..)

include hs in
theorem execCounter_wf {peer req level expect parent t} (h : execCounter peer req level expect parent s = .next t) : t.mem.wf = true := by
  refine onRequest_wf hs (fun u p hu => ?_) h
  exact makeCounter_wf hu ..

include hs in
theorem execArm_wf {peer req args t} (h : execArm peer req args s = .next t) : t.mem.wf = true := by
  refine onRequest_wf hs (fun u p hu => ?_) h
  exact armWith_wf hu ..

include hs in
theorem execPreempt_wf {peer req launch limit t} (h : execPreempt peer req launch limit s = .next t) : t.mem.wf = true := by
  refine onRequest_wf hs (fun u p hu => ?_) h
  exact wf_of_mem_eq hu (preemptWith_mem ..)

include hs in
theorem execResume_wf {peer req launch t} (h : execResume peer req launch s = .next t) : t.mem.wf = true := by
  refine onRequest_wf hs (fun u p hu => ?_) h
  exact resumeWith_wf hu ..

include hs in
theorem execDrain_wf {peer req phase t} (h : execDrain peer req phase s = .next t) : t.mem.wf = true := by
  refine onRequest_wf hs (fun u p hu => ?_) h
  dsimp only
  split
  · exact hu
  · split
    · exact hu
    · rw [setPart_mem, foldl_mem (fun v q => setPort_mem ..)]
      exact hu

include hs in
theorem execFabric_wf {peer req va t} (h : execFabric peer req va s = .next t) : t.mem.wf = true := by
  refine onRequest_wf hs (fun u p hu => ?_) h
  exact wf_of_mem_eq hu (fabricWith_mem ..)

include hs in
theorem execLimits_wf {peer req barrier suspension stall t} (h : execLimits peer req barrier suspension stall s = .next t) :
    t.mem.wf = true := by
  refine onRequest_wf hs (fun u p hu => ?_) h
  grind [setPart_mem, reply_mem]

include hs in
theorem execPower_wf {peer req mode budget t} (h : execPower peer req mode budget s = .next t) : t.mem.wf = true := by
  refine onRequest_wf hs (fun u p hu => ?_) h
  exact wf_of_mem_eq hu (powerWith_mem ..)

include hs in
theorem execRead_wf {port f t} (h : execRead port f s = .next t) : t.mem.wf = true := by
  refine onFlit_wf hs (fun u hu => ?_) h
  exact comeIn_wf hu ..

include hs in
theorem execWrite_wf {port f t} (h : execWrite port f s = .next t) : t.mem.wf = true := by
  refine onFlit_wf hs (fun u hu => ?_) h
  exact comeIn_wf hu ..

include hs in
theorem execAtomic_wf {port f t} (h : execAtomic port f s = .next t) : t.mem.wf = true := by
  refine onFlit_wf hs (fun u hu => ?_) h
  exact comeIn_wf hu ..

include hs in
theorem execCasnew_wf {port f t} (h : execCasnew port f s = .next t) : t.mem.wf = true := by
  refine onFlit_wf hs (fun u hu => ?_) h
  exact newValue_wf hu ..

include hs in
theorem execReduce_wf {port f t} (h : execReduce port f s = .next t) : t.mem.wf = true := by
  refine onFlit_wf hs (fun u hu => ?_) h
  exact comeIn_wf hu ..

include hs in
theorem execRelst_wf {port f t} (h : execRelst port f s = .next t) : t.mem.wf = true := by
  refine onFlit_wf hs (fun u hu => ?_) h
  exact comeIn_wf hu ..

include hs in
theorem execChwrite_wf {port f t} (h : execChwrite port f s = .next t) : t.mem.wf = true := by
  refine onFlit_wf hs (fun u hu => ?_) h
  exact comeIn_wf hu ..

include hs in
theorem execReadReply_wf {port f t} (h : execReadReply port f s = .next t) : t.mem.wf = true := by
  refine onFlit_wf hs (fun u hu => ?_) h
  grind [takeReply_wf, forward_mem, comeIn_wf]

include hs in
theorem execAck_wf {port f t} (h : execAck port f s = .next t) : t.mem.wf = true := by
  refine onFlit_wf hs (fun u hu => ?_) h
  exact shortReply_wf hu ..

include hs in
theorem execAtomicReply_wf {port f t} (h : execAtomicReply port f s = .next t) : t.mem.wf = true := by
  refine onFlit_wf hs (fun u hu => ?_) h
  exact shortReply_wf hu ..

include hs in
theorem execWindow_wf {port f t} (h : execWindow port f s = .next t) : t.mem.wf = true := by
  refine onFlit_wf hs (fun u hu => ?_) h
  exact windowFlit_wf hu ..

include hs in
theorem execCongestion_wf {port f t} (h : execCongestion port f s = .next t) : t.mem.wf = true := by
  refine onFlit_wf hs (fun u hu => ?_) h
  grind [forward_mem, modPart_mem]

include hs in
theorem execDrainFlit_wf {port f t} (h : execDrainFlit port f s = .next t) : t.mem.wf = true := by
  refine onFlit_wf hs (fun u hu => ?_) h
  exact hu

include hs in
theorem execPark_wf {port f t} (h : execPark port f s = .next t) : t.mem.wf = true := by
  refine onFlit_wf hs (fun u hu => ?_) h
  exact hu

include hs in
theorem execWake_wf {port f t} (h : execWake port f s = .next t) : t.mem.wf = true := by
  refine onFlit_wf hs (fun u hu => ?_) h
  exact hu

include hs in
theorem execImageWrite_wf {peer va data t} (h : execImageWrite peer va data s = .next t) : t.mem.wf = true :=
  onMessage_wf hs (fun _ hu => by grind [Option.bind_eq_some_iff, imageWriteAt_wf]) h

include hs in
theorem execAttestationRequest_wf {peer args t} (h : execAttestationRequest peer args s = .next t) : t.mem.wf = true :=
  onMessage_wf hs (fun _ hu => by grind [attest_mem, receive_mem]) h

include hs in
theorem execForm_wf {req args t} (h : execForm req args s = .next t) : t.mem.wf = true :=
  onMessage_wf hs (fun _ hu => by grind [formWith_wf, receive_mem]) h

include hs in
theorem execLack_wf {port f t} (h : execLack port f s = .next t) : t.mem.wf = true := by
  refine onLink_wf hs ?_ h
  simpa using hs

include hs in
theorem execLretry_wf {port f t} (h : execLretry port f s = .next t) : t.mem.wf = true := by
  refine onLink_wf hs ?_ h
  exact hs

include hs in
theorem execIdle_wf {port f t} (h : execIdle port f s = .next t) : t.mem.wf = true := by
  refine onLink_wf hs ?_ h
  exact hs

include hs in
theorem execWakeLock_wf {port t} (h : execWakeLock port s = .next t) : t.mem.wf = true :=
  event_wf hs (fun _ hu => by grind [Option.bind_eq_some_iff, setPort_mem, sendPark_mem]) h

include hs in
theorem execLackTimeout_wf {port t} (h : execLackTimeout port s = .next t) : t.mem.wf = true :=
  event_wf hs (fun _ hu => by grind [resend_mem]) h

include hs in
theorem execWavelengthLoss_wf {port wave t} (h : execWavelengthLoss port wave s = .next t) : t.mem.wf = true :=
  event_wf hs (fun _ hu => by grind [loseWave_wf]) h

include hs in
theorem execPortDown_wf {port reason t} (h : execPortDown port reason s = .next t) : t.mem.wf = true :=
  event_wf hs (fun _ hu => by grind [setPort_mem, portDown_wf]) h

include hs in
theorem execFleolapinAck_wf {peer endpoint seq t} (h : execFleolapinAck peer endpoint seq s = .next t) : t.mem.wf = true :=
  event_wf hs (fun _ hu => by grind) h

include hs in
theorem execFleolapinRetransmit_wf {peer endpoint seq t} (h : execFleolapinRetransmit peer endpoint seq s = .next t) : t.mem.wf = true := by
  refine event_wf hs (fun u hu => ?_) h
  obtain ⟨m, -, rfl⟩ := Option.map_eq_some_iff.mp hu
  exact hs

include hs in
theorem execSlip_wf {window t} (h : execSlip window s = .next t) : t.mem.wf = true :=
  local_wf hs h

include hs in
theorem execPickEnd_wf {t} (h : execPickEnd s = .next t) : t.mem.wf = true :=
  local_wf hs h

include hs in
/-- What an instruction, an event or a message means keeps the canonical form. -/
theorem exec_wf {i : Instr} {t : State} (h : exec i s = .next t) : t.mem.wf = true := by
  cases i
  case add | sub | and | or | xor | andn | shl | shr | sar | mul | mulh | mulhu | min | max | minu | maxu | slt | sltu | seq |
      sne | clz | ctz | popc | addi | andi | ori | xori | shli | shri | sari | slti | lui | liw | bfx | bfi | sel | agen | astep |
      br | beq | bne | blt | bge | bltu | bgeu | call | jr | bqp | fenceS | fenceX | rel | waitC | csrr | csrw | yield | sadd |
      ssub | smul | smin | smax | sand | sor | sxor | sshl | sshr | fadd | fsub | fmul | fmin | fmax | fcmp | sfma | scvt | sli |
      smovq | vadd | vsub | vmul | vmin | vmax | vabs | vneg | vand | vor | vxor | vshl | vshr | vsar | vmov | vaddVs | vsubVs |
      vmulVs | vminVs | vmaxVs | vandVs | vorVs | vxorVs | vshlVs | vshrVs | vsarVs | vmovVs | vfma | vfms | vcmp | vsel | vclamp |
      vcvt | vquant | vdeq | vredSumRow | vredSumCol | vredMaxRow | vredMaxCol | vredMinRow | vredMinCol | vshuf | vrotRow |
      vrotCol | vtran | vbcRow | vbcCol | vexp2 | vlog2 | vrcp | vrsq | vtanh | vsigm | shape | kset | kand | kor | kxor | knot |
      brq | brk | brx | qskip | ftsel | vseed | sflags | loop | loopr | safept =>
    exact local_wf hs h
  case amoAdd | amoAddN | amoAnd | amoAndN | amoOr | amoOrN | amoXor | amoXorN | amoMin | amoMinN | amoMax | amoMaxN | amoMinu |
      amoMinuN | amoMaxu | amoMaxuN | amoSwap | amoSwapN | cas | faaC =>
    exact atomic_wf hs h
  case lda => exact execLda_wf hs h
  case sta => exact execSta_wf hs h
  case ldq => exact execLdq_wf hs h
  case ldq2d => exact execLdq2d_wf hs h
  case stq => exact execStq_wf hs h
  case stq2d => exact execStq2d_wf hs h
  case gathq => exact execGathq_wf hs h
  case scatq => exact execScatq_wf hs h
  case pref => exact execPref_wf hs h
  case fenceD => exact execFenceD_wf hs h
  case acq => exact execAcq_wf hs h
  case relSt => exact execRelSt_wf hs h
  case bind => exact execBind_wf (st := 0) hs h
  case unbind => exact execUnbind_wf (st := 0) hs h
  case barInit => exact execBarInit_wf hs h
  case barExpect => exact execBarExpect_wf hs h
  case barArrive => exact execBarArrive_wf hs h
  case barWait => exact execBarWait_wf (scope := 0) hs h
  case barTest => exact execBarTest_wf hs h
  case barFlags => exact execBarFlags_wf hs h
  case bobArm => exact execBobArm_wf hs h
  case bobDisarm => exact execBobDisarm_wf hs h
  case bobRead => exact execBobRead_wf hs h
  case suspMk => exact execSuspMk_wf hs h
  case suspFill => exact execSuspFill_wf hs h
  case suspPeek => exact execSuspPeek_wf hs h
  case cpy => exact execCpy_wf hs h
  case cpy2d => exact execCpy2d_wf hs h
  case cpyRed => exact execCpyRed_wf hs h
  case cpyMc => exact execCpyMc_wf hs h
  case cpyDec => exact execCpyDec_wf hs h
  case ctbl => exact execCtbl_wf hs h
  case cpyCsum => exact execCpyCsum_wf hs h
  case stashPut => exact execStashPut_wf hs h
  case stashDrop => exact execStashDrop_wf hs h
  case stashFetch => exact execStashFetch_wf hs h
  case stashFree => exact execStashFree_wf hs h
  case chSend => exact execChSend_wf hs h
  case chFree => exact execChFree_wf hs h
  case chWin => exact execChWin_wf hs h
  case taskCancel => exact execTaskCancel_wf hs h
  case accInit => exact execAccInit_wf hs h
  case accDrain => exact execAccDrain_wf hs h
  case trdArrive => exact execTrdArrive_wf (st := 0) hs h
  case trdVpin => exact execTrdVpin_wf hs h
  case trdVunpin => exact execTrdVunpin_wf (st := 0) hs h
  case trdInfo => exact execTrdInfo_wf hs h
  case trdDiff => exact execTrdDiff_wf (st := 0) hs h
  case trdCancel => exact execTrdCancel_wf (st := 0) hs h
  case rett => exact execRett_wf hs h
  case ctxSave => exact execCtxSave_wf hs h
  case ctxLoad => exact execCtxLoad_wf hs h
  case taskPut | taskPutp => exact taskPut_wf hs h
  case linkPark => exact execLinkPark_wf hs h
  case linkWake => exact execLinkWake_wf hs h
  case trap => exact execTrap_wf hs h
  case bobbinActionPost => exact event_wf hs (fun _ hu => postAction_wf hs hu) h
  case copyStart => exact event_wf hs (fun _ hu => copyStart_wf hs hu) h
  case copyChunkWrite => exact event_wf hs (fun _ hu => copyChunk_wf hs hu) h
  case decoderBlock => exact event_wf hs (fun _ hu => decoderBlock_wf hs hu) h
  case schedulerStart => exact event_wf hs (fun _ hu => schedulerStart_wf hs hu) h
  case partialDone => exact event_wf hs (fun _ hu => partialDone_wf hs hu) h
  case contributionMerge => exact event_wf hs (fun _ hu => mergeAt_wf hs hu) h
  case taskRetire => exact event_wf hs (fun _ hu => taskRetire_wf hs hu) h
  case tileDrain => exact event_wf hs (fun _ hu => tileDrain_wf hs hu) h
  case yieldExpiry => exact execYieldExpiry_wf hs h
  case loomPickRetire => exact event_wf hs (fun _ hu => loomRetire_wf hs hu) h
  case treadleDecision => exact event_wf hs (fun _ hu => treadleDecision_wf hs hu) h
  case gangStart => exact event_wf hs (fun _ hu => wf_of_mem_eq hs (gangStart_mem hu)) h
  case replayEntryStart => exact event_wf hs (fun _ hu => replayStart_wf hs hu) h
  case spillReturn => exact event_wf hs (fun _ hu => spillReturn_wf hs hu) h
  case heldArrivalPost => exact event_wf hs (fun _ hu => heldArrivalPost_wf hs hu) h
  case loaderArrival => exact event_wf hs (fun _ hu => loaderArrival_wf hs hu) h
  case evaluationStart => exact event_wf hs (fun _ hu => wf_of_mem_eq hs (evaluationStart_mem hu)) h
  case fillLine => exact event_wf hs (fun _ hu => fillLine_wf hs hu) h
  case loadReturn => exact event_wf hs (fun _ hu => loadReturn_wf hs hu) h
  case writeAck => exact event_wf hs (fun _ hu => writeAck_wf hs hu) h
  case multicastLand => exact event_wf hs (fun _ hu => multicastLand_wf hs hu) h
  case pageWalk => exact event_wf hs (fun _ hu => wf_of_mem_eq hs (pageWalk_mem hu)) h
  case combineDepart => exact event_wf hs (fun _ hu => combineDepart_wf hs hu) h
  case decombineReply => exact event_wf hs (fun _ hu => decombineReply_wf hs hu) h
  case requestReplay => exact event_wf hs (fun _ hu => requestReplay_wf hs hu) h
  case loaderRetry => exact event_wf hs (fun _ hu => loaderRetry_wf hs hu) h
  case suspensionLimit => exact event_wf hs (fun _ hu => suspensionLimit_wf hs hu) h
  case barrierTimeout => exact event_wf hs (fun _ hu => barrierTimeout_wf hs hu) h
  case drainTimeout => exact event_wf hs (fun _ hu => drainTimeout_wf hs hu) h
  case safeptOverrun => exact event_wf hs (fun _ hu => safeptOverrun_wf hs hu) h
  case queueDeadlock | slipStall => exact event_wf hs (fun _ hu => raiseIf_wf hs hu) h
  case handledFaultEntry => exact event_wf hs (fun _ hu => handledEntry_wf hs hu) h
  case unhandledFaultStop => exact event_wf hs (fun _ hu => unhandledStop_wf hs hu) h
  case preemptSave => exact event_wf hs (fun _ hu => preemptSave_wf hs hu) h
  case preemptLimit => exact event_wf hs (fun _ hu => preemptLimit_wf hs hu) h
  case planeSwitch => exact event_wf hs (fun _ hu => planeSwitch_wf hs hu) h
  case liftstall => exact event_wf hs (fun _ hu => liftStall_wf hs hu) h
  case spillFenceRetry => exact event_wf hs (fun _ hu => wf_of_mem_eq hs (spillFenceRetry_mem hu)) h
  case congestionDecay => exact execCongestionDecay_wf hs h
  case relock => exact event_wf hs (fun _ hu => relock_wf hs hu) h
  case dataFlit => exact execDataFlit_wf hs h
  case cappedMeasure => exact event_wf hs (fun _ hu => cappedMeasure_wf hs hu) h
  case thermalStep => exact event_wf hs (fun _ hu => thermalStep_wf hs hu) h
  case panelFault => exact event_wf hs (fun _ hu => panelFault_wf hs hu) h
  case bridge => exact event_wf hs (fun _ hu => bridgeFails_wf hs hu) h
  case gateTest => exact event_wf hs (fun _ hu => gateTest_wf hs hu) h
  case moduleReset => exact execModuleReset_wf hs h
  case trainingEnd => exact event_wf hs (fun _ hu => trainingEnd_wf hs hu) h
  case calibrationEnd => exact event_wf hs (fun _ hu => calibrationEnd_wf hs hu) h
  case loomServiceMove => exact event_wf hs (fun _ hu => wf_of_mem_eq hs (loomServiceMove_mem hu)) h
  case patrolScrub => exact event_wf hs (fun _ hu => patrolScrub_wf hs hu) h
  case corrected => exact event_wf hs (fun _ hu => corrected_wf hs hu) h
  case registerResultLand => exact event_wf hs (fun _ hu => wf_of_mem_eq hs (resultLand_mem hu)) h
  case declaredCompletion => exact event_wf hs (fun _ hu => wf_of_mem_eq hs (declaredCompletion_mem hu)) h
  case accInitApplied => exact event_wf hs (fun _ hu => applyInit_wf hs hu) h
  case stashActionComplete => exact event_wf hs (fun _ hu => stashAction_wf hs hu) h
  case lackInterval => exact execLackInterval_wf hs h
  case panelFaultClear => exact event_wf hs (fun _ hu => panelFaultClear_wf hs hu) h
  case moduleInputFault => exact execModuleInputFault_wf hs h
  case launch => exact execLaunch_wf hs h
  case cancel => exact execCancel_wf hs h
  case status => exact execStatus_wf hs h
  case arrivals => exact execArrivals_wf hs h
  case imageRead => exact execImageRead_wf hs h
  case dissolve => exact execDissolve_wf hs h
  case resize => exact execResize_wf hs h
  case reset => exact execReset_wf hs h
  case invalidate => exact execInvalidate_wf hs h
  case loadplane => exact execLoadplane_wf hs h
  case counter => exact execCounter_wf hs h
  case arm => exact execArm_wf hs h
  case preempt => exact execPreempt_wf (limit := 0) hs h
  case resume => exact execResume_wf hs h
  case drain => exact execDrain_wf hs h
  case fabric => exact execFabric_wf hs h
  case limits => exact execLimits_wf hs h
  case power => exact execPower_wf hs h
  case read => exact execRead_wf hs h
  case write => exact execWrite_wf hs h
  case atomic => exact execAtomic_wf hs h
  case casnew => exact execCasnew_wf hs h
  case reduce => exact execReduce_wf hs h
  case relst => exact execRelst_wf hs h
  case chwrite => exact execChwrite_wf hs h
  case readReply => exact execReadReply_wf hs h
  case ack => exact execAck_wf hs h
  case atomicReply => exact execAtomicReply_wf hs h
  case window => exact execWindow_wf hs h
  case congestion => exact execCongestion_wf hs h
  case drainFlit => exact execDrainFlit_wf hs h
  case park => exact execPark_wf hs h
  case wake => exact execWake_wf hs h
  case imageWrite => exact execImageWrite_wf hs h
  case attestationRequest => exact execAttestationRequest_wf hs h
  case form => exact execForm_wf hs h
  case lack => exact execLack_wf hs h
  case lretry => exact execLretry_wf hs h
  case idle => exact execIdle_wf hs h
  case wakeLock => exact execWakeLock_wf hs h
  case lackTimeout => exact execLackTimeout_wf hs h
  case wavelengthLoss => exact execWavelengthLoss_wf hs h
  case portDown => exact execPortDown_wf hs h
  case fleolapinAck => exact execFleolapinAck_wf hs h
  case fleolapinRetransmit => exact execFleolapinRetransmit_wf hs h
  case pickEnd => exact execPickEnd_wf hs h
  case slip => exact execSlip_wf hs h

end

end Sys2Proof.Proofs.Canonical
end

section
/-!
PROOFS. Every step keeps the memory's canonical form (O51): fetch and lanes, what comes from outside, and one step.
-/

namespace Sys2Proof.Proofs.Canonical

open Sys2Proof.Machine Sys2Proof.Laws

section
variable {s t u : State} (hs : s.mem.wf = true)

/-! ## Fetch and the lanes of a line -/

theorem fetchLine_words_mem {peer pc u ws} (h : s.fetchLine peer pc = .words u ws) : u.mem = s.mem := by
  unfold State.fetchLine at h
  grind [readSpan_mem, setLoom_mem]

theorem fetchLine_bad_mem {peer pc u f} (h : s.fetchLine peer pc = .bad u f) : u.mem = s.mem := by
  unfold State.fetchLine at h
  grind [readSpan_mem]

/-- Every state that an outcome goes on with has a memory in canonical form. -/
def CanonicalOutcome (r : Host.Outcome State Fault Refusal) : Prop := ∀ t, r = .next t → t.mem.wf = true

theorem canonical_next {t : State} (h : t.mem.wf = true) : CanonicalOutcome (.next t) := fun _ ht => by cases ht; exact h

/-- Every state that the lanes of a line leave has a memory in canonical form. -/
def CanonicalLanes : Lanes → Prop
  | .issued t | .waits t _ | .faults t _ _ => t.mem.wf = true
  | .stops r => CanonicalOutcome r

theorem runLanes_canonical (e : Sel) (ops : List LaneOp) :
    ∀ {s : State}, s.mem.wf = true → CanonicalLanes (State.runLanes exec e ops s) := by
  induction ops with
  | nil => exact fun hs => hs
  | cons o r ih =>
    intro s hs
    have hlane (c : Ctx) : (s.setCtxAt e.loom e.ev c).mem.wf = true := by rw [setCtxAt_mem]; exact hs
    simp only [State.runLanes]
    split
    case h_1 t ht =>
      have hexec : t.mem.wf = true := by
        refine exec_wf ?_ ht
        simpa using hs
      split
      · exact hlane _
      · exact hlane _
      · split
        · exact hexec
        · exact ih (by rw [setCtxAt_mem]; exact hexec)
    case h_2 hstop => exact fun t ht => absurd ht (hstop t)

include hs in
theorem goOn_canonical {before : State} (hb : before.mem.wf = true) (e l) : CanonicalOutcome (State.goOn exec before s e l) := by
  unfold State.goOn
  dsimp only
  have hlanes (ops) := runLanes_canonical e ops hs
  generalize hr : State.runLanes exec e _ s = r
  have hr : CanonicalLanes r := hr ▸ hlanes _
  have hback (t : State) (ht : t.mem.wf = true) : (if l.exposed then before else t).mem.wf = true := by split <;> assumption
  cases r with
  | issued t =>
    dsimp only
    split
    · exact canonical_next hr
    · split
      · exact canonical_next (afterLanes_wf hr ..)
      · exact canonical_next hr
  | waits t w => exact canonical_next (hold_wf (hback t hr) ..)
  | faults t o f => exact canonical_next (laneFault_wf (hback t hr) ..)
  | stops r => exact hr

include hs in
theorem startLine_canonical (e l) : CanonicalOutcome (State.startLine exec s e l) := by
  unfold State.startLine
  dsimp only
  split
  · exact canonical_next (raiseSequencer_wf hs ..)
  · split
    · exact canonical_next (hold_wf hs ..)
    · split
      · exact canonical_next (hold_wf hs ..)
      · exact goOn_canonical (by rw [setCtxAt_mem]; exact hs) hs _ _

include hs in
theorem tryLine_canonical (e) : CanonicalOutcome (State.tryLine exec s e) := by
  unfold State.tryLine
  dsimp only
  split
  case h_1 => exact canonical_next (hold_wf hs ..)
  case h_2 => exact canonical_next (raisePrecise_wf hs ..)
  case h_3 u f hbad => exact canonical_next (raisePrecise_wf (wf_of_mem_eq hs (fetchLine_bad_mem hbad)) ..)
  case h_4 u ws hwords =>
    have hu : u.mem.wf = true := wf_of_mem_eq hs (fetchLine_words_mem hwords)
    split
    · exact canonical_next (raisePrecise_wf hu ..)
    · split
      · split
        · exact canonical_next (afterLanes_wf hu ..)
        · exact goOn_canonical hu hu _ _
      · exact startLine_canonical hu _ _

include hs in
theorem issueCtx_canonical (e) : CanonicalOutcome (State.issueCtx exec s e) := by
  have hcur : ({ s with cur := e } : State).mem.wf = true := hs
  unfold State.issueCtx
  dsimp only
  split
  · exact canonical_next hs
  · split
    · exact canonical_next hs
    · split
      · exact tryLine_canonical hcur e
      · split
        · exact canonical_next hs
        · split
          · exact canonical_next (hold_wf hcur ..)
          · exact tryLine_canonical hcur e

include hs in
theorem issue_canonical (e) : CanonicalOutcome (State.issue exec s e) := by
  unfold State.issue
  dsimp only
  split
  · exact canonical_next hs
  · split
    next t ht => exact canonical_next (by rw [spendShare_mem]; exact issueCtx_canonical hs e t ht)
    next hstop => exact fun t ht => absurd ht (hstop t)

/-! ## What comes from outside -/

include hs in
theorem event_canonical {r : Option State} (hr : ∀ u, r = some u → u.mem.wf = true) : CanonicalOutcome (s.event r) :=
  fun _ h => event_wf hs hr h

include hs in
theorem exec_canonical (i : Instr) : CanonicalOutcome (exec i s) := fun _ h => exec_wf hs h

include hs in
theorem strange_canonical (peer m) : CanonicalOutcome (s.strange peer m) := fun _ h => onRequest_wf hs (fun _ _ hu => hu) h

include hs in
theorem jobMessage_canonical (peer m) : CanonicalOutcome (s.jobMessage peer m) := by
  unfold State.jobMessage
  split
  · split
    · exact exec_canonical hs (.launch ..)
    · exact strange_canonical hs _ _
  · exact exec_canonical hs (.cancel ..)
  · exact exec_canonical hs (.status ..)
  · exact exec_canonical hs (.arrivals ..)
  · exact strange_canonical hs _ _

include hs in
theorem commandMessage_canonical (peer m) : CanonicalOutcome (s.commandMessage peer m) := by
  unfold State.commandMessage
  dsimp only
  split
  · exact exec_canonical hs (.form ..)
  · exact exec_canonical hs (.dissolve ..)
  · exact exec_canonical hs (.resize ..)
  · exact exec_canonical hs (.reset ..)
  · exact exec_canonical hs (.invalidate ..)
  · exact exec_canonical hs (.loadplane ..)
  · exact exec_canonical hs (.counter ..)
  · exact exec_canonical hs (.arm ..)
  · exact exec_canonical hs (.preempt (limit := 0) ..)
  · exact exec_canonical hs (.resume ..)
  · exact exec_canonical hs (.drain ..)
  · exact exec_canonical hs (.fabric ..)
  · exact exec_canonical hs (.limits ..)
  · exact exec_canonical hs (.power ..)
  · exact strange_canonical hs _ _

include hs in
theorem otherPeer_canonical (peer m) : CanonicalOutcome (s.otherPeer peer m) :=
  fun _ h => onMessage_wf hs (fun u hu => by grind [receive_mem, reply_mem]) h

include hs in
theorem deliver_canonical (peer m) : CanonicalOutcome (s.deliver peer m) := by
  unfold State.deliver
  split
  · exact otherPeer_canonical hs _ _
  · split
    · exact jobMessage_canonical hs _ _
    · exact exec_canonical hs (.imageWrite ..)
    · exact exec_canonical hs (.imageRead ..)
    · exact commandMessage_canonical hs _ _
    · exact fun _ h => onMessage_wf hs (fun u hu => by grind [attest_mem, receive_mem]) h
    · exact fun _ h => onMessage_wf hs (fun u hu => by grind [dropMessage_mem]) h

include hs in
theorem onRawMessage_canonical (peer m) : CanonicalOutcome (s.onRawMessage peer m) := by
  have hsame : CanonicalOutcome (s.event (some s)) := event_canonical hs (fun u hu => by cases hu; exact hs)
  unfold State.onRawMessage
  dsimp only
  split
  · exact hsame
  · split
    · exact deliver_canonical hs _ _
    · split
      · exact hsame
      · exact event_canonical hs (fun u hu => by cases hu; exact hs)

include hs in
theorem onRawFlit_canonical (q w) : CanonicalOutcome (s.onRawFlit q w) := by
  unfold State.onRawFlit
  dsimp only
  split
  · exact exec_canonical hs (.idle ..)
  · exact exec_canonical hs (.read ..)
  · exact exec_canonical hs (.write ..)
  · exact exec_canonical hs (.atomic ..)
  · exact exec_canonical hs (.casnew ..)
  · exact exec_canonical hs (.reduce ..)
  · exact exec_canonical hs (.relst ..)
  · exact exec_canonical hs (.chwrite ..)
  · exact exec_canonical hs (.readReply ..)
  · exact exec_canonical hs (.ack ..)
  · exact exec_canonical hs (.atomicReply ..)
  · exact exec_canonical hs (.window ..)
  · exact exec_canonical hs (.congestion ..)
  · exact exec_canonical hs (.drainFlit ..)
  · exact exec_canonical hs (.relock ..)
  · exact exec_canonical hs (.park ..)
  · exact exec_canonical hs (.wake ..)
  · exact exec_canonical hs (.lack ..)
  · exact exec_canonical hs (.lretry ..)
  · exact event_canonical hs (fun _ hu => strangeFlit_wf hs hu)

/-! ## One step -/

include hs in
theorem moveEngine_canonical (e) : CanonicalOutcome (s.moveEngine e) := by
  unfold State.moveEngine
  split
  · exact issue_canonical hs e
  · exact fun _ h => by cases h

include hs in
theorem moveEvent_canonical (i) : CanonicalOutcome (s.moveEvent i) := by
  unfold State.moveEvent
  split
  · exact canonical_next hs
  · exact exec_canonical hs i

include hs in
theorem oneMove_canonical (m) : CanonicalOutcome (s.oneMove m) := by
  cases m with
  | issue e => exact moveEngine_canonical hs e
  | event i => exact moveEvent_canonical hs i
  | damage pa k => exact canonical_next (wf_of_mem_eq hs (moveDamage_mem ..))
  | badBobbin k => exact canonical_next (bobbinError_wf hs k)
  | badPlane panel off => exact canonical_next (planeError_wf hs ..)
  | firmware pa e => exact canonical_next (moveFirmware_wf hs ..)
  | firmwareLine pa bs => exact canonical_next (moveFirmwareLine_wf hs ..)
  | flit q w => exact onRawFlit_canonical hs q w
  | beats q => exact event_canonical hs (fun _ hu => wf_of_mem_eq hs (dataOut_mem hu))
  | message peer m => exact onRawMessage_canonical hs peer m
  | badConfig => exact event_canonical hs (fun _ hu => wf_of_mem_eq hs (badConfig_mem hu))

theorem close_canonical {agenda r} (h : CanonicalOutcome r) : CanonicalOutcome (State.close agenda r) := by
  have hagenda (t : State) (ht : t.mem.wf = true) : ({ t with agenda := agenda } : State).mem.wf = true := ht
  cases r with
  | next t => exact canonical_next (hagenda _ (settle_wf (h t rfl)))
  | fault => exact fun _ ht => by cases ht
  | refused => exact fun _ ht => by cases ht

include hs in
theorem step_canonical : CanonicalOutcome (step s) := by
  unfold step
  split
  · exact close_canonical (moveEngine_canonical hs _)
  · exact close_canonical (oneMove_canonical hs _)

end

/-- Settles O51: the move keeps the canonical form whatever its kind, and so does what the step has left to do. -/
theorem memoryCanonicalKept : Obligations.MemoryCanonicalKept :=
  fun _ t hs h => step_canonical hs t h

end Sys2Proof.Proofs.Canonical
end

section
/-!
PROOFS. Scratchpad accesses (O29): what a store writes to and a load reads from scratchpad lines that hold no record, and that letting
further accesses go leaves every register as it is.
-/

namespace Sys2Proof.Proofs.Scratchpads

open Sys2Proof.Machine Sys2Proof.Claims Sys2Proof.Laws Sys2Proof.Proofs.Canonical

/-! ## Letting accesses go changes no register -/

section
variable {s t : State}

@[simp] theorem modPart_looms (peer f) : (s.modPart peer f).looms = s.looms := by
  unfold State.modPart
  split <;> simp

@[simp] theorem emitControl_looms (q kind f) : (s.emitControl q kind f).looms = s.looms := rfl

@[simp] theorem noticeCongestion_looms (q kind f) : (s.noticeCongestion q kind f).looms = s.looms := by
  unfold State.noticeCongestion
  grind [setPort_looms, emitControl_looms, modPart_looms]

@[simp] theorem emitFlit_looms (q kind f) : (s.emitFlit q kind f).looms = s.looms := by simp [State.emitFlit]

@[simp] theorem sendFlit_looms (q kind f) : (s.sendFlit q kind f).looms = s.looms := by
  unfold State.sendFlit
  grind [setPort_looms, emitFlit_looms]

theorem transmit_looms {r} {r'} (h : s.transmit r = some r') : r'.1.looms = s.looms := by
  unfold State.transmit at h
  grind [sendFlit_looms, Option.map_eq_some_iff, Option.bind_eq_some_iff]

@[simp] theorem request_looms (src peer dpeer loom ev owner kind f casNew) :
    (s.request src peer dpeer loom ev owner kind f casNew).looms = s.looms := by
  simp only [State.request]
  split
  · rfl
  · split
    next h =>
      split at h
      · cases h
      · exact transmit_looms h
    · rfl

@[simp] theorem sendSpan_looms (loom ev peer a i sp) : (s.sendSpan loom ev peer a i sp).looms = s.looms := by
  cases hk : a.kind with
  | atomic op o => cases op <;> simp [State.sendSpan, hk]
  | _ => simp [State.sendSpan, hk]

@[simp] theorem joinSwitch_looms (switch target part) : (s.joinSwitch switch target part).1.looms = s.looms := by
  unfold State.joinSwitch
  grind

theorem ctxAt_of_looms (h : t.looms = s.looms) (loom : Nat) (ev : Bool) : t.ctxAt loom ev = s.ctxAt loom ev := by
  simp only [State.ctxAt, State.loom, h]

/-- What a function of a context's state that leaves its a-registers as they are leaves over a fold, too. -/
theorem foldl_ctxAt_a {α : Type} {f : State → α → State} {loom : Nat} {ev : Bool}
    (hf : ∀ u x, ((f u x).ctxAt loom ev).a = (u.ctxAt loom ev).a) (xs : List α) (s : State) :
    ((xs.foldl f s).ctxAt loom ev).a = (s.ctxAt loom ev).a := by
  induction xs generalizing s with
  | nil => rfl
  | cons x xs ih => exact (ih _).trans (hf s x)

theorem ctxAt_a_enterSwitch (loom ev a) : ((s.enterSwitch loom ev a).ctxAt loom ev).a = (s.ctxAt loom ev).a := by
  have hjoin (u v : State) (h : v.looms = u.looms) (accs : List Access) :
      ((v.setCtxAt loom ev { v.ctxAt loom ev with accs := accs }).ctxAt loom ev).a = (u.ctxAt loom ev).a := by
    rw [ctxAt_setCtxAt, ctxAt_of_looms h]
  unfold State.enterSwitch
  split
  · split
    · rfl
    · refine hjoin s _ ?_ _
      grind [joinSwitch_looms]
  · rfl

theorem ctxAt_a_sendSpans (loom ev peer a) (due : List (Span × Nat)) :
    ((due.foldl (fun u x => u.sendSpan loom ev peer a x.2 x.1) s).ctxAt loom ev).a = (s.ctxAt loom ev).a :=
  foldl_ctxAt_a (fun _ _ => congrArg Ctx.a (ctxAt_of_looms (sendSpan_looms ..) loom ev)) due s

theorem ctxAt_a_setAccs (loom ev) (accs : List Access) :
    ((s.setCtxAt loom ev { s.ctxAt loom ev with accs := accs }).ctxAt loom ev).a = (s.ctxAt loom ev).a := by
  rw [ctxAt_setCtxAt]

theorem ctxAt_a_pumpAccess (loom ev a) : ((s.pumpAccess loom ev a).ctxAt loom ev).a = (s.ctxAt loom ev).a := by
  unfold State.pumpAccess
  extract_lets c
  split
  · rfl
  · split
    · rfl
    · rename_i free u cu left v due w cw sent _
      have hv : (v.ctxAt loom ev).a = (s.ctxAt loom ev).a := by
        refine Eq.trans ?_ (ctxAt_a_enterSwitch loom ev a)
        unfold v
        split
        · rfl
        · exact ctxAt_a_setAccs ..
      clear_value v
      split
      · exact hv
      · exact (ctxAt_a_setAccs ..).trans ((ctxAt_a_sendSpans ..).trans hv)

theorem ctxAt_a_pump (loom ev) : ((s.pump loom ev).ctxAt loom ev).a = (s.ctxAt loom ev).a :=
  foldl_ctxAt_a (fun _ _ => ctxAt_a_pumpAccess ..) _ s

end

/-! ## Lines of a scratchpad that hold no record -/

theorem readN_append (m : Memory) (a n k : Nat) : m.readN a (n + k) = m.readN a n ++ m.readN (a + n) k := by
  induction n generalizing a with
  | zero => simp [Memory.readN]
  | succ n ih => simp [Nat.succ_add, Memory.readN, ih, ← Nat.add_assoc]

/-- Taking an entry out of a table leaves those above it. -/
theorem find_erase_gt {α : Type} (m : SMap α) {j k : Nat} (h : k < j) : SMap.find? (SMap.erase m k) j = SMap.find? m j := by
  induction m with
  | nil => rfl
  | cons x r ih =>
    simp only [SMap.erase]
    split
    · next hk => simp [SMap.find?, ← hk, Nat.ne_of_gt h, Nat.not_lt_of_gt h]
    · split
      · rfl
      · simp only [SMap.find?, ih]

theorem offChip_pad {pa : Nat} (h : 2 ^ 43 ≤ pa) : offChip pa = false ∧ inHbm pa = false ∧ inAcc pa = false := by
  have hblt (k : Nat) (hk : k ≤ 2 ^ 43) : Nat.blt pa k = false := by
    rw [Bool.eq_false_iff, Ne, Nat.blt_eq]
    omega
  simp only [offChip, inHbm, inLpddr, inAcc, hblt _ (show 2 ^ 41 ≤ 2 ^ 43 by decide),
    hblt _ (show 2 ^ 42 + 2 ^ 41 ≤ 2 ^ 43 by decide), hblt _ (show 0x60020000000 ≤ 2 ^ 43 by decide)]
  simp

/-- The length of the first piece of a run. -/
theorem firstPiece (pa len : Nat) (hlen : len ≠ 0) : ∃ n, Nat.min len (128 - pa % 128) = n ∧ 0 < n ∧ n ≤ len ∧ n ≤ 128 - pa % 128 ∧
    (n = len ∨ n = 128 - pa % 128) := by
  refine ⟨_, rfl, ?_⟩
  rcases Nat.le_total len (128 - pa % 128) with h | h <;> simp [h] <;> omega

section
variable {s : State} {pa : Nat} (hpad : 2 ^ 43 ≤ pa) (hline : s.line pa = {})
include hpad hline

/-- An access to such a line meets nothing. -/
theorem meetLine_pad (va : Nat) (at' : BitVec 8) (whole : Bool) (reads : BitVec 4) : s.meetLine pa va at' whole reads = (s, none) := by
  obtain ⟨hoff, hhbm, hacc⟩ := offChip_pad hpad
  simp [State.meetLine, hoff, hhbm, hacc, hline, Damage.in']

omit hline in
theorem suspended_pad : s.suspended pa = false := by simp [State.suspended, (offChip_pad hpad).2.1]

theorem metaAfter_pad (m : Memory) (at' : BitVec 8) (whole : Bool) : ({ s with mem := m } : State).metaAfter pa at' whole = {} := by
  have hsame : ({ s with mem := m } : State).line pa = {} := hline
  unfold State.metaAfter
  simp only [hsame, (offChip_pad hpad).2.1]
  cases whole <;> simp

/-- A write to it leaves the lines above without records. -/
theorem line_putPiece_pad (at' : BitVec 8) (va off n : Nat) (bs : List Byte) {x : Nat} (hx : pa / 128 < x / 128) :
    (s.putPiece at' ⟨pa, va, off, n⟩ bs).line x = s.line x := by
  simp only [State.putPiece, metaAfter_pad hpad hline, State.setLine, State.line, SMap.getD, if_true]
  rw [find_erase_gt _ hx]

end

theorem putPiece_mem (s : State) (at' : BitVec 8) (p : Piece) (bs : List Byte) : (s.putPiece at' p bs).mem = s.mem.writeN p.pa bs := rfl

/-- A run of bytes of scratchpad lines that hold no record. -/
def CleanRun (s : State) (pa len : Nat) : Prop := 2 ^ 43 ≤ pa ∧ ∀ i < len, s.line (pa + i) = {}

theorem CleanRun.first {s : State} {pa len : Nat} (h : CleanRun s pa len) (hlen : len ≠ 0) : s.line pa = {} :=
  h.2 0 (Nat.pos_of_ne_zero hlen)

theorem CleanRun.rest {s : State} {pa len : Nat} (h : CleanRun s pa len) (n : Nat) : CleanRun s (pa + n) (len - n) :=
  ⟨Nat.le_add_right_of_le h.1, fun i hi => by rw [Nat.add_assoc]; exact h.2 (n + i) (by omega)⟩

theorem readPieces_pad {s : State} {fuel pa va off len : Nat} (h : CleanRun s pa len)
    (hfuel : len ≠ 0 → pa % 128 + len ≤ 128 * fuel) (at' : BitVec 8) :
    s.readPieces at' (pieces pa va off fuel len) = (s, s.mem.readN pa len, none) := by
  induction fuel generalizing pa va off len with
  | zero =>
    obtain rfl : len = 0 := by omega
    rfl
  | succ fuel ih =>
    simp only [pieces]
    split
    next hlen => subst hlen; rfl
    next hlen =>
      obtain ⟨n, hn, hpos, hle, hline, hend⟩ := firstPiece pa len hlen
      have hrest := ih (va := va + n) (off := off + n) (h.rest n) (by omega)
      simp only [hn, State.readPieces, meetLine_pad h.1 (h.first hlen), hrest, ← readN_append]
      rw [Nat.add_sub_cancel' hle]

theorem getD_take_drop {data : List Byte} {off n i : Nat} (hi : i < n) : ((data.drop off).take n).getD i 0 = data.getD (off + i) 0 := by
  simp [List.getD_eq_getElem?_getD, hi]

/-- A write to such a run changes exactly its bytes, which take the data. -/
theorem writePieces_pad {s : State} {fuel pa va off len : Nat} (h : CleanRun s pa len) (hwf : s.mem.wf = true)
    (hfuel : len ≠ 0 → pa % 128 + len ≤ 128 * fuel) (at' : BitVec 8) {data : List Byte} (hdata : off + len ≤ data.length) :
    ∃ u runs, s.writePieces at' data (pieces pa va off fuel len) = (u, runs, none) ∧
      ∀ x, u.mem.read x = if pa ≤ x ∧ x < pa + len then data.getD (off + (x - pa)) 0 else s.mem.read x := by
  induction fuel generalizing s pa va off len with
  | zero =>
    obtain rfl : len = 0 := by omega
    exact ⟨s, [], rfl, fun x => by rw [if_neg (by omega)]⟩
  | succ fuel ih =>
    simp only [pieces]
    split
    next hlen =>
      subst hlen
      exact ⟨s, [], rfl, fun x => by rw [if_neg (by omega)]⟩
    next hlen =>
      obtain ⟨n, hn, hpos, hle, hline, hend⟩ := firstPiece pa len hlen
      rw [hn]
      have hclean : CleanRun (s.putPiece at' ⟨pa, va, off, n⟩ ((data.drop off).take n)) (pa + n) (len - n) := by
        refine ⟨(h.rest n).1, fun i hi => ?_⟩
        rw [line_putPiece_pad h.1 (h.first hlen) _ _ _ _ _ (by omega)]
        exact (h.rest n).2 i hi
      obtain ⟨u, runs, hwrite, hread⟩ := ih (va := va + n) (off := off + n) hclean (writeN_wf _ _ hwf) (by omega) (by omega)
      refine ⟨u, (pa, n) :: runs, ?_, fun x => ?_⟩
      · simp only [State.writePieces, State.refusesStore, suspended_pad h.1, meetLine_pad h.1 (h.first hlen), hwrite]
        rfl
      · have hlength : ((data.drop off).take n).length = n := by simp; omega
        rw [hread x, putPiece_mem, read_writeN _ _ hwf, hlength]
        dsimp only
        by_cases hfirst : pa ≤ x ∧ x < pa + n
        · rw [if_neg (by omega), if_pos hfirst, if_pos (by omega), getD_take_drop (by omega)]
        · rw [if_neg hfirst]
          by_cases hlater : pa + n ≤ x ∧ x < pa + n + (len - n)
          · rw [if_pos hlater, if_pos (by omega)]
            congr 1
            omega
          · rw [if_neg hlater, if_neg (by omega)]

/-! ## An access with one span in a scratchpad -/

theorem mem_pieces_pa {fuel pa va off len : Nat} {p : Piece} (h : p ∈ pieces pa va off fuel len) : pa ≤ p.pa := by
  induction fuel generalizing pa va off len with
  | zero => cases h
  | succ fuel ih =>
    simp only [pieces] at h
    split at h
    · cases h
    · rcases List.mem_cons.mp h with rfl | h
      · exact Nat.le_refl _
      · exact Nat.le_trans (Nat.le_add_right ..) (ih h)

section
variable {s : State} {loom : Nat} {ev : Bool} {a : Access} {sp : Span} (hclean : cleanPad s sp)
include hclean

omit hclean in
theorem fuel_pieces (sp : Span) : sp.len ≠ 0 → sp.pa % 128 + sp.len ≤ 128 * (sp.len / 128 + 2) := by omega

theorem cleanRun_pad : CleanRun s sp.pa sp.len := ⟨hclean.2.2.1, hclean.2.2.2.2⟩

theorem localSpans_pad (c : Ctx) (op : MemOp) : s.localSpans c op sp = .ok [sp] := by simp [State.localSpans, hclean.1]

theorem readSpan_pad : s.readSpan sp = (s, s.mem.readN sp.pa sp.len, none) :=
  readPieces_pad (cleanRun_pad hclean) (fuel_pieces sp) _

theorem readSpans_pad : s.readSpans [sp] = (s, s.mem.readN sp.pa sp.len, none) := by
  simp [State.readSpans, readSpan_pad hclean]

theorem meetsSuspension_pad : s.meetsSuspension [sp] = false := by
  have hcell : ∀ p ∈ sp.pieces, s.meetsCell p sp.attrs = false := fun p hp => by
    simp [State.meetsCell, suspended_pad (Nat.le_trans hclean.2.2.1 (mem_pieces_pa hp))]
  simpa [State.meetsSuspension] using hcell

theorem l1Fill_pad (loom : Nat) : s.l1Fill loom sp = s := by simp [State.l1Fill, l1Page, hclean.2.1]

/-- Nothing holds the span back. -/
theorem dueHere_pad (hready : spanReady s loom ev a sp) (hspans : a.spans = [sp]) (hdone : a.done = []) :
    s.dueHere loom (s.ctxAt loom ev) a = [(0, sp)] := by
  obtain ⟨hfree, hwindow⟩ := hready
  have hlocal : a.localDue (s.ctxAt loom ev).peer = [(0, sp)] := by
    simp [Access.localDue, hspans, hdone, Span.remote, hclean.1]
  have hport (left : Option Nat) : s.portFree (boltOf loom) left sp = true := by simp [State.portFree, hclean.2.1]
  simp [State.dueHere, hlocal, hfree, hwindow, hport]

theorem spansHere_pad (hready : spanReady s loom ev a sp) (hspans : a.spans = [sp]) (hdone : a.done = []) :
    s.spansHere loom (s.ctxAt loom ev) a = [sp] := by
  simp [State.spansHere, dueHere_pad hclean hready hspans hdone, localSpans_pad hclean]

theorem storeSpans_pad (hwf : s.mem.wf = true) (hoff : sp.off = 0) {data : List Byte} (hdata : data.length = sp.len) (c : Ctx) (op : MemOp) :
    ∃ u runs, s.storeSpans loom c op data [(0, sp)] = (u, runs, [0], none) ∧
      ∀ x, u.mem.read x = if sp.pa ≤ x ∧ x < sp.pa + sp.len then data.getD (x - sp.pa) 0 else s.mem.read x := by
  obtain ⟨u, runs, hwrite, hread⟩ := writePieces_pad (va := sp.va) (off := sp.off) (cleanRun_pad hclean) hwf (fuel_pieces sp)
    sp.attrs (data := data) (by omega)
  refine ⟨u.l1Update loom sp, runs, ?_, fun x => ?_⟩
  · simp [State.storeSpans, localSpans_pad hclean, State.writeRuns, Span.pieces, hwrite]
  · rw [l1Update_mem, hread x, hoff, Nat.zero_add]

theorem loadSpans_pad (c : Ctx) :
    s.loadSpans loom c false [(0, sp)] = (s, [(sp.off, s.mem.readN sp.pa sp.len)], [0], none) := by
  simp [State.loadSpans, localSpans_pad hclean, readSpans_pad hclean, l1Fill_pad hclean]

end

/-! ## What a returned load leaves in its register -/

theorem a_write_a (c : Ctx) {r : BitVec 6} (hr : r ≠ 0) (v : VReg) (failed : Bool) :
    (c.write (.a r) v failed).a = c.a.set r.toNat (v.setWidth 64) r.isLt := by
  simp only [Ctx.write, if_neg hr]

theorem a_landOne (c : Ctx) (x : Result) : (c.landOne x).a = (c.write x.dest x.value x.failed).a := by
  unfold Ctx.landOne
  dsimp only
  split
  · cases x.eng <;> rfl
  · rfl

/-- A load's number, once it has returned to a running context whose result waits without a due cycle. -/
theorem a_finish_reg {c : Ctx} {a : Access} {r : BitVec 6} {x : Result} (hdest : a.dest = .reg r) (hr : r ≠ 0) (hrun : c.act = .running)
    (hfind : c.inFlight.find? (fun y => y.awaiting == some a.id) = some x) (hdue : x.due = 0) (hx : x.dest = .a r) (v : VReg) :
    (c.finish a v false).a = c.a.set r.toNat (v.setWidth 64) r.isLt := by
  have harrive : (c.arrive a.id v false).a = c.a.set r.toNat (v.setWidth 64) r.isLt := by
    simp only [Ctx.arrive, hfind, hdue, hrun]
    simp [a_landOne, hx, a_write_a _ hr]
  simp only [Ctx.finish, hdest]
  exact harrive

theorem a_finishAccess (s : State) (loom : Nat) (ev : Bool) (a : Access) (v : Nat) (failed : Bool) :
    ((s.finishAccess loom ev a v failed).ctxAt loom ev).a = ((s.ctxAt loom ev).finish a (BitVec.ofNat 16384 v) failed).a := by
  unfold State.finishAccess
  dsimp only
  rw [ctxAt_a_pump]
  show ((State.setCtxAt s loom ev _).ctxAt loom ev).a = _
  rw [ctxAt_setCtxAt]

theorem gather_single (bs : List Byte) : gather [(0, bs)] = leNat bs := by simp [gather]

/-- Settles O29: a store to a clean scratchpad span writes its pieces and nothing else, and a load of one returns the number of its
bytes to its register. -/
theorem scratchpadAccesses : Obligations.ScratchpadAccesses := by
  refine ⟨?_, ?_⟩
  · intro s loom ev id a sp data hperf hready hid hkind hdest hdone hspans hclean hoff hdata hwf
    obtain ⟨hfind, hperf⟩ := hperf
    obtain ⟨u, runs, hstore, hread⟩ :=
      storeSpans_pad (loom := loom) hclean hwf hoff hdata (s.ctxAt loom ev) .store
    refine ⟨u.stored loom ev { a with done := a.done ++ [0], wrote := a.wrote ++ runs }, event_some ?_, fun x => ?_⟩
    · simp [State.writeAck, hfind, hdest, hkind, AccKind.multicast, AccKind.data, hperf, hspans,
        dueHere_pad hclean hready hspans hdone, Access.chosen, hstore]
    · rw [stored_mem, hread x]
  · intro s loom ev id a sp r x hperf hready hid hkind hdest hr hdone hgot hspans hclean hoff hlen hrun hfind' hdue hx _
    obtain ⟨hfind, hperf⟩ := hperf
    subst hid
    let b : Access := { a with got := [(0, s.mem.readN sp.pa 8)], done := [0] }
    refine ⟨s.finishAccess loom ev b (gather b.got) false, event_some ?_, finishAccess_mem .., ?_⟩
    · simp [State.loadReturn, hfind, hdest, hkind, AccKind.ownReturn, hperf, hspans, meetsSuspension_pad hclean,
        spansHere_pad hclean hready hspans hdone, dueHere_pad hclean hready hspans hdone, Access.chosen, loadSpans_pad hclean,
        hdone, hgot, Access.complete, hoff, hlen, b]
    · have hlt : leNat (s.mem.readN sp.pa 8) < 2 ^ 64 := by
        simpa [readN_length] using leNat_lt (s.mem.readN sp.pa 8)
      rw [gather_single, Ctx.aVal, if_neg hr, a_finishAccess, a_finish_reg (a := b) (x := x) hdest hr hrun hfind' hdue hx]
      simp [Memory.readLE]
      omega

end Sys2Proof.Proofs.Scratchpads
end

section
/-!
PROOFS. Accesses and page walks (O31): what LOAD_RETURN, WRITE_ACK, MULTICAST_LAND and PAGE_WALK do with what is due here.
-/

namespace Sys2Proof.Proofs.Accesses

open Sys2Proof.Machine Sys2Proof.Claims Sys2Proof.Laws

/-! ## The spans that are due -/

/-- An access whose spans are all done has none left here. -/
theorem localDue_of_complete {a : Access} (h : a.complete = true) (peer : Nat) : a.localDue peer = [] := by
  rw [Access.localDue, List.map_eq_nil_iff, List.filter_eq_nil_iff]
  intro x hx
  have hi : x.2 < a.spans.length := by
    have := List.snd_lt_of_mem_zipIdx hx
    omega
  have hdone : a.done.contains x.2 = true := List.all_eq_true.mp h x.2 (List.mem_range.mpr hi)
  simp only [hdone, Bool.not_true, Bool.and_false, Bool.false_eq_true, not_false_eq_true]

theorem spans_ne_nil_of_due {s : State} {loom : Nat} {c : Ctx} {a : Access} (h : s.dueHere loom c a ≠ []) : a.spans ≠ [] :=
  fun hnil => h (by simp [State.dueHere, Access.localDue, hnil])

/-- The end of a store that has performed some spans: while a part lies here undone, it only waits for it. -/
theorem stored_eq (s : State) (loom : Nat) (ev : Bool) (b : Access) :
    s.stored loom ev b =
      if b.localDue (s.ctxAt loom ev).peer = [] then
        let w := s.countWrite b.wrote (some (loom, ev))
        let d := { b with wrote := [] }
        if b.complete then w.finishAccess loom ev d 0 false else (w.putAccess loom ev d).pump loom ev
      else (s.putAccess loom ev b).pump loom ev := by
  unfold State.stored
  dsimp only
  by_cases hdue : b.localDue (s.ctxAt loom ev).peer = []
  · simp only [hdue, List.isEmpty_nil, if_true]
    rfl
  · have hopen : b.complete = false := Bool.eq_false_iff.mpr fun h => hdue (localDue_of_complete h _)
    have hsome : (b.localDue (s.ctxAt loom ev).peer).isEmpty = false := by simpa using hdue
    simp only [hdue, hsome, hopen, Bool.false_eq_true, if_false]

/-! ## One event -/

section
variable {s : State} {loom : Nat} {ev : Bool} {id part : Nat} {a : Access} (hperf : performableAt s loom ev id a)
include hperf

theorem loadReturn_load {u : State} {got : List (Nat × List Byte)} {dn : List Nat} {fromL1 : Bool} {x : Access} {now : List (Nat × Span)}
    (hkind : a.kind = .load) (hdest : a.dest ≠ .none) (hdue : s.dueHere loom (s.ctxAt loom ev) a ≠ [])
    (hsus : s.meetsSuspension (s.spansHere loom (s.ctxAt loom ev) a) = false)
    (hchosen : a.chosen (s.dueHere loom (s.ctxAt loom ev) a) part = some (x, now))
    (hload : s.loadSpans loom (s.ctxAt loom ev) fromL1 now = (u, got, dn, none)) :
    s.loadReturn loom ev id fromL1 part =
      let b := { x with got := a.got ++ got, done := a.done ++ dn }
      some (if b.complete then u.finishAccess loom ev b (gather b.got) false else (u.putAccess loom ev b).pump loom ev) := by
  obtain ⟨hfind, hready⟩ := hperf
  simp [State.loadReturn, hfind, hready, hdest, hkind, AccKind.ownReturn, spans_ne_nil_of_due hdue, hdue, hsus, hchosen, hload]

theorem loadReturn_value {fromL1 : Bool} {v : W64} (hkind : a.kind = .value v) (hdest : a.dest ≠ .none) (hspans : a.spans = []) :
    s.loadReturn loom ev id fromL1 part = some (s.finishAccess loom ev a v.toNat false) := by
  obtain ⟨hfind, hready⟩ := hperf
  have hunit : s.unitReturn loom ev a = some (s.finishAccess loom ev a v.toNat false) := by
    unfold State.unitReturn
    rw [hkind]
  simp [State.loadReturn, hfind, hready, hdest, hspans, hunit]

section
variable {op : AtomicOp} {o : W64} {sp x : Span} {rest : List Span} {u : State} {v : Nat} (hkind : a.kind = .atomic op o)
  (hspans : a.spans = [sp]) (hdue : s.dueHere loom (s.ctxAt loom ev) a ≠ [])
  (hlocal : s.localSpans (s.ctxAt loom ev) .atomic sp = .ok (x :: rest))
  (hsus : s.meetsSuspension (s.spansHere loom (s.ctxAt loom ev) a) = false)
  (hatomic : s.atomicAt loom x op o (some (loom, ev)) = (u, v, none))
include hkind hspans hdue hlocal hsus hatomic

theorem loadReturn_atomic {fromL1 : Bool} (hdest : a.dest ≠ .none) :
    s.loadReturn loom ev id fromL1 part = some (u.finishAccess loom ev a v false) := by
  obtain ⟨hfind, hready⟩ := hperf
  simp [State.loadReturn, hfind, hready, hdest, hkind, AccKind.ownReturn, AccKind.op, hspans, hdue, hsus, hlocal, State.objectAt, hatomic]

theorem writeAck_atomic (hdest : a.dest = .none) : s.writeAck loom ev id part = some (u.finishAccess loom ev a 0 false) := by
  obtain ⟨hfind, hready⟩ := hperf
  simp [State.writeAck, hfind, hready, hdest, hkind, AccKind.multicast, AccKind.op, hspans, hdue, hsus, hlocal, State.objectAt, hatomic]

end

theorem writeAck_store {data : List Byte} {u : State} {runs : List (Nat × Nat)} {dn : List Nat} {x : Access} {now : List (Nat × Span)}
    (hkind : a.kind = .store data false) (hdest : a.dest = .none) (hdue : s.dueHere loom (s.ctxAt loom ev) a ≠ [])
    (hchosen : a.chosen (s.dueHere loom (s.ctxAt loom ev) a) part = some (x, now))
    (hstore : s.storeSpans loom (s.ctxAt loom ev) .store data now = (u, runs, dn, none)) :
    s.writeAck loom ev id part = some (u.stored loom ev { x with done := a.done ++ dn, wrote := a.wrote ++ runs }) := by
  obtain ⟨hfind, hready⟩ := hperf
  simp [State.writeAck, hfind, hready, hdest, hkind, AccKind.multicast, AccKind.data, spans_ne_nil_of_due hdue, hdue, hchosen, hstore]

theorem multicastLand_store {data : List Byte} {u : State} (hkind : a.kind = .store data true) (hland : s.landable loom a = true)
    (hfree : ∀ sp ∈ a.spans, (s.ctxAt loom ev).spanFree a sp = true)
    (hwrite : s.writeSpans data (a.spans.flatMap (mcSpans loom)) (some (loom, ev)) = (u, none)) :
    s.multicastLand loom ev id = some (u.finishAccess loom ev a 0 false) := by
  obtain ⟨hfind, hready⟩ := hperf
  simpa [State.multicastLand, hfind, hready, hkind, AccKind.multicast, AccKind.data, hland, hwrite] using hfree

end

/-! ## One level of a walk -/

section
variable {s : State} {panel walk : Nat} {k : Walk} {p : Partition}
  (hwalk : (s.panel panel).walks.find? (fun x => x.id == walk) = some k) (hpart : s.part? k.peer = some p)
include hwalk hpart

theorem pageWalk_next {table : Nat} (h : s.walkLevel p (k.page * 65536) k.level k.table = .next table) :
    s.pageWalk panel walk = some (s.setPanel panel { s.panel panel with
      walks := (s.panel panel).walks.map (fun x => if x.id = walk then { x with level := k.level + 1, table := table } else x) }) := by
  simp [State.pageWalk, hwalk, hpart, h]

theorem pageWalk_leaf {size pa : Nat} {at' : BitVec 8} (h : s.walkLevel p (k.page * 65536) k.level k.table = .leaf size pa at') :
    s.pageWalk panel walk = some ((k.who.map Who.bolt).eraseDups.foldl
      (fun u b => u.setBolt b ((u.bolt b).insert
        { peer := k.peer, va := k.page * 65536 / size * size, size := size, pa := pa, attrs := at' }))
      ((s.setPanel panel { s.panel panel with walks := (s.panel panel).walks.filter (fun x => x.id != walk) }).nextWalks panel)) := by
  simp [State.pageWalk, hwalk, hpart, h]

end

/-- Settles O31: each event finds its access or walk, and the branch that its kind and its level take performs it. -/
theorem accessesAndWalksPerform : Obligations.AccessesAndWalksPerform := by
  refine ⟨fun s loom ev id part a hperf => ⟨?_, ?_, ?_, ?_, ?_⟩, fun s panel walk k p hwalk hpart => ⟨?_, ?_⟩⟩
  · exact fun u got dn fromL1 x now hkind hdest hdue hsus hchosen hload =>
      event_some (loadReturn_load hperf hkind hdest hdue hsus hchosen hload)
  · exact fun fromL1 v hkind hdest hspans => event_some (loadReturn_value hperf hkind hdest hspans)
  · exact fun op o sp x rest u v fromL1 hkind hspans hdue hlocal hsus hatomic =>
      ⟨fun hdest => event_some (loadReturn_atomic hperf hkind hspans hdue hlocal hsus hatomic hdest),
       fun hdest => event_some (writeAck_atomic hperf hkind hspans hdue hlocal hsus hatomic hdest)⟩
  · intro data u runs dn x now hkind hdest hdue hchosen hstore
    exact (event_some (writeAck_store hperf hkind hdest hdue hchosen hstore)).trans (congrArg issued (stored_eq ..))
  · exact fun data u hkind hland hfree hwrite => event_some (multicastLand_store hperf hkind hland hfree hwrite)
  · exact fun table h => event_some (pageWalk_next hwalk hpart h)
  · exact fun size pa at' h => event_some (pageWalk_leaf hwalk hpart h)

end Sys2Proof.Proofs.Accesses
end

section
/-!
PROOFS. Copy engines, decoders, fills and stash engines (O32): each event finds its command and takes the branch of its kind.
-/

namespace Sys2Proof.Proofs.Copies

open Sys2Proof.Machine Sys2Proof.Claims Sys2Proof.Laws

/-! ## Copy engines -/

/-- A started copy, multicast, checksum, fill or reduction only counts as started. -/
theorem copyStart_plain {s : State} {loom : Nat} {ev storeQ : Bool} {k : CopyCmd}
    (hnext : (s.ctxAt loom ev).nextCopy (if storeQ then (s.ctxAt loom ev).copyStore else (s.ctxAt loom ev).copyLoad) = some k)
    (hkind : k.kind = .cpy ∨ k.kind = .mc ∨ k.kind = .csum ∨ k.kind = .fill ∨ ∃ ty, k.kind = .red ty)
    (hreset : ∀ p, s.part? (s.ctxAt loom ev).peer = some p → p.resetting = false) :
    s.copyStart loom ev storeQ = some (s.modCopy loom ev k.id (fun k => { k with started := true })) := by
  have hrun : (s.part? (s.ctxAt loom ev).peer).any (·.resetting) = false := by
    cases hp : s.part? (s.ctxAt loom ev).peer with
    | none => rfl
    | some p => exact hreset p hp
  unfold State.copyStart
  simp only [hrun, hnext, Bool.false_eq_true, if_false, Option.bind_some]
  rcases hkind with h | h | h | h | ⟨ty, h⟩ <;> rw [h]

theorem chunkStep_plain {s u : State} {loom : Nat} {ev : Bool} {k : CopyCmd} {bs : List Byte} (hstarted : k.started = true)
    (hleft : k.readTo < k.len) (hkind : k.kind = .cpy ∨ k.kind = .mc) (hwaits : (s.ctxAt loom ev).waitsOn k.carries = false)
    (hfetch : s.fetchUnit loom ev k (k.unit (s.ctxAt loom ev).peer) = .bytes u bs) :
    s.chunkStep loom ev k =
      some (u.copyOut loom ev { k with readTo := k.readTo + k.unit (s.ctxAt loom ev).peer } k.readTo bs) := by
  have hplain : s.plainStep loom ev k =
      some (u.copyOut loom ev { k with readTo := k.readTo + k.unit (s.ctxAt loom ev).peer } k.readTo bs) := by
    simp only [State.plainStep, hfetch]
  rw [← hplain]
  unfold State.chunkStep
  rw [if_neg (by simp [hstarted, hleft, hwaits])]
  rcases hkind with h | h <;> rw [h]

/-- A copy's next bytes move unless the evaluator context or the other queue goes first. -/
theorem copyChunk_of_chunkStep {s v : State} {loom : Nat} {ev : Bool} {id : Nat} {k : CopyCmd}
    (hcopy : (s.ctxAt loom ev).copy? id = some k)
    (hev : ev = false → s.queueReady loom true false = false ∧ s.queueReady loom true true = false)
    (hturn : (s.ctxAt loom ev).lastStore = some ((s.ctxAt loom ev).copyStore.any (fun x => x.id == id)) →
      s.queueReady loom ev (!(s.ctxAt loom ev).copyStore.any (fun x => x.id == id)) = false)
    (hstep : s.chunkStep loom ev k = some v) :
    s.copyChunk loom ev id = some (v.setCtxAt loom ev
      { v.ctxAt loom ev with lastStore := some ((s.ctxAt loom ev).copyStore.any (fun x => x.id == id)) }) := by
  have hfirst : (!ev && (s.queueReady loom true false || s.queueReady loom true true)) = false := by
    cases ev with
    | true => rfl
    | false => simp [hev rfl]
  have hother : ((s.ctxAt loom ev).lastStore == some ((s.ctxAt loom ev).copyStore.any (fun x => x.id == id)) &&
      s.queueReady loom ev (!(s.ctxAt loom ev).copyStore.any (fun x => x.id == id))) = false := by
    rw [Bool.and_eq_false_imp, beq_iff_eq]
    exact hturn
  simp only [State.copyChunk, hcopy, Option.bind_some, hfirst, hother, hstep, Bool.false_eq_true, if_false, Option.map_some]

/-! ## Decoders and fills -/

theorem decoderBlock_table {s u : State} {bolt : Nat} {j : DecJob} {rest : List DecJob} {k : CopyCmd} {slot : BitVec 2}
    {bs : List Byte} {table : CodeTable} (hjob : (s.bolt bolt).dec = j :: rest) (hcopy : (s.ctxAt j.loom j.ev).copy? j.cmd = some k)
    (hkind : k.kind = .ctbl slot) (hfetch : s.fetchUnit j.loom j.ev k 320 = .bytes u bs) (htable : checkTable bs = .ok table) :
    s.decoderBlock bolt false = some (((u.setBolt bolt
      { u.bolt bolt with tables := (u.bolt bolt).tables.set slot.toNat table slot.isLt }).popDecoder bolt).finishCopy
        j.loom j.ev k.id) := by
  simp only [State.decoderBlock, hjob, Bool.false_eq_true, if_false, List.head?_cons, Option.bind_some, hcopy, hkind, State.tableStep,
    hfetch, htable]

/-- A line of a fill whose region's record holds it, and which nothing has gone wrong with, is written, and turns VALUE. -/
theorem fillLine_writes {s u v : State} {loom : Nat} {ev : Bool} {id : Nat} {k : CopyCmd} {bs : List Byte} {sp : Span}
    {rest : List Span} {r : EvalRec} (hcopy : (s.ctxAt loom ev).copy? id = some k) (hkind : k.kind = .fill) (hstarted : k.started = true)
    (hleft : k.readTo < k.len) (hwaits : (s.ctxAt loom ev).waitsOn k.carries = false) (hfetch : s.fetchUnit loom ev k 128 = .bytes u bs)
    (hslice : slice k.dst k.readTo 128 = sp :: rest) (hrec : u.fillRecord loom ev = some r) (hline : r.lines.contains (sp.pa / 128) = true)
    (hcell : (u.line sp.pa).cell = 2) (hmeet : u.meetLine sp.pa sp.va sp.attrs true 0 = (v, none)) :
    s.fillLine loom ev id =
      let w := (((v.putPiece sp.attrs { pa := sp.pa, va := sp.va, off := 0, len := 128 } bs).setCell sp.pa 0).countWrite [(sp.pa, 128)]
        (some (loom, ev))).copyWrote loom ev id 128 [(sp.pa, 128)]
      some (if r.lines.all (fun l => (w.line (128 * l)).cell == 0) then w.regionFilled r else w) := by
  unfold State.fillLine
  simp only [hcopy, Option.bind_some]
  rw [if_neg (by simp [hkind, hstarted, hleft, hwaits])]
  simp only [hfetch, hslice, List.head?_cons, hrec, hline, hcell, hmeet, Bool.not_true, Bool.false_eq_true, ne_eq, not_true_eq_false,
    or_self, if_false]

/-! ## Stash engines -/

section
variable {s : State} {panel id : Nat} {o : StashOp} {p : Partition}
  (hfind : s.stashOps.find? (fun o => o.id == id && o.panel == panel) = some o)
  (hfirst : s.stashOps.find? (fun x => x.panel == o.panel && x.stage == o.stage && x.tag == o.tag && x.tensor == o.tensor) = some o)
  (hfree : ∀ w ∈ s.waiters, w.who ≠ .stash o.id) (hwaits : (s.ctxAt o.loom o.ev).waitsOn o.after = false)
  (hpart : s.part? o.peer = some p) (hrun : p.resetting = false) (hfollows : s.stashFollows o = false)
include hfind hfirst hfree hwaits hpart hrun hfollows

/-- The first command of a key, which nothing holds, is carried out by what its kind does. -/
theorem stashAction_of_kind : (o.kind = 0 → s.stashAction panel id = s.stashPut p o) ∧
    (o.kind = 2 → s.stashAction panel id = s.stashFetch p o) ∧ (o.kind = 3 → s.stashAction panel id = s.stashFree p o) := by
  obtain rfl : o.id = id := by
    have := List.find?_some hfind
    simp_all
  have hwaiters : s.waiters.any (fun w => w.who == Loader.stash o.id) = false := by simpa using hfree
  refine ⟨fun hkind => ?_, fun hkind => ?_, fun hkind => ?_⟩ <;>
    simp only [State.stashAction, hfind, hfirst, Option.bind_some, Option.any_some, hwaiters, hfollows, hwaits, hpart, hrun, hkind,
      beq_self_eq_true, Bool.not_true, Bool.false_eq_true, and_false, or_self, if_false]

theorem stashAction_put (hkind : o.kind = 0) (hpolicy : o.policy = 0) (hnone : s.stashEntry o = none)
    (hroom : (s.stash.filter (fun x => x.panel == o.panel)).length < 4096) :
    s.stashAction panel id = some ((s.putEntry o (some o.entry)).endStash o o.len) := by
  rw [(stashAction_of_kind hfind hfirst hfree hwaits hpart hrun hfollows).1 hkind]
  simp only [State.stashPut, hnone, hpolicy, Nat.not_le.mpr hroom, Option.isSome_none, Bool.false_eq_true, if_false, if_true]

theorem stashAction_fetch {e : StashEntry} (hkind : o.kind = 2) (hother : o.other = false) (hentry : s.stashEntry o = some e)
    (hgood : e.bad = false) (hpolicy : e.policy = 0) : s.stashAction panel id = some (s.endStash o e.len) := by
  rw [(stashAction_of_kind hfind hfirst hfree hwaits hpart hrun hfollows).2.1 hkind]
  simp only [State.stashFetch, hentry, hgood, hother, hpolicy, Bool.false_eq_true, if_false, if_true]

theorem stashAction_free {e : StashEntry} (hkind : o.kind = 3) (hentry : s.stashEntry o = some e) (hpolicy : e.policy ≠ 3) :
    s.stashAction panel id = some ((s.putEntry o none).endStash o 0) := by
  rw [(stashAction_of_kind hfind hfirst hfree hwaits hpart hrun hfollows).2.2 hkind]
  simp only [State.stashFree, hentry, hpolicy, ne_eq, not_false_eq_true, if_true]

end

/-- Settles O32: the event of each engine finds its command, and its kind's branch makes the step. -/
theorem copiesAndStashesRun : Obligations.CopiesAndStashesRun := by
  refine ⟨?_, ?_, ?_, ?_, ?_⟩
  · exact fun s loom ev storeQ k hnext hkind hreset => event_some (copyStart_plain hnext hkind hreset)
  · exact fun s u loom ev id k bs hcopy hstarted hleft hkind hwaits hev hturn hfetch =>
      event_some (copyChunk_of_chunkStep hcopy hev hturn (chunkStep_plain hstarted hleft hkind hwaits hfetch))
  · exact fun s u bolt j rest k slot bs table hjob hcopy hkind hfetch htable =>
      event_some (decoderBlock_table hjob hcopy hkind hfetch htable)
  · exact fun s u v loom ev id k bs sp rest r hcopy hkind hstarted hleft hwaits hfetch hslice hrec hline hcell hmeet =>
      event_some (fillLine_writes hcopy hkind hstarted hleft hwaits hfetch hslice hrec hline hcell hmeet)
  · intro s panel id o p e hfind hfirst hfree _ hwaits hpart hrun hfollows
    refine ⟨fun hkind hpolicy hnone hroom => event_some ?_, fun hkind hother hentry hgood hpolicy => event_some ?_,
      fun hkind hentry hpolicy => event_some ?_⟩
    · exact stashAction_put hfind hfirst hfree hwaits hpart hrun hfollows hkind hpolicy hnone hroom
    · exact stashAction_fetch hfind hfirst hfree hwaits hpart hrun hfollows hkind hother hentry hgood hpolicy
    · exact stashAction_free hfind hfirst hfree hwaits hpart hrun hfollows hkind hentry hpolicy

end Sys2Proof.Proofs.Copies
end

section
/-!
PROOFS. Replies and combining switches (O41): what a lost reply makes an access and a request do, how an entry leaves its switch, and
what the reply to it gives its requests.
-/

namespace Sys2Proof.Proofs.Switches

open Sys2Proof.Machine Sys2Proof.Claims Sys2Proof.Laws

/-! ## Replay -/

section
variable {s : State} {loom : Nat} {ev : Bool} {id : Nat}

theorem requestReplay_access {a : Access} (hfind : (s.ctxAt loom ev).accs.find? (fun x => x.id == id) = some a)
    (hnone : unanswered s loom ev id = []) : s.requestReplay loom ev id = s.replayAccess loom ev a := by
  have hnone : s.requests.filter (fun r => s.requestOf loom ev id r && !r.unsent && !r.refused) = [] := hnone
  simp only [State.requestReplay, hnone, hfind, ne_eq, not_true_eq_false, if_false]

theorem requestReplay_request {r : Request} (hone : unanswered s loom ev id = [r]) (hmem : r ∈ s.requests) :
    s.requestReplay loom ev id = some (s.replayRequest r) := by
  have hone : s.requests.filter (fun r => s.requestOf loom ev id r && !r.unsent && !r.refused) = [r] := hone
  have hany : s.requests.any (fun x => x.rtag == r.rtag) = true := List.any_eq_true.mpr ⟨r, hmem, beq_self_eq_true _⟩
  simp only [State.requestReplay, hone, ne_eq, reduceCtorEq, not_false_eq_true, if_true, List.foldl_cons, List.foldl_nil, hany]

section
variable {a : Access} {sp : Span} (hready : s.performable loom ev (s.ctxAt loom ev) a = true)
  (hawaited : s.awaited (s.ctxAt loom ev) a.undone = some sp)
include hready hawaited

theorem replayAccess_again (htries : a.replays < 3) :
    s.replayAccess loom ev a = some (s.putAccess loom ev { a with replays := a.replays + 1 }) := by
  simp only [State.replayAccess, hready, hawaited, htries, Bool.not_true, Bool.false_eq_true, if_false, if_true, Option.map_some]

theorem replayAccess_faults (htries : 3 ≤ a.replays) :
    s.replayAccess loom ev a =
      some (({ s with freeIdx := s.freeIdx + 1 } : State).failAccess loom ev a (s.localTimeout sp)) := by
  simp only [State.replayAccess, hready, hawaited, Nat.not_lt.mpr htries, Bool.not_true, Bool.false_eq_true, if_false, Option.map_some]

end

theorem replayRequest_again {r : Request} {u : State} {q : Nat} (htries : r.tries < 3)
    (hrun : ∀ p, s.part? r.peer = some p → p.resetting = false) (hsent : s.transmit { r with tries := r.tries + 1 } = some (u, q)) :
    s.replayRequest r = { u with requests := u.requests.map (fun x =>
      if x.rtag = r.rtag then { r with tries := r.tries + 1, port := q } else x) } := by
  have hrun : ((s.part? r.peer).map (·.resetting)).getD false = false := by
    cases hp : s.part? r.peer with
    | none => rfl
    | some p => exact hrun p hp
  simp only [State.replayRequest, hrun, Nat.not_le.mpr htries, hsent, Bool.false_eq_true, if_false]

end

/-! ## An entry leaves its switch -/

section
variable {s : State} {switch id : Nat} {e : Combining}
  (hfind : s.combining.find? (fun e => e.id == id && e.switch == switch && !e.departed) = some e)
include hfind

theorem combineDepart_alone {p : CombPart} (hparts : e.parts = [p])
    (hnext : (if switch < 40 then panelSwitch switch e.target else none) = none) :
    s.combineDepart switch id = some ((s.dropEntry id).passOn p) := by
  simp only [State.combineDepart, hfind, Option.map_some, hparts, hnext]

section
variable {p : CombPart} {sw port : Nat} {u : State} (hparts : e.parts = [p])
  (hnext : (if switch < 40 then panelSwitch switch e.target else none) = some (sw, port))
include hparts hnext

theorem combineDepart_joins (hjoin : (s.dropEntry id).joinSwitch sw e.target { p with port := port } = (u, true)) :
    s.combineDepart switch id = some u := by
  simp only [State.combineDepart, hfind, Option.map_some, hparts, hnext, hjoin]

theorem combineDepart_passes (hjoin : (s.dropEntry id).joinSwitch sw e.target { p with port := port } = (u, false)) :
    s.combineDepart switch id = some (u.passOn p) := by
  simp only [State.combineDepart, hfind, Option.map_some, hparts, hnext, hjoin]

end

/-- An entry of several requests leaves as one with the sum of their addends. -/
theorem combineDepart_merged (hparts : e.parts.length ≠ 1) :
    s.combineDepart switch id = some (
      let left : State := { s with combining := s.combining.map (fun x => if x.id = id then { x with departed := true } else x) }
      match if switch < 40 then panelSwitch switch e.target else none with
      | some (sw, port) => (left.joinSwitch sw e.target { port := port, child := id, addend := e.sum }).1
      | none => if Nat.ble (2 ^ 60) e.target then left.sendMerged e else left) := by
  simp only [State.combineDepart, hfind, Option.map_some]
  split
  · next p hp => exact absurd (by rw [hp]; rfl) hparts
  · rfl

end

/-! ## The reply to an entry -/

section
variable {s : State} {switch id : Nat} {e : Combining}
  (hfind : s.combining.find? (fun e => e.id == id && e.switch == switch && e.departed) = some e)
include hfind

theorem decombineReply_base {b : W64} (hbase : e.base = some b) :
    s.decombineReply switch id false = some ((s.dropEntry e.id).splitReply e.target (prefixes b e.parts)) := by
  simp only [State.decombineReply, hfind, Option.bind_some, hbase, State.splitEntry, Bool.not_false, if_true]

/-- An entry of this device's memory that no switch above has is performed with the sum of its addends. -/
theorem decombineReply_performs {u : State} {v : Nat} (hbase : e.base = none) (hhere : e.target < 2 ^ 60)
    (htop : ∀ x ∈ s.combining, ∀ p ∈ x.parts, p.req ≠ none ∨ p.far ≠ none ∨ p.child ≠ id)
    (hsus : s.meetsSuspension [s.partSpan e.target 3 e.parts] = false)
    (hatomic : s.atomicAt 512 (s.partSpan e.target 3 e.parts) .faaC e.sum ((s.firstReq 3 e.parts).map (fun r => (r.1, r.2.1)))
      = (u, v, none)) :
    s.decombineReply switch id false =
      some ((u.dropEntry e.id).splitReply e.target (prefixes (BitVec.ofNat 64 v) e.parts)) := by
  have hhere : Nat.ble (2 ^ 60) e.target = false := by
    rw [Bool.eq_false_iff, Ne, Nat.ble_eq]
    omega
  have htop : s.combining.any (fun x => x.parts.any (fun p => p.req.isNone && p.far.isNone && p.child == id)) = false := by
    simp only [List.any_eq_false]
    intro x hx
    rw [List.any_eq_true]
    rintro ⟨p, hp, h⟩
    simp only [Bool.and_eq_true, Option.isNone_iff_eq_none, beq_iff_eq] at h
    obtain ⟨⟨hreq, hfar⟩, hchild⟩ := h
    rcases htop x hx p hp with h | h | h
    · exact h hreq
    · exact h hfar
    · exact h hchild
  simp only [State.decombineReply, hfind, Option.bind_some, hbase, hhere, htop, hsus, hatomic, State.splitEntry, Bool.or_self,
    Bool.false_eq_true, if_false, Bool.not_false, if_true]

end

/-- Settles O41: replay by the tries so far, departure by the parts of the entry and the switch above it, and the reply by whether a
base has come. -/
theorem repliesAndSwitches : Obligations.RepliesAndSwitches := by
  refine ⟨fun s loom ev id a hfind => ⟨?_, ?_⟩, fun s switch id e hfind => ⟨?_, ?_, ?_, ?_, ?_⟩, ?_,
    fun s switch id e hfind => ⟨?_, ?_⟩, ?_⟩
  · exact fun sp hnone hready hawaited =>
      ⟨fun h => event_some ((requestReplay_access hfind hnone).trans (replayAccess_again hready hawaited h)),
       fun h => event_some ((requestReplay_access hfind hnone).trans (replayAccess_faults hready hawaited h))⟩
  · exact fun r u q hone hmem htries hrun hsent =>
      event_some ((requestReplay_request hone hmem).trans (congrArg some (replayRequest_again htries hrun hsent)))
  · exact fun p hparts hnext => event_some (combineDepart_alone hfind hparts hnext)
  · exact fun p sw port u hparts hnext =>
      ⟨fun hjoin => event_some (combineDepart_joins hfind hparts hnext hjoin),
       fun hjoin => event_some (combineDepart_passes hfind hparts hnext hjoin)⟩
  · intro hparts hnext hhere
    have hble : Nat.ble (2 ^ 60) e.target = false := by
      rw [Bool.eq_false_iff, Ne, Nat.ble_eq]
      omega
    refine event_some ((combineDepart_merged hfind hparts).trans ?_)
    simp only [hnext, hble, Bool.false_eq_true, if_false]
  · intro hparts hnext hfar
    refine event_some ((combineDepart_merged hfind hparts).trans ?_)
    simp only [hnext, Nat.ble_eq.mpr hfar, if_true]
  · intro sw port hparts hnext
    refine event_some ((combineDepart_merged hfind hparts).trans ?_)
    simp only [hnext, Combining.sum]
  · intro bolt target sw port h
    unfold panelSwitch at h
    split at h
    · cases h
      exact ⟨rfl, rfl⟩
    · cases h
  · exact fun b hbase => event_some (decombineReply_base hfind hbase)
  · exact fun u v hbase hhere htop hsus hatomic => event_some (decombineReply_performs hfind hbase hhere htop hsus hatomic)
  · rintro b x y p q r rfl rfl
    rfl

end Sys2Proof.Proofs.Switches
end

section
/-!
PROOFS. Fences, ACQ, REL and WAIT.C (O16): each effect as the statement writes it, and the instruction that has it.
-/

namespace Sys2Proof.Proofs.Fences

open Sys2Proof.Machine Sys2Proof.Claims Sys2Proof.Laws

/-! ## The effects -/

theorem fence_eq (c : Ctx) (mask : BitVec 16) : c.fence mask = fenced c mask := by
  simp only [Ctx.fence, fenced, List.isEmpty_iff]

theorem extractLsb'_beq {w n : Nat} (a : BitVec w) (lo : Nat) (x : BitVec n) :
    (a.extractLsb' lo n == x) = decide (a.toNat / 2 ^ lo % 2 ^ n = x.toNat) := by
  rw [Bool.eq_iff_iff, beq_iff_eq, decide_eq_true_iff, ← BitVec.toNat_inj, BitVec.extractLsb'_toNat, Nat.shiftRight_eq_div_pow]

theorem isHandle_iff (a : W64) : isHandle a = true ↔ a.toNat / 2 ^ 60 = 15 := by
  have := a.isLt
  rw [isHandle, extractLsb'_beq, decide_eq_true_iff]
  simp
  omega

/-- What may name an object passes the check of ACQ and REL. -/
theorem wantObject_ok {a : W64} (h : objectOk a) : wantObject a = .ok () := by
  rcases h with ⟨hkind, hlow, hslot⟩ | ⟨hkind, hplace⟩
  · have hbits : (isHandle a && a.extractLsb' 17 15 == 0 && a.extractLsb' 14 2 == 0) = true := by
      simp only [(isHandle_iff a).mpr hkind, extractLsb'_beq, Bool.true_and, Bool.and_eq_true, decide_eq_true_iff]
      exact ⟨hlow, hslot⟩
    rw [wantObject, if_pos ((isHandle_iff a).mpr hkind)]
    exact check_ok hbits _
  · rw [wantObject, if_neg (mt (isHandle_iff a).mp hkind)]
    exact check_ok hplace _

/-- WAIT.C's limits, each by its counter. -/
theorem meetsLimits_eq (c : Ctx) (nl ns nc nt : BitVec 6) :
    let met : BitVec 6 → Counter → Bool := fun n k => decide (n.toNat = 63) || decide (outstanding c k ≤ n.toNat)
    meetsLimits nl.toNat ns.toNat nc.toNat nt.toNat c.count = (met nl .ldc && met ns .stc && met nc .cpc && met nt .tkc) := by
  have hlimit (n k : Nat) : (n == 63 || Nat.ble k n) = (decide (n = 63) || decide (k ≤ n)) := by
    rw [Bool.eq_iff_iff]
    simp
  simp only [meetsLimits, hlimit, Ctx.count, outstanding]
  rfl

theorem acquireSeen_cur (s : State) (loom peer : Nat) (x : Seen) : (s.acquireSeen loom peer x).cur = s.cur := rfl

/-- The loom that moves is the same all through an acquire. -/
theorem foldl_acquireSeen (peer loom : Nat) (xs : List Seen) {s : State} (h : s.cur.loom = loom) :
    xs.foldl (fun u x => u.acquireSeen u.cur.loom peer x) s = xs.foldl (fun u x => u.acquireSeen loom peer x) s := by
  induction xs generalizing s with
  | nil => rfl
  | cons x xs ih =>
    rw [List.foldl_cons, List.foldl_cons, h]
    exact ih (by rw [acquireSeen_cur, h])

/-- An instruction on the moving context alone whose effect must wait waits, with nothing changed. -/
theorem localNow_wait {s : State} {e : Eng} {t : Tok} {f : Ctx → Act Ctx} {c : Ctx} {w : Wait} (ht : s.ctx.tokens e t = .ok c)
    (hf : f c = .error (.wait w)) : s.localNow e t f = .next { s with disp := .waits w } := by
  simp [State.localNow, State.local, State.done, ht, hf, Bind.bind, Except.bind]

/-! ## The instructions -/

section
variable {s : State} {c : Ctx} {t : Tok} (ht : s.ctx.tokens .A t = .ok c)
include ht

theorem execAcq_ok {rb : BitVec 6} {st : BitVec 4} {scope : BitVec 5} (hrb : readyA c rb) (hobj : objectOk (c.aVal rb))
    (hreads : ∀ x ∈ c.accs, (decide (scope ≠ 0) || decide (x.stream.toNat = st.toNat)) = true →
      s.readsObject c.peer x (c.aVal rb).toNat = false) :
    execAcq t rb st scope s = issued (
      (c.seen.filter (fun x => x.obj == ownAddr c.peer (c.aVal rb).toNat && (decide (scope ≠ 0) || decide (x.stream = st.toNat)))).foldl
        (fun u x => u.acquireSeen s.cur.loom c.peer x) (s.setCtx (c.postNow .A t))) := by
  have hcovered (n : Nat) : (scope != 0 || n == st.toNat) = (decide (scope ≠ 0) || decide (n = st.toNat)) := by
    rw [Bool.eq_iff_iff]
    simp
  have hnone : (!c.accs.any (fun x => (scope != 0 || x.stream.toNat == st.toNat) && s.readsObject c.peer x (c.aVal rb).toNat)) = true := by
    rw [Bool.not_eq_true', List.any_eq_false]
    intro x hx hread
    rw [hcovered, Bool.and_eq_true] at hread
    exact absurd hread.2 (by rw [hreads x hx hread.1]; exact Bool.false_ne_true)
  rw [← foldl_acquireSeen c.peer s.cur.loom _ (s := s.setCtx (c.postNow .A t)) rfl]
  refine command_ok ht ?_
  simp only [rdA_ok hrb, wantObject_ok hobj, check_ok hnone, Bind.bind, Except.bind, pure, Except.pure]
  simp only [hcovered]

theorem execRel_ok {rb : BitVec 6} {st : BitVec 4} {scope : BitVec 5} (hrb : readyA c rb) (hobj : objectOk (c.aVal rb))
    (hroom : c.rels.length < 4) :
    execRel t rb st scope s = issued (s.setCtx (({ c with rels := c.rels ++ [{
      obj := (c.aVal rb).toNat, mask := scopeMask st scope.toNat,
      covers := c.covers (c.aVal rb).toNat st scope.toNat }] } : Ctx).postNow .A t)) := by
  refine localNow_ok ht ?_
  simp only [rdA_ok hrb, wantObject_ok hobj, check_ok (Nat.blt_eq.mpr hroom), Bind.bind, Except.bind, pure, Except.pure]

theorem execWaitC_eq (nl ns nc nt : BitVec 6) :
    execWaitC t nl ns nc nt s =
      if meetsLimits nl.toNat ns.toNat nc.toNat nt.toNat c.count then issued (s.setCtx (c.postNow .A t))
      else .next { s with disp := .waits (.waitC nl.toNat ns.toNat nc.toNat nt.toNat) } := by
  split
  · next hmet => exact localNow_ok ht (by rw [check_ok hmet]; rfl)
  · next hmet => exact localNow_wait ht (by rw [Bool.eq_false_iff.mpr hmet]; rfl)

end

/-- Settles O16: each instruction's effect answers, and WAIT.C's waits exactly where a limit is not met. -/
theorem fencesAndReleases : Obligations.FencesAndReleases := by
  refine ⟨fun s c t ht => ⟨fun st => ?_, fun mask => ?_, ?_⟩, fun s c t rb st scope ht hrb hobj => ⟨?_, ?_⟩,
    fun s c t nl ns nc nt ht => ?_⟩
  · rw [← fence_eq]
    exact localNow_ok ht rfl
  · rw [← fence_eq]
    exact localNow_ok ht rfl
  · rw [← fence_eq]
    exact command_ok ht rfl
  · exact execAcq_ok ht hrb hobj
  · exact execRel_ok ht hrb hobj
  · exact (execWaitC_eq ht nl ns nc nt).trans (by rw [meetsLimits_eq])

end Sys2Proof.Proofs.Fences
end

section
/-!
PROOFS. R121, R349 to R351 and R36: what a register reads after a write of it and of another one, and when it can be read (O2).
-/

namespace Sys2Proof.Proofs.Registers

open Sys2Proof Sys2Proof.Machine Sys2Proof.Claims Sys2Proof.Laws

/-! ## Writes -/

section
variable (c : Ctx) (v : VReg)

theorem write_a_ne {r : BitVec 6} (h : r ≠ 0) : c.write (.a r) v = { c with a := c.a.set r.toNat (v.setWidth 64) r.isLt } := if_neg h

theorem write_s_ne {r : BitVec 5} (h : r ≠ 0) : c.write (.s r) v = { c with s := c.s.set r.toNat (v.setWidth 32) r.isLt } := if_neg h

theorem write_k_ne {r : BitVec 3} (h : r ≠ 0) : c.write (.k r) v = { c with k := c.k.set r.toNat (v.setWidth 2048) r.isLt } := if_neg h

theorem aVal_write_same (r : BitVec 6) : (c.write (.a r) v).aVal r = if r = 0 then 0 else v.setWidth 64 := by
  by_cases h : r = 0
  · subst h
    rfl
  · rw [write_a_ne c v h, Ctx.aVal, if_neg h, if_neg h]
    exact Vector.getElem_set_self _

theorem sVal_write_same (r : BitVec 5) : (c.write (.s r) v).sVal r = if r = 0 then 0 else v.setWidth 32 := by
  by_cases h : r = 0
  · subst h
    rfl
  · rw [write_s_ne c v h, Ctx.sVal, if_neg h, if_neg h]
    exact Vector.getElem_set_self _

theorem kVal_write_same (r : BitVec 3) : (c.write (.k r) v).kVal r = if r = 0 then BitVec.allOnes 2048 else v.setWidth 2048 := by
  by_cases h : r = 0
  · rw [Ctx.kVal, if_pos h, if_pos h]
  · rw [write_k_ne c v h, Ctx.kVal, if_neg h, if_neg h]
    exact Vector.getElem_set_self _

theorem v_write_same (r : BitVec 5) : (c.write (.v r) v).v[r.toNat] = v := Vector.getElem_set_self _

/-- A register file with one register set holds every other register's contents. -/
theorem getElem_set_other {α : Type} {n : Nat} (xs : Vector α (2 ^ n)) {x : α} {r q : BitVec n} (h : q ≠ r) :
    (xs.set r.toNat x r.isLt)[q.toNat] = xs[q.toNat] :=
  Vector.getElem_set_ne _ _ fun e => h (BitVec.eq_of_toNat_eq e.symm)

theorem write_a_frame (r : BitVec 6) :
    ∃ a, c.write (.a r) v = { c with a := a } ∧ ∀ q : BitVec 6, q ≠ r → a[q.toNat] = c.a[q.toNat] := by
  by_cases h : r = 0
  · exact ⟨c.a, if_pos h, fun _ _ => rfl⟩
  · exact ⟨_, write_a_ne c v h, fun _ => getElem_set_other (n := 6) c.a⟩

theorem write_s_frame (r : BitVec 5) :
    ∃ x, c.write (.s r) v = { c with s := x } ∧ ∀ q : BitVec 5, q ≠ r → x[q.toNat] = c.s[q.toNat] := by
  by_cases h : r = 0
  · exact ⟨c.s, if_pos h, fun _ _ => rfl⟩
  · exact ⟨_, write_s_ne c v h, fun _ => getElem_set_other (n := 5) c.s⟩

theorem write_k_frame (r : BitVec 3) :
    ∃ k, c.write (.k r) v = { c with k := k } ∧ ∀ q : BitVec 3, q ≠ r → k[q.toNat] = c.k[q.toNat] := by
  by_cases h : r = 0
  · exact ⟨c.k, if_pos h, fun _ _ => rfl⟩
  · exact ⟨_, write_k_ne c v h, fun _ => getElem_set_other (n := 3) c.k⟩

theorem write_v_frame (r : BitVec 5) :
    ∃ x, c.write (.v r) v = { c with v := x } ∧ ∀ q : BitVec 5, q ≠ r → x[q.toNat] = c.v[q.toNat] :=
  ⟨_, rfl, fun _ => getElem_set_other (n := 5) c.v⟩

end

/-! ## Reads -/

section
variable {c : Ctx}

/-- In a scoreboard line a register for which a result is in flight holds its reader (R36). -/
theorem ready_wait {e : Eng} {d : Dest} (hd : d ≠ .none) (h : ¬ (c.exposed e = true ∨ ∀ x ∈ c.inFlight, x.dest ≠ d)) :
    c.ready e d = .error (.wait .reg) := by
  have he : c.exposed e = false := Bool.eq_false_iff.mpr fun he => h (.inl he)
  have hp : c.pending d = true := by simpa [Ctx.pending] using fun hx => h (.inr hx)
  simp [Ctx.ready, he, hd, hp]

theorem rdA_wait {r : BitVec 6} (h : ¬ readyA c r) : c.rdA r = .error (.wait .reg) := by
  have h0 : r ≠ 0 := fun h0 => h (.inr (.inl h0))
  have hw : c.ready .A (.a r) = .error (.wait .reg) := ready_wait nofun fun hx => h (hx.imp_right .inr)
  simp only [Ctx.rdA, if_neg h0, hw]

theorem rdS_wait {r : BitVec 6} (h : ¬ readyS c r) : c.rdS r = .error (.wait .reg) := by
  have h0 : r.setWidth 5 ≠ (0 : BitVec 5) := fun h0 => h (.inr (.inl h0))
  have hw : c.ready .X (.s (r.setWidth 5)) = .error (.wait .reg) := ready_wait nofun fun hx => h (hx.imp_right .inr)
  simp only [Ctx.rdS, if_neg h0, hw]

theorem rdK_wait {r : BitVec 3} (h : ¬ readyK c r) : c.rdK r = .error (.wait .reg) := by
  have h0 : r ≠ 0 := fun h0 => h (.inr (.inl h0))
  have hw : c.ready .X (.k r) = .error (.wait .reg) := ready_wait nofun fun hx => h (hx.imp_right .inr)
  simp only [Ctx.rdK, if_neg h0, hw]

end

/-- Settles O2: each file's write is read back and frames the other registers, and a read answers exactly where R36 lets it. -/
theorem registersReadAndWritten : Obligations.RegistersReadAndWritten :=
  ⟨fun c v => ⟨aVal_write_same c v, sVal_write_same c v, kVal_write_same c v, v_write_same c v,
    write_a_frame c v, write_s_frame c v, write_k_frame c v, write_v_frame c v⟩,
   fun _ => ⟨fun _ => ⟨rdA_ok, rdA_wait⟩, fun _ => ⟨rdS_ok, rdS_wait⟩, fun _ => ⟨rdK_ok, rdK_wait⟩⟩⟩

end Sys2Proof.Proofs.Registers
end

section
/-!
PROOFS. Decode and encode agree (O53): every field is read where it is laid out, each space's map reads an instruction back from its words,
and each row of a map builds an instruction of its own space.
-/

namespace Sys2Proof.Proofs.Encoding

open Sys2Proof Sys2Proof.Laws

/-! ## Fields within the parts of a word -/

section
variable {v w lo n : Nat} (x : BitVec v) (y : BitVec w)

/-- A field within the high part of a word laid out from two parts. The word's width is not part of the pattern, since `simp` writes
it as one number. -/
@[simp] theorem extract_append_high (h : w ≤ lo) :
    (HAppend.hAppend (γ := no_index (BitVec (v + w))) x y).extractLsb' lo n = x.extractLsb' (lo - w) n :=
  BitVec.extractLsb'_append_eq_of_le h

/-- A field within the low part of a word laid out from two parts. -/
@[simp] theorem extract_append_low (h : lo + n ≤ w) :
    (HAppend.hAppend (γ := no_index (BitVec (v + w))) x y).extractLsb' lo n = y.extractLsb' lo n :=
  BitVec.extractLsb'_append_eq_of_add_le h

end

@[simp] theorem pRR_low (t : Tok) (m d a b f : BitVec 6) {lo n : Nat} (h : lo + n ≤ 6) :
    fld (pRR t m d a b f) lo n = f.extractLsb' lo n := by
  simp [pRR, h]

@[simp] theorem pRI_low (t : Tok) (m d a : BitVec 6) (i : BitVec 12) {lo n : Nat} (h : lo + n ≤ 12) :
    fld (pRI t m d a i) lo n = i.extractLsb' lo n := by
  simp [pRI, h]

@[simp] theorem pRL_low (t : Tok) (m d : BitVec 6) (i : BitVec 18) {lo n : Nat} (h : lo + n ≤ 18) :
    fld (pRL t m d i) lo n = i.extractLsb' lo n := by
  simp [pRL, h]

@[simp] theorem pQ_fn_low (t : Tok) (m a b : BitVec 6) (st : BitVec 4) (f : BitVec 5) (n : BitVec 3) :
    fld (pQ t m a b st f n) 3 2 = f.extractLsb' 0 2 := by
  simp [pQ]

@[simp] theorem vext_opx (h : VHdr) (o : BitVec 24) {lo n : Nat} (hn : lo + n ≤ 24) :
    fld (vext h o) lo n = o.extractLsb' lo n :=
  vext_low h o lo n hn

@[simp] theorem pJL_major (m b : BitVec 6) (r : BitVec 18) : fld (pJL m b r) 24 6 = m := by
  simp [pJL]

@[simp] theorem pJL_body (m b : BitVec 6) (r : BitVec 18) : fld (pJL m b r) 18 6 = b := by
  simp [pJL]

@[simp] theorem pJL_low (m b : BitVec 6) (r : BitVec 18) {lo n : Nat} (h : lo + n ≤ 18) :
    fld (pJL m b r) lo n = r.extractLsb' lo n := by
  simp [pJL, h]

@[simp] theorem pJB_major (m : BitVec 6) (b : BitVec 24) : fld (pJB m b) 24 6 = m := by
  simp [pJB]

@[simp] theorem pJB_low (m : BitVec 6) (b : BitVec 24) {lo n : Nat} (h : lo + n ≤ 24) :
    fld (pJB m b) lo n = b.extractLsb' lo n := by
  simp [pJB, h]

/-! ## A row of an opcode map against the encoder -/

/-- What a row of an opcode map makes of the words after it: how many it takes, and the instruction. -/
def readRow (r : Except Illegal Entry) (exts : List W32) : Except Illegal (Nat × Instr) :=
  r.map fun en => (en.count, en.build fun n => exts.getD n 0)

@[simp] theorem readRow_ok (en : Entry) (exts : List W32) :
    readRow (.ok en) exts = .ok (en.count, en.build fun n => exts.getD n 0) := rfl

theorem readRow_eq_ok {r : Except Illegal Entry} {exts : List W32} {n : Nat} {i : Instr} (h : readRow r exts = .ok (n, i)) :
    ∃ en, r = .ok en ∧ en.count = n ∧ en.build (fun n => exts.getD n 0) = i := by
  cases r with
  | error x => cases h
  | ok en =>
    cases h
    exact ⟨en, rfl, rfl, rfl⟩

theorem lim_eq_none {p : Prop} [Decidable p] {c : EncCause} {d : Nat} : lim p c d = none ↔ p := by
  simp [lim]

/-- BAR.ARRIVE has no sub-op for a fourth scope (R131). -/
theorem barArrive_scope {t : Tok} {ra rb : BitVec 6} {st : BitVec 4} {scope : BitVec 2} (h : limit (.barArrive t ra rb st scope) = none) :
    scope = 0 ∨ scope = 1 ∨ scope = 2 := by
  have hle : scope.toNat ≤ 2 := lim_eq_none.mp h
  bv_omega

theorem barWait_scope {t : Tok} {ra rb : BitVec 6} {st : BitVec 4} {scope : BitVec 2} (h : limit (.barWait t ra rb st scope) = none) :
    scope = 0 ∨ scope = 1 := by
  have hle : scope.toNat ≤ 1 := lim_eq_none.mp h
  bv_omega

/-- A 64-bit constant is its two extension words, the second over the first (R146). -/
@[simp] theorem append_halves (x : BitVec 64) : x.extractLsb' 32 32 ++ x.extractLsb' 0 32 = x :=
  BitVec.extractLsb'_append_extractLsb'

/-- A sub-op that is a 2-bit operand is one of the four that CPY.RED, CPY.DEC and CTBL have. -/
theorem operandFn_lt (x : BitVec 2) : (0#3 ++ x).toNat < 4 := by
  revert x
  decide

/-- The A space reads every instruction back from its words. The majors are matched with the word still opaque: what is left for each
instruction is its own row. -/
theorem readRow_lookupA {i : Instr} {e : Words} (h : encode i = some e) (hs : e.space = .A) (hl : limit i = none) :
    readRow (lookupA e.word) e.exts = .ok (e.exts.length, i) := by
  delta lookupA
  generalize hm : (fld e.word 24 6).toNat = m
  cases i
  case' barArrive => obtain rfl | rfl | rfl := barArrive_scope hl
  case' barWait => obtain rfl | rfl := barWait_scope hl
  all_goals cases h
  all_goals cases hs
  all_goals
    simp only [pRR_major, pRI_major, pRL_major, pBC_major, pBL_major, pM_major, pQ_major] at hm
    subst hm
  case cpy.refl.refl | cpy2d.refl.refl | cpyMc.refl.refl | cpyCsum.refl.refl | cpyRed.refl.refl | cpyDec.refl.refl | ctbl.refl.refl =>
    show readRow (if _ then _ else _) _ = _
    simp [operandFn_lt]
  all_goals
    conv_lhs => arg 1; whnf
    simp

theorem readRow_lookupX {i : Instr} {e : Words} (h : encode i = some e) (hs : e.space = .X) :
    readRow (lookupX e.word) e.exts = .ok (e.exts.length, i) := by
  delta lookupX
  generalize hm : (fld e.word 24 6).toNat = m
  cases i
  all_goals cases h
  all_goals cases hs
  all_goals
    simp only [pRR_major, pRI_major, pRL_major, pBC_major, pBL_major] at hm
    subst hm
    conv_lhs => arg 1; whnf
    simp

theorem readRow_lookupJ {i : Instr} {e : Words} (h : encode i = some e) (hs : e.space = .J) :
    readRow (lookupJ e.word) e.exts = .ok (e.exts.length, i) := by
  cases i
  all_goals cases h
  all_goals cases hs
  all_goals simp [lookupJ]

/-- The map of its space reads every instruction that has no field beyond its limit back from its words. -/
theorem readRow_lookup {i : Instr} {e : Words} (h : encode i = some e) (hl : limit i = none) :
    readRow (lookup e.space e.word) e.exts = .ok (e.exts.length, i) := by
  cases hs : e.space with
  | A => exact readRow_lookupA h hs hl
  | X => exact readRow_lookupX h hs
  | J => exact readRow_lookupJ h hs

/-- The low bits of a word of format Q are the number of its extension words (R118). -/
theorem qCount_encode {i : Instr} {e : Words} (h : encode i = some e) (hq : isQ e.space e.word = true) :
    (fld e.word 0 3).toNat = e.exts.length := by
  unfold isQ at hq
  generalize hm : fld e.word 24 6 = m at hq
  cases i
  all_goals cases h
  all_goals
    simp only [pRR_major, pRI_major, pRL_major, pBC_major, pBL_major, pM_major, pQ_major, pJL_major, pJB_major] at hm
    subst hm
    cases hq
  all_goals
    rw [pQ_n]
    rfl

/-! ## What a row builds is encoded in the row's space -/

/-- A row's instruction, whatever its extension words, has words in the space, with as many extension words as the row takes. -/
def Encodes (sp : Space) (r : Except Illegal Entry) : Prop :=
  ∀ en, r = .ok en → ∀ f, ∃ e, encode (en.build f) = some e ∧ e.space = sp ∧ e.exts.length = en.count

theorem encodes_error (sp : Space) (x : Illegal) : Encodes sp (.error x) := nofun

theorem encodes_ok {sp : Space} {en : Entry} (h : ∀ f, ∃ e, encode (en.build f) = some e ∧ e.space = sp ∧ e.exts.length = en.count) :
    Encodes sp (.ok en) := by
  rintro _ ⟨⟩
  exact h

theorem encodes_lookupA (w : W32) : Encodes .A (lookupA w) := by
  unfold lookupA
  repeat' split
  any_goals exact encodes_error _ _
  all_goals exact encodes_ok fun _ => ⟨_, rfl, rfl, rfl⟩

theorem encodes_lookupX (w : W32) : Encodes .X (lookupX w) := by
  unfold lookupX
  repeat' split
  any_goals exact encodes_error _ _
  all_goals exact encodes_ok fun _ => ⟨_, rfl, rfl, rfl⟩

theorem encodes_lookupJ (w : W32) : Encodes .J (lookupJ w) := by
  unfold lookupJ
  split
  any_goals exact encodes_error _ _
  all_goals exact encodes_ok fun _ => ⟨_, rfl, rfl, rfl⟩

theorem encodes_lookup (sp : Space) (w : W32) : Encodes sp (lookup sp w) := by
  cases sp with
  | A => exact encodes_lookupA w
  | X => exact encodes_lookupX w
  | J => exact encodes_lookupJ w

/-! ## The decoder -/

/-- What the decoder asks of the words of an instruction. -/
structure Accepts (sp : Space) (w : W32) (ws : List W32) (i : Instr) (en : Entry) (e : Words) : Prop where
  row : lookup sp w = .ok en
  count : en.count ≤ ws.length
  qCount : isQ sp w = true → (fld w 0 3).toNat = en.count
  build : en.build (fun n => ws.getD n 0) = i
  encode : encode i = some e
  word : e.word = w
  exts : ∀ p ∈ e.exts.zip ws, p.1 = p.2
  limit : limit i = none

theorem decodeInstr_eq_ok_iff {sp : Space} {w : W32} {ws : List W32} {i : Instr} :
    decodeInstr sp w ws = .ok i ↔ ∃ en e, Accepts sp w ws i en e := by
  constructor
  · intro h
    unfold decodeInstr at h
    split at h
    · cases h
    rename_i en hrow
    split at h
    · cases h
    rename_i hcount
    dsimp only at h
    split at h
    · cases h
    rename_i e henc
    split at h
    · cases h
    rename_i hword
    split at h
    · cases h
    rename_i hexts
    split at h
    · cases h
    rename_i hlim
    cases h
    push Not at hcount
    exact ⟨en, e, hrow, hcount.1, hcount.2, rfl, henc, not_not.mp hword, by simpa using hexts, hlim⟩
  · rintro ⟨en, e, h⟩
    have hcount : ¬ (ws.length < en.count ∨ (isQ sp w = true ∧ (fld w 0 3).toNat ≠ en.count)) := by
      rintro (hlt | ⟨hq, hne⟩)
      · exact absurd h.count (by omega)
      · exact hne (h.qCount hq)
    have hexts : (e.exts.zip ws).find? (fun p => p.1 ≠ p.2) = none := by simpa using h.exts
    simp only [decodeInstr, h.row, if_neg hcount, h.build, h.encode, h.word, ne_eq, not_true_eq_false, if_false, h.limit]
    rw [hexts]

/-- Words that agree with those before which they stand are the first of them. -/
theorem eq_take_of_zip {α : Type} {xs ys : List α} (hlen : xs.length ≤ ys.length) (h : ∀ p ∈ xs.zip ys, p.1 = p.2) :
    xs = ys.take xs.length := by
  refine List.ext_getElem (by simpa using hlen) fun n hx _ => ?_
  have hy : n < ys.length := by omega
  rw [List.getElem_take]
  exact h (xs[n], ys[n]) (List.mem_iff_getElem.mpr ⟨n, by simp [hx, hy], by simp⟩)

theorem zip_self_agree {α : Type} {xs : List α} {p : α × α} (h : p ∈ xs.zip xs) : p.1 = p.2 := by
  obtain ⟨n, hn, rfl⟩ := List.mem_iff_getElem.mp h
  simp

theorem wellFormed_iff {i : Instr} : i.WellFormed = true ↔ (encode i).isSome = true ∧ limit i = none := by
  simp [Instr.WellFormed]

theorem decodeInstr_encode {i : Instr} {e : Words} (hl : limit i = none) (h : encode i = some e) :
    decodeInstr e.space e.word e.exts = .ok i := by
  obtain ⟨en, hrow, hcount, hbuild⟩ := readRow_eq_ok (readRow_lookup h hl)
  exact decodeInstr_eq_ok_iff.mpr ⟨en, e, hrow, hcount.le, fun hq => (qCount_encode h hq).trans hcount.symm, hbuild, h, rfl,
    fun _ => zip_self_agree, hl⟩

theorem encode_decodeInstr {sp : Space} {w : W32} {ws : List W32} {i : Instr} (h : decodeInstr sp w ws = .ok i) :
    i.WellFormed = true ∧ ∃ e, encode i = some e ∧ e.space = sp ∧ e.word = w ∧ e.exts = ws.take e.exts.length := by
  obtain ⟨en, e, a⟩ := decodeInstr_eq_ok_iff.mp h
  obtain ⟨e', henc, hsp, hlen⟩ := encodes_lookup sp w en a.row (fun n => ws.getD n 0)
  obtain rfl : e' = e := Option.some.inj (henc.symm.trans ((congrArg encode a.build).trans a.encode))
  exact ⟨wellFormed_iff.mpr ⟨by rw [a.encode]; rfl, a.limit⟩, e', a.encode, hsp, a.word, eq_take_of_zip (hlen ▸ a.count) a.exts⟩

/-- Settles O53: the map of a space reads each instruction back from its words, and each row's instruction is encoded in that space. -/
theorem decodeOfEncode : Obligations.DecodeOfEncode :=
  ⟨fun _ _ hwf => decodeInstr_encode (wellFormed_iff.mp hwf).2, fun _ _ _ _ => encode_decodeInstr⟩

end Sys2Proof.Proofs.Encoding
end

section
/-!
PROOFS. What the instructions of the synchronisation and engine groups share at issue: their operand checks, and the handing of an access
to memory.
-/

namespace Sys2Proof.Proofs.Issue

open Sys2Proof.Machine Sys2Proof.Claims Sys2Proof.Laws Sys2Proof.Proofs.Fences

/-! ## Fields of a register -/

theorem extractLsb'_toNat_div {w : Nat} (a : BitVec w) (lo n : Nat) : (a.extractLsb' lo n).toNat = a.toNat / 2 ^ lo % 2 ^ n := by
  rw [BitVec.extractLsb'_toNat, Nat.shiftRight_eq_div_pow]

/-- The highest bits of a word. -/
theorem extractLsb'_high {w : Nat} (a : BitVec w) {lo n : Nat} (h : lo + n = w) : (a.extractLsb' lo n).toNat = a.toNat / 2 ^ lo := by
  rw [extractLsb'_toNat_div]
  refine Nat.mod_eq_of_lt (Nat.div_lt_of_lt_mul ?_)
  rw [← Nat.pow_add, h]
  exact a.isLt

theorem extractLsb'_low {w : Nat} (a : BitVec w) (n : Nat) : (a.extractLsb' 0 n).toNat = a.toNat % 2 ^ n := by
  rw [BitVec.extractLsb'_toNat, Nat.shiftRight_zero]

theorem extractLsb'_eq_ofNat (x : W64) (lo n : Nat) : x.extractLsb' lo n = BitVec.ofNat n (x.toNat / 2 ^ lo) := by
  rw [BitVec.extractLsb', Nat.shiftRight_eq_div_pow]

theorem extractLsb'_zero_eq_ofNat (x : W64) (n : Nat) : x.extractLsb' 0 n = BitVec.ofNat n x.toNat := rfl

/-! ## Operands -/

/-- A part of an effect that succeeds gives way to the rest. -/
theorem ok_bind {α β : Type} {x : Act α} {a : α} {f : α → Act β} {r : Act β} (h : x = .ok a) (hf : f a = r) : x >>= f = r := by
  rw [h]
  exact hf

theorem ok_bind₂ {α β γ : Type} {x : Act α} {a : α} {y : α → Act β} {b : β} {f : α → β → Act γ} {r : Act γ} (hx : x = .ok a)
    (hy : y a = .ok b) (hf : f a b = r) : (x >>= fun a => y a >>= f a) = r :=
  ok_bind hx (ok_bind hy hf)

theorem ok_bind₄ {α β γ δ ε : Type} {x : Act α} {a : α} {y : α → Act β} {b : β} {z : α → β → Act γ} {d : γ} {w : α → β → γ → Act δ} {e : δ}
    {f : α → β → γ → δ → Act ε} {r : Act ε} (hx : x = .ok a) (hy : y a = .ok b) (hz : z a b = .ok d) (hw : w a b d = .ok e)
    (hf : f a b d e = r) : (x >>= fun a => y a >>= fun b => z a b >>= fun d => w a b d >>= f a b d) = r :=
  ok_bind₂ hx hy (ok_bind₂ hz hw hf)

theorem wantAddress_ok {a : W64} (h : a.toNat / 2 ^ 60 ≠ 15) : wantAddress a = .ok () := by
  refine check_ok ?_ _
  rw [Bool.not_eq_true', Bool.eq_false_iff]
  exact mt (isHandle_iff a).mp h

theorem multiple4_ok {a : W64} {n : Nat} (h : n % 4 = 0) : multiple4 a n = .ok () := check_ok (beq_iff_eq.mpr h) _

theorem barrierAligned_ok {a : W64} (h : barrierAt a) : barrierAligned a = .ok () :=
  ok_bind (wantAddress_ok h.1) (check_ok (beq_iff_eq.mpr h.2) _)

theorem channelNumber_ok {x : W64} (h : x.toNat < 64) : channelNumber x = .ok x.toNat := by
  have hhigh : (x.extractLsb' 6 58 == 0) = true := by
    rw [beq_iff_eq, ← BitVec.toNat_inj, extractLsb'_high x rfl]
    exact Nat.div_eq_of_lt h
  exact ok_bind (check_ok hhigh _) rfl

/-- The address of format M and the rows of R161 and R197: the offset moves within the low 48 bits. -/
theorem addOffset_eq (x : W64) (d : Int) : addOffset x d = BitVec.ofInt 64 (inOffset x.toNat d) := by
  have hlow (m : Int) : ((BitVec.ofInt 48 m).toNat : Int) = m % 2 ^ 48 := by
    rw [BitVec.toNat_ofInt]
    exact Int.toNat_of_nonneg (Int.emod_nonneg m (by decide))
  have hvalue : ((addOffset x d).toNat : Int) = inOffset x.toNat d := by
    rw [addOffset, inOffset, BitVec.toNat_append, ← Nat.shiftLeft_add_eq_or_of_lt (BitVec.isLt _), Nat.shiftLeft_eq, Nat.cast_add, hlow,
      extractLsb'_high x rfl, extractLsb'_low]
    rfl
  rw [← hvalue, BitVec.ofInt_natCast, BitVec.ofNat_toNat, BitVec.setWidth_eq]

theorem effAddr_eq (c : Ctx) (base : BitVec 6) (off : BitVec 8) (u : Nat) : effAddr (c.aVal base) off u = address c base off u :=
  addOffset_eq _ _

/-! ## Checks that hold -/

theorem toOption_eq_some {ε α : Type} {x : Except ε α} {a : α} (h : x.toOption = some a) : x = .ok a := by
  cases x with
  | error e => cases h
  | ok b => exact congrArg _ (Option.some.inj h)

theorem checkCommand_ok {s : State} {c : Ctx} {runs : List Run} {r : List (List Span)} (h : ranges s c runs = some r) :
    s.checkCommand s.cur.who s.cur.loom c.peer runs = .ok r := toOption_eq_some h

theorem run_ok {s : State} {c : Ctx} {op : MemOp} {maj : Nat} {a : W64} {len : Nat} {sps : List Span}
    (h : placedOne s c op maj a len = some sps) : s.run c op maj 0 a len = .ok sps := toOption_eq_some h

/-! ## Room -/

theorem fenceFree_ok {c : Ctx} {st : BitVec 4} (h : fenceFree c st) : c.fenceFree st = .ok () := by
  refine check_ok ?_ _
  rw [Bool.not_eq_true', List.any_eq_false]
  intro f hf hheld
  rw [Bool.and_eq_true] at hheld
  exact absurd hheld.2 (by rw [h f hf hheld.1]; exact Bool.false_ne_true)

theorem counterRoom_ok {c : Ctx} {k : Counter} (h : counterFree c (some k)) : c.counterRoom k = .ok () :=
  check_ok (Nat.blt_eq.mpr (h k rfl)) _

theorem check_eq_ok_iff {p : Bool} {f : Stop} : check p f = .ok () ↔ p = true := by
  cases p <;> simp

theorem channelRoom_iff {c : Ctx} {sps : List Span} : c.channelRoom sps = .ok () ↔ channelFree c sps := by
  unfold Ctx.channelRoom channelFree
  rw [check_eq_ok_iff, List.all_eq_true]
  refine forall₂_congr fun sp _ => ?_
  rw [Bool.or_eq_true, Bool.not_eq_true', Nat.blt_eq, ← Bool.not_eq_true, imp_iff_not_or]

theorem channelFree_nil (c : Ctx) : channelFree c [] := fun _ h => nomatch h

theorem reserve_reg {c : Ctx} {a : Access} {r : BitVec 6} (lat : Nat) (hdest : a.dest = .reg r) (h : dataRoom c (.reg r)) :
    c.reserve a lat = .ok (dataPlace c a lat) := by
  unfold Ctx.reserve dataPlace
  rw [hdest]
  exact (if_neg (Nat.not_le.mpr h.1)).trans (addResult_ok h.2 nofun)

/-- An access with a register for its result is handed to memory where no fence, no full channel and no result holds it. -/
theorem issueAccess_reg {s : State} {t : Tok} {c : Ctx} {a : Access} {r : BitVec 6} {lat base : Nat} (hdest : a.dest = .reg r)
    (hf : fenceFree c a.stream) (hc : channelFree c a.spans) (hd : dataRoom c (.reg r)) :
    s.issueAccess t c a none lat base = .ok (handed s t c a none lat base) :=
  ok_bind (fenceFree_ok hf) (ok_bind₂ (channelRoom_iff.mpr hc) (reserve_reg (c := s.counted c a none lat base) (a := s.numbered c a) lat hdest hd)
    rfl)

end Sys2Proof.Proofs.Issue
end

section
/-!
PROOFS. BIND, UNBIND and PREF (O17): each effect as the statement writes it.
-/

namespace Sys2Proof.Proofs.Bindings

open Sys2Proof.Machine Sys2Proof.Claims Sys2Proof.Laws Sys2Proof.Proofs.Fences Sys2Proof.Proofs.Issue

/-! ## Translation -/

theorem who_bolt (e : Sel) : e.who.bolt = boltOf e.loom := by
  obtain ⟨loom, ev, eng⟩ := e
  have hunit {r : Nat} (hr : r < 4) : (4 * loom + r) / 32 = loom / 8 := by
    rw [← Nat.div_div_eq_div_mul _ 4 8, Nat.mul_add_div (by decide), Nat.div_eq_of_lt hr, Nat.add_zero]
  cases ev <;> cases eng
  exacts [hunit (r := 0) (by decide), hunit (r := 1) (by decide), hunit (r := 2) (by decide), hunit (r := 3) (by decide)]

theorem translate_held {s : State} {c : Ctx} {va : Nat} {e : TlbEntry} (h : held s c va = some e) :
    s.translate s.cur.who c.peer va = .ok e := by
  simp only [held, ← who_bolt s.cur] at h
  simp only [State.translate, h]

theorem translate_bad {s : State} {c : Ctx} {va : Nat} {x : BadWalk} (hnone : held s c va = none)
    (hx : x ∈ (s.bolt (boltOf s.cur.loom)).badWalks) (hwho : x.who = s.cur.who) (hpeer : x.peer = c.peer) (hpage : x.page = pageOf va) :
    ∃ f, s.translate s.cur.who c.peer va = .error (.fault f) := by
  have hsome : ((s.bolt (boltOf s.cur.loom)).badWalks.find? (fun x => x.who == s.cur.who && x.peer == c.peer && x.page == pageOf va)).isSome := by
    rw [List.find?_isSome]
    exact ⟨x, hx, by simp [hwho, hpeer, hpage]⟩
  obtain ⟨y, hy⟩ := Option.isSome_iff_exists.mp hsome
  simp only [held] at hnone
  simp only [State.translate, who_bolt, hnone, hy]
  exact ⟨_, rfl⟩

theorem objectLeaf_virt {s : State} {c : Ctx} {a : W64} {va : Nat} {e : TlbEntry} (hplace : place a = some (.virt va))
    (h : held s c va = some e) : s.objectLeaf c a = .ok (some e) := by
  simp only [State.objectLeaf, hplace, translate_held h]

theorem objectLeaf_none {s : State} {c : Ctx} {a : W64} (h : ∀ va, place a ≠ some (.virt va)) : s.objectLeaf c a = .ok none := by
  unfold State.objectLeaf
  split
  · next va hva => exact absurd hva (h va)
  · rfl

/-! ## Objects -/

theorem handle_place {a : W64} (h : handleOk a) : place a = none := by
  have hspace : (a.extractLsb' 60 4).toNat = 15 := (extractLsb'_high a rfl).trans h.1
  rw [place, hspace]
  rfl

theorem place_of_inPad {a : W64} (h : inPad a) (va : Nat) : place a ≠ some (.virt va) := by
  rcases h with ⟨o, ho, _⟩ | ⟨o, ho, _⟩ <;> simp [ho]

/-- A handle passes the check of an operand that must be one. -/
theorem handle_bits {a : W64} (h : handleOk a) : (isHandle a && a.extractLsb' 17 15 == 0 && a.extractLsb' 14 2 == 0) = true := by
  obtain ⟨hmark, hlow, hslot⟩ := h
  simp only [(isHandle_iff a).mpr hmark, extractLsb'_beq, Bool.true_and, Bool.and_eq_true, decide_eq_true_iff]
  exact ⟨hlow, hslot⟩

theorem and_or_of_true {x y z : Bool} (h : y = true) : (x && (y || z)) = x := by rw [h, Bool.true_or, Bool.and_true]

/-- In a scratchpad a barrier or a flag word needs only its alignment. -/
theorem bindable_inPad (p : Partition) (self : Nat) {a : W64} (leaf : Option TlbEntry) (h : inPad a) :
    p.bindable self 0 a leaf = (a.toNat % 32 == 0) ∧ p.bindable self 2 a leaf = (a.toNat % 8 == 0) := by
  unfold Partition.bindable
  rcases h with ⟨o, hplace, hend⟩ | ⟨o, hplace, hend⟩ <;> rw [hplace] <;>
    exact ⟨and_or_of_true (Nat.ble_eq.mpr hend), and_or_of_true (Nat.ble_eq.mpr hend)⟩

/-- An object that agrees with its kind passes the check of BIND, with the translation that the check finds; its kind is one of four. -/
theorem bindable_of_bindObject {s : State} {p : Partition} {c : Ctx} {kind : Nat} {a : W64} (h : bindObject s p c kind a) :
    kind < 4 ∧ ∃ leaf, s.objectLeaf c a = .ok leaf ∧ p.bindable c.peer kind a leaf = true := by
  match kind, h with
  | 0, h =>
    refine ⟨by decide, ?_⟩
    obtain ⟨halign, hpad | ⟨va, e, hplace, hheld, hms⟩⟩ := h
    · exact ⟨none, objectLeaf_none (place_of_inPad hpad), (bindable_inPad p c.peer none hpad).1.trans (beq_iff_eq.mpr halign)⟩
    · exact ⟨some e, objectLeaf_virt hplace hheld, Bool.and_eq_true_iff.mpr ⟨beq_iff_eq.mpr halign, Bool.or_eq_true_iff.mpr (.inr hms)⟩⟩
  | 1, h =>
    obtain ⟨hhandle, hpeer, hbobbin⟩ := h
    have hself : ((a.extractLsb' 48 12).toNat == c.peer) = true := beq_iff_eq.mpr ((extractLsb'_toNat_div a 48 12).trans hpeer)
    exact ⟨by decide, none, objectLeaf_none (by rw [handle_place hhandle]; nofun),
      Bool.and_eq_true_iff.mpr ⟨Bool.and_eq_true_iff.mpr ⟨handle_bits hhandle, hself⟩, hbobbin⟩⟩
  | 2, h =>
    refine ⟨by decide, ?_⟩
    obtain ⟨halign, hpad | ⟨va, e, hplace, hheld, hw, haw⟩⟩ := h
    · exact ⟨none, objectLeaf_none (place_of_inPad hpad), (bindable_inPad p c.peer none hpad).2.trans (beq_iff_eq.mpr halign)⟩
    · have hpage : (e.attrs.getLsbD attrW && !e.attrs.getLsbD attrAW) = true := Bool.and_eq_true_iff.mpr ⟨hw, congrArg not haw⟩
      exact ⟨some e, objectLeaf_virt hplace hheld, Bool.and_eq_true_iff.mpr ⟨beq_iff_eq.mpr halign, Bool.or_eq_true_iff.mpr (.inr hpage)⟩⟩
  | 3, h =>
    obtain ⟨va, e, hplace, hheld, hcounter, halign⟩ := h
    exact ⟨by decide, some e, objectLeaf_virt hplace hheld, Bool.and_eq_true_iff.mpr ⟨hcounter, beq_iff_eq.mpr halign⟩⟩
  | _ + 4, h => exact h.elim

/-! ## The binding table -/

theorem bindReady_ok {c : Ctx} {p : Partition} (haccs : c.accs = []) (hdiff : p.diffing = false) : c.bindReady p = .ok () :=
  ok_bind (check_ok (by rw [haccs]; rfl) _) (check_ok (congrArg not hdiff) _)

/-- The first entry of the binding section that no binding has. -/
theorem find_free {bs : List Binding} {i : Nat} (hi : i < 256) (hfree : ∀ b ∈ bs, b.idx ≠ i) (hused : ∀ j < i, ∃ b ∈ bs, b.idx = j) :
    (List.range 256).find? (fun i => !bs.any (fun b => b.idx == i)) = some i := by
  rw [List.find?_range_eq_some]
  refine ⟨by simpa using hfree, by simpa using hi, fun j hj => ?_⟩
  simpa using hused j hj

theorem find_binding {bs : List Binding} {b : Binding} (hmem : b ∈ bs) (hone : ∀ d ∈ bs, d.base = b.base → d = b) :
    bs.find? (fun d => d.base == b.base) = some b := by
  obtain ⟨d, hd⟩ := Option.isSome_iff_exists.mp (List.find?_isSome (p := fun d => d.base == b.base) |>.mpr ⟨b, hmem, beq_self_eq_true b.base⟩)
  rw [hd, hone d (List.mem_of_find?_eq_some hd) (by simpa using List.find?_some hd)]

/-! ## The instructions -/

section
variable {s : State} {c : Ctx} {t : Tok} (ht : s.ctx.tokens .A t = .ok c) {p : Partition} (hpart : s.part? c.peer = some p) (haccs : c.accs = [])
  (hdiff : p.diffing = false) {ra : BitVec 6} (hra : readyA c ra)
include ht hpart haccs hdiff hra

theorem execBind_ok {rb ao : BitVec 6} (st : BitVec 4) {kind : BitVec 5} {pl : Place} {i : Nat} (hrb : readyA c rb) (hao : readyA c ao)
    (hbase : (c.aVal ra).toNat % 128 = 0) (hlen : (c.aVal rb).toNat % 128 = 0) (hplace : place (c.aVal ra) = some pl)
    (hspace : (∃ va, pl = .virt va) ∨ (∃ o, pl = .loom o) ∨ ∃ o, pl = .bolt o)
    (hend : pl.offset.1 + (c.aVal rb).toNat ≤ pl.offset.2) (hobj : bindObject s p c kind.toNat (c.aVal ao))
    (hapart : ∀ b ∈ p.bindings, overlapLen (c.aVal ra).toNat (c.aVal rb).toNat b.base b.len = 0)
    (hfind : (List.range 256).find? (fun i => !p.bindings.any (fun b => b.idx == i)) = some i) :
    execBind t ra rb st kind ao s = issued (((s.setCtx (c.postNow .A t)).setPart c.peer
      (p.putBinding i (leBytes 8 (c.aVal ra).toNat ++ leBytes 8 (c.aVal rb).toNat ++ leBytes 8 (c.aVal ao).toNat
        ++ leBytes 8 (4 + kind.toNat)))).l1Clear s.cur.loom) := by
  obtain ⟨hfour, leaf, hleaf, hbindable⟩ := bindable_of_bindObject hobj
  have hnone : (!p.bindings.any (fun b => overlapLen (c.aVal ra).toNat (c.aVal rb).toNat b.base b.len != 0)) = true := by
    simpa using hapart
  have hkind : kind.toNat % 4 = kind.toNat := Nat.mod_eq_of_lt hfour
  refine command_ok ht (ok_bind₄ (rdA_ok hra) (rdA_ok hrb) (rdA_ok hao) (check_ok (beq_iff_eq.mpr hbase) _)
    (ok_bind₂ (b := pl) (check_ok (beq_iff_eq.mpr hlen) _) (by rw [hplace]) (ok_bind (check_ok ?inside _) ?_)))
  case inside => rcases hspace with ⟨o, rfl⟩ | ⟨o, rfl⟩ | ⟨o, rfl⟩ <;> exact Nat.ble_eq.mpr hend
  rw [hpart]
  refine ok_bind₄ hleaf (check_ok hbindable _) (bindReady_ok haccs hdiff) (check_ok hnone _) ?_
  rw [hfind, hkind]
  rfl

theorem execUnbind_ok (st : BitVec 4) {b : Binding} (hmem : b ∈ p.bindings) (hbase : b.base = (c.aVal ra).toNat)
    (hone : ∀ d ∈ p.bindings, d.base = b.base → d = b) :
    execUnbind t ra st s =
      issued (((s.setCtx (c.postNow .A t)).setPart c.peer (p.putBinding b.idx (List.replicate 32 0))).l1Clear s.cur.loom) := by
  refine command_ok ht (ok_bind (rdA_ok hra) ?_)
  rw [hpart]
  refine ok_bind (bindReady_ok haccs hdiff) ?_
  rw [← hbase, find_binding hmem hone]
  rfl

end

/-- Settles O17: BIND and UNBIND by their lemmas, PREF by what it finds at the address. -/
theorem bindingsAndPrefetch : Obligations.BindingsAndPrefetch := by
  refine ⟨fun s c t p ht hpart haccs hdiff => ⟨?bind, ?unbind⟩, fun s c t hint base st off ht hbase hfence => ⟨?elsewhere, ?held, ?bad⟩⟩
  case bind =>
    intro ra rb st kind ao pl i hra hrb hao hbase hlen hplace hspace hend hobj hapart hi hfree hused
    have hspace : (∃ va, pl = .virt va) ∨ (∃ o, pl = .loom o) ∨ ∃ o, pl = .bolt o := by
      cases pl with
      | virt va => exact .inl ⟨va, rfl⟩
      | loom o => exact .inr (.inl ⟨o, rfl⟩)
      | bolt o => exact .inr (.inr ⟨o, rfl⟩)
      | _ => exact hspace.elim
    exact execBind_ok ht hpart haccs hdiff hra st hrb hao hbase hlen hplace hspace hend hobj hapart (find_free hi hfree hused)
  case unbind => exact fun ra st b hra hmem hbase hone => execUnbind_ok ht hpart haccs hdiff hra st hmem hbase hone
  case elsewhere =>
    -- `h` is what lets `simp` take the last branch of the effect's match
    intro h
    refine command_ok ht (ok_bind₂ (rdA_ok hbase) (fenceFree_ok hfence) ?_)
    simp only [effAddr_eq]
    rfl
  case held =>
    intro va e hplace hheld
    have hleaf : (s.setCtx (c.postNow .A t)).translate (s.setCtx (c.postNow .A t)).cur.who c.peer va = .ok e := translate_held hheld
    refine command_ok ht (ok_bind₂ (rdA_ok hbase) (fenceFree_ok hfence) ?_)
    simp only [effAddr_eq, hplace, hleaf]
    exact congrArg Except.ok (if_congr (by simp) rfl rfl)
  case bad =>
    intro va x hplace hnone hx hwho hpeer hpage
    obtain ⟨f, hf⟩ := translate_bad hnone hx hwho hpeer hpage
    have hleaf : (s.setCtx (c.postNow .A t)).translate (s.setCtx (c.postNow .A t)).cur.who c.peer va = .error (.fault f) := hf
    refine command_ok ht (ok_bind₂ (rdA_ok hbase) (fenceFree_ok hfence) ?_)
    simp only [effAddr_eq, hplace, hleaf]
    rfl

end Sys2Proof.Proofs.Bindings
end

section
/-!
PROOFS. BAR.WAIT and its limit (O18): what it does by the barrier's state and phase, and how the limit ends it.
-/

namespace Sys2Proof.Proofs.BarrierWaits

open Sys2Proof.Machine Sys2Proof.Claims Sys2Proof.Laws Sys2Proof.Proofs.Fences Sys2Proof.Proofs.Issue

/-- A phase has flipped unless the barrier's phase is it or one of the 2^31 - 1 before it, modulo 2^32. -/
theorem flipped_eq_false_iff (b : Barrier) {phase : Nat} (h : phase < 2 ^ 32) :
    b.flipped phase = false ↔ (b.phase + 2 ^ 32 - phase) % 2 ^ 32 = 0 ∨ 2 ^ 31 < (b.phase + 2 ^ 32 - phase) % 2 ^ 32 := by
  rw [Barrier.flipped, Nat.mod_eq_of_lt h, Bool.and_eq_false_iff, ← Bool.not_eq_true, ← Bool.not_eq_true, Nat.ble_eq, Nat.ble_eq, Nat.not_le,
    Nat.not_le, Nat.lt_one_iff]

theorem barrierSpan_ok {s : State} {c : Ctx} {a : W64} {sps : List Span} (hkind : a.toNat / 2 ^ 60 ≠ 15) (halign : a.toNat % 32 = 0)
    (h : placedOne s c .object 0x2C a 32 = some sps) : s.barrierSpan c a = .ok sps :=
  ok_bind₂ (wantAddress_ok hkind) (check_ok (beq_iff_eq.mpr halign) _) (run_ok h)

theorem localSpans_home {s : State} {c : Ctx} {op : MemOp} {sp : Span} (h : sp.peer = none) : s.localSpans c op sp = .ok [sp] := by
  rw [State.localSpans, h]

theorem remote_home {sp : Span} (h : sp.peer = none) (self : Nat) : ¬ sp.remote self = true := by
  rw [Span.remote, h]
  exact Bool.false_ne_true

/-! ## BAR.WAIT -/

theorem command_done {s : State} {t : Tok} {f : Ctx → Act State} {c : Ctx} {r : Act State} (ht : s.ctx.tokens .A t = .ok c) (hf : f c = r) :
    s.command t f = s.done r :=
  congrArg s.done (ok_bind ht hf)

/-- What BAR.WAIT does at a barrier of this device, once nothing holds it: the fault of a barrier that is not ready, the wait for the phase, or
the acquisition of its flip. -/
theorem execBarWait_home {s : State} {c : Ctx} {t : Tok} {ra rb : BitVec 6} {st : BitVec 4} {sp : Span} (ht : s.ctx.tokens .A t = .ok c)
    (hra : readyA c ra) (hrb : readyA c rb) (hspan : s.barrierSpan c (c.aVal rb) = .ok [sp]) (hhome : sp.peer = none)
    (hfence : fenceFree c st) (hwritten : c.unwritten st [sp] = false) (hline : (s.meetBarrier sp).2 = none) (scope : BitVec 2) :
    let phase := (c.aVal ra).toNat % 2 ^ 32
    execBarWait t ra rb st scope s = s.done (
      if (s.barrier sp.pa).state ≠ 1 then .error (.fault (barrierFault (c.aVal rb).toNat (s.barrier sp.pa)))
      else if (!(s.barrier sp.pa).flipped phase) = true then .error (.wait (.barrier sp.pa phase (c.aVal rb).toNat))
      else .ok ((s.setCtx ({ c with barSeen := none, barWait := none }.postNow .A t)).acquireFlip s.cur.loom c.peer (c.aVal rb).toNat sp.pa
        phase)) := by
  refine command_done ht (ok_bind₄ (rdA_ok hrb) (rdA_ok hra) hspan (fenceFree_ok hfence)
    (ok_bind (check_ok (congrArg not hwritten) _) ((if_neg (remote_home hhome c.peer)).trans ?_)))
  simp only [List.headD_cons, localSpans_home hhome, hline]
  rfl

/-- Settles O18, by the state of the barrier and by whether the phase has flipped. -/
theorem barrierWaits : Obligations.BarrierWaits := by
  refine ⟨?wait, ?timeout⟩
  case wait =>
    intro s c t ra rb st scope sp ht hra hrb hkind halign hplaced hhome hfence hwritten hline phase b
    have hspan := barrierSpan_ok hkind halign hplaced
    have hflipped := flipped_eq_false_iff b (phase := phase) (Nat.mod_lt _ (by decide))
    refine (execBarWait_home ht hra hrb hspan hhome hfence hwritten hline scope).trans ?_
    by_cases hstate : b.state = 1
    · rw [if_neg (not_not.mpr hstate), if_neg (not_not.mpr hstate)]
      cases hphase : b.flipped phase with
      | false => exact (if_pos (hflipped.mp hphase)).symm
      | true => exact (if_neg (mt hflipped.mpr (by rw [hphase]; decide))).symm
    · rw [if_pos hstate, if_pos hstate]
      rfl
  case timeout =>
    intro s loom ev pa phase raw sp p hwait hrun hhere hpart hlimit
    exact event_some (by simp [State.barrierTimeout, State.setTimedOut, hwait, hrun, hhere, hpart, hlimit])

end Sys2Proof.Proofs.BarrierWaits
end

section
/-!
PROOFS. The copies and CH.SEND at issue (O19), CTBL and SUSP.FILL (O24): the checks, and the queue that takes the command.
-/

namespace Sys2Proof.Proofs.CopyIssue

open Sys2Proof.Machine Sys2Proof.Claims Sys2Proof.Laws Sys2Proof.Proofs.Fences Sys2Proof.Proofs.Issue

/-! ## Numbered commands -/

/-- The state in which a copy has been taken: at its queue's tail, or completed where it has no bytes. -/
def copyIssued (s : State) (c : Ctx) (f : CopyForm) : State :=
  s.setCtx ((if f.cmd.len = 0 then (copyTaken s c f).completeOp c.nextId
    else atTail ((copyTaken s c f).release (copyCarries s c f)) f.load (queuedCmd s c f)).postNow .A f.tok)

theorem queueCopy_ok {s : State} {c : Ctx} {f : CopyForm} (hfree : copyFree s c f) :
    s.queueCopy f.tok c f.load f.cmd f.bar f.p1 f.p2 f.bytes f.lat = .ok (copyIssued s c f) := by
  obtain ⟨hfence, hcounter, hnumber, hroom⟩ := hfree
  exact ok_bind₄ (fenceFree_ok hfence) (counterRoom_ok hcounter) hnumber (check_ok (Nat.blt_eq.mpr hroom) _)
    (apply_ite (fun d : Ctx => (.ok (s.setCtx (d.postNow .A f.tok)) : Act State)) _ _ _).symm

theorem forall_mem_four {α : Type} {p : α → Prop} {a b c d : α} (h : ∀ x ∈ [a, b, c, d], p x) : p a ∧ p b ∧ p c ∧ p d := by
  simpa using h

theorem apart_ok {s : State} {c : Ctx} {op : MemOp} {ds ss : List Span}
    (h : ¬ spansOverlap (s.resolved c op ds) (s.resolved c .copySrc ss) = true) : s.apart c op ds ss = .ok () :=
  check_ok (by rw [Bool.eq_false_iff.mpr h]; rfl) _

theorem copyLen_ok {c : Ctx} {aL : BitVec 6} (h : readyA c aL) : c.copyLen aL = .ok ((c.aVal aL).toNat % 2 ^ 48) :=
  ok_bind (rdA_ok h) rfl

/-! ## The instructions by their forms -/

theorem elim_ite {α : Type} {P : Prop} [Decidable P] {x : Option α} {F : α → Prop} (h : ¬ P → x.elim True F) :
    (if P then none else x).elim True F := by
  split
  · trivial
  · next hP => exact h hP

/-- A form that is there has passed its operand checks, its ranges and the check that they do not overlap. -/
theorem elim_form {α β : Type} {P : Prop} [Decidable P] {x : Option α} {Q : α → Prop} [∀ r, Decidable (Q r)] {g : α → β} {F : β → Prop}
    (h : ¬ P → ∀ r, x = some r → ¬ Q r → F (g r)) : (if P then none else x.bind (fun r => if Q r then none else some (g r))).elim True F := by
  refine elim_ite fun hP => ?_
  cases x with
  | none => trivial
  | some r => exact elim_ite fun hQ => h hP r rfl hQ

/-- What O19 says of an instruction, read off its form: nothing of one that is no copy. -/
def copyRight (s : State) (c : Ctx) (i : Instr) : Prop :=
  (copyForm s c i).elim True (fun f => s.ctx.tokens .A f.tok = .ok c → (∀ r ∈ f.srcs, readyA c r) → copyFree s c f →
    exec i s = issued (copyIssued s c f))

/-- The copies of one run of bytes go through one course, once they have read their length. -/
theorem command_plainCopy {s : State} {c : Ctx} {t : Tok} {maj : Nat} {op : MemOp} {kind : CopyKind} {ra rb : BitVec 6} {st : BitVec 4}
    {aL : BitVec 6} {len dlen : Nat} {ab : BitVec 6} {p1 p2 : BitVec 8} {effect : Ctx → Act State}
    (heffect : readyA c aL → effect c = s.copyPlain t c maj op kind ra rb st len dlen ab p1 p2) :
    (plainCopy s c t maj op kind ra rb st aL len dlen ab p1 p2).elim True (fun f => s.ctx.tokens .A f.tok = .ok c →
      (∀ r ∈ f.srcs, readyA c r) → copyFree s c f → s.command t effect = issued (copyIssued s c f)) := by
  have hqueue (f : CopyForm) := queueCopy_ok (s := s) (c := c) (f := f)
  generalize copyIssued s c = issuedAs at hqueue ⊢
  refine elim_form fun hops r hr happart ht hready hfree => ?_
  replace hqueue := hqueue _ hfree
  push Not at hops
  obtain ⟨hlen, hdst, hsrc, hmult, hbar⟩ := hops
  obtain ⟨hra, hrb, hab, haL⟩ := forall_mem_four hready
  refine command_ok ht ((heffect haL).trans ?_)
  exact ok_bind₄ (rdA_ok hra) (rdA_ok hrb) (rdA_ok hab) (check_ok (Nat.ble_eq.mpr hlen) _) (ok_bind₄ (multiple4_ok hdst) (multiple4_ok hsrc)
    (multiple4_ok hmult) (barrierAligned_ok hbar) (ok_bind₂ (checkCommand_ok hr) (apart_ok happart) hqueue))

theorem copyRight_cpy2d (s : State) (c : Ctx) (t : Tok) (ra rb : BitVec 6) (st : BitVec 4) (aL ab : BitVec 6) (p1 p2 : BitVec 8)
    (ap : BitVec 6) : copyRight s c (.cpy2d t ra rb st aL ab p1 p2 ap) := by
  unfold copyRight
  have hqueue (f : CopyForm) := queueCopy_ok (s := s) (c := c) (f := f)
  generalize copyIssued s c = issuedAs at hqueue ⊢
  refine elim_form fun hops r hr happart ht hready hfree => ?_
  replace hqueue := hqueue _ hfree
  push Not at hops
  obtain ⟨hrows, hlen, hdst, hsrc, hmult, hdp, hsp, hbar⟩ := hops
  obtain ⟨hra, hready⟩ := List.forall_mem_cons.mp hready
  obtain ⟨hrb, hab, haL, hap⟩ := forall_mem_four hready
  simp only [← extractLsb'_eq_ofNat, ← extractLsb'_zero_eq_ofNat, ← addOffset_eq] at hr hdp hsp
  have hsize := Bool.and_eq_true_iff.mpr ⟨Nat.ble_eq.mpr hrows, Nat.ble_eq.mpr hlen⟩
  exact command_ok ht (ok_bind₄ (rdA_ok hra) (rdA_ok hrb) (rdA_ok haL) (rdA_ok hab) (ok_bind₄ (rdA_ok hap) (check_ok hsize _)
    (multiple4_ok hdst) (multiple4_ok hsrc) (ok_bind₄ (multiple4_ok hmult) (multiple4_ok hdp) (multiple4_ok hsp) (barrierAligned_ok hbar)
    (ok_bind₂ (checkCommand_ok hr) (apart_ok happart) hqueue))))

theorem copyRight_chSend (s : State) (c : Ctx) (t : Tok) (ra rb : BitVec 6) (st : BitVec 4) (aL ab : BitVec 6) (p1 p2 : BitVec 8) :
    copyRight s c (.chSend t ra rb st aL ab p1 p2) := by
  unfold copyRight
  have hqueue (f : CopyForm) := queueCopy_ok (s := s) (c := c) (f := f)
  generalize copyIssued s c = issuedAs at hqueue ⊢
  refine elim_ite fun hops => ?_
  cases hentry : s.channelEntry c.peer (c.aVal ra).toNat false with
  | error => trivial
  | ok entry =>
    cases hr : ranges s c (⟨.copySrc, 0x38, 0, c.aVal rb, (c.aVal aL).toNat % 2 ^ 32⟩ :: barrierRun 0x38 ab (c.aVal ab)) with
    | none => trivial
    | some r =>
      refine elim_ite fun hfit ht hready hfree => ?_
      replace hqueue := hqueue _ hfree
      push Not at hops hfit
      obtain ⟨hch, hsrc, hlen, hbar⟩ := hops
      obtain ⟨hslot, hreach⟩ := hfit
      obtain ⟨hra, hrb, haL, hab⟩ := forall_mem_four hready
      exact command_ok ht (ok_bind₄ (rdA_ok hra) (rdA_ok hrb) (rdA_ok haL) (rdA_ok hab) (ok_bind₂ (channelNumber_ok hch) hentry
        (ok_bind₄ (check_ok (Nat.ble_eq.mpr hslot) _) (check_ok (Bool.eq_true_of_not_eq_false hreach) _) (multiple4_ok hsrc)
        (multiple4_ok hlen) (ok_bind₂ (barrierAligned_ok hbar) (checkCommand_ok hr) hqueue))))

/-- By the instruction: the copies of one run of bytes have one course, CPY.2D and CH.SEND their own; no other has a form. -/
theorem copyRight_all (s : State) (c : Ctx) (i : Instr) : copyRight s c i := by
  -- `induction` and not `cases`, which would carry an equation for `i` into each of the 200 cases that `trivial` closes
  induction i with
  | cpy | cpyRed | cpyMc | cpyCsum => exact command_plainCopy fun haL => ok_bind (copyLen_ok haL) rfl
  | cpyDec => exact command_plainCopy fun haL => ok_bind (rdA_ok haL) rfl
  | cpy2d => exact copyRight_cpy2d ..
  | chSend => exact copyRight_chSend ..
  | _ => exact trivial

/-- Settles O19, by the form of the instruction. -/
theorem copiesIssue : Obligations.CopiesIssue := by
  intro s c i f hform
  have h := copyRight_all s c i
  rw [copyRight, hform] at h
  exact h

/-! ## Commands without a number -/

/-- A command without a number as it stands in the copy-store queue, with the releases that it carries. -/
def unnumbered (c : Ctx) (k : CopyCmd) (rs : List PendRel) : CopyCmd :=
  { k with id := c.nextId, line := c.ea.pc.toNat, lane := c.ea.lane, word := c.ea.word, after := c.earlier k.stream k.src ++ k.after,
           carries := rs.flatMap (fun r => r.covers) }

theorem queueUnnumbered_ok {s : State} {c : Ctx} {k : CopyCmd} (t : Tok) (bar : Option W64) (hfence : fenceFree c k.stream)
    (hroom : c.copyStore.length < 16) :
    let rs := s.carriedBy c k.stream bar k.dst
    s.queueUnnumbered t c k bar = .ok (s.setCtx (Ctx.postNow
      { c.release rs with nextId := c.nextId + 1, xferEnd := storeEnd s c k.len, copyStore := c.copyStore ++ [unnumbered c k rs] } .A t)) :=
  ok_bind₂ (fenceFree_ok hfence) (check_ok (Nat.blt_eq.mpr hroom) _) rfl

/-- A command without a barrier that writes nothing carries no release. -/
theorem carriedBy_nothing (s : State) (c : Ctx) (st : BitVec 4) : s.carriedBy c st none [] = [] := by
  rw [State.carriedBy, List.filter_eq_nil_iff]
  intro r _
  rw [Bool.and_eq_true]
  rintro ⟨-, h⟩
  split at h
  · next hhandle =>
    replace h := (if_pos hhandle).symm.trans h
    exact Bool.false_ne_true (Bool.and_eq_true_iff.mp h).2
  · exact Bool.false_ne_true h

theorem release_nil (c : Ctx) : c.release [] = c := by
  have h : c.rels.filter (fun r => !([] : List PendRel).contains r) = c.rels := List.filter_eq_self.mpr fun _ _ => rfl
  rw [Ctx.release, h]

section
variable {s : State} {c : Ctx} {t : Tok} (ht : s.ctx.tokens .A t = .ok c)
include ht

theorem execCtbl_ok {rb : BitVec 6} {st : BitVec 4} {slot : BitVec 2} {sps : List Span} {u : State} (hrb : readyA c rb)
    (halign : (c.aVal rb).toNat % 8 = 0) (hsrc : ranges s c [⟨.copySrc, 0x35, 0, c.aVal rb, 320⟩] = some [sps])
    (hqueue : s.queueUnnumbered t c { id := 0, seq := none, kind := .ctbl slot, stream := st, src := sps, dst := [], len := 320 } = .ok u) :
    execCtbl t rb st slot s = issued u :=
  command_ok ht (ok_bind₂ (rdA_ok hrb) (check_ok (beq_iff_eq.mpr halign) _) (ok_bind (checkCommand_ok hsrc) hqueue))

theorem execSuspFill_ok {ra rb aL ab : BitVec 6} {st : BitVec 4} {r : EvalRec} {spss : List (List Span)} {len : Nat}
    (hra : readyA c ra) (hrb : readyA c rb) (haL : readyA c aL) (hab : readyA c ab) (hlen : (c.aVal aL).toNat % 2 ^ 32 = len)
    (hdst : (c.aVal ra).toNat / 2 ^ 60 ≠ 15) (hsrc : (c.aVal rb).toNat / 2 ^ 60 ≠ 15) (hmult : (c.aVal rb).toNat % 4 = 0)
    (hbar : barrierAt (c.aVal ab)) (hrec : s.fillRecord s.cur.loom s.cur.ev = some r) (hline : (c.aVal ra).toNat % 128 = 0)
    (hlines : len % 128 = 0) (hsome : len ≠ 0) (hhead : r.headVa ≤ (c.aVal ra).toNat) (hend : (c.aVal ra).toNat + len ≤ r.headVa + r.extent)
    (hwalks : ∀ x ∈ s.regionRuns s.cur.who c.peer (len / 65536 + 2) (c.aVal ra).toNat len, ∀ w, x.2 ≠ .error (.wait w))
    (hranges : ranges s c (⟨.copySrc, 0x2F, 0, c.aVal rb, len⟩ :: barrierRun 0x2F ab (c.aVal ab)) = some spss)
    {u : State} (hqueue : s.queueUnnumbered t c
      { id := 0, seq := none, kind := .fill, stream := st, src := spss.headD [],
        dst := fillSpans r ((s.regionRuns s.cur.who c.peer (len / 65536 + 2) (c.aVal ra).toNat len).filterMap (fun x => x.2.toOption))
          (c.aVal ra).toNat len,
        len := len, barrier := (spss.getD 1 []).head?, after := c.covers 0 st 2 } (namedBarrier ab (c.aVal ab)) = .ok u) :
    execSuspFill t ra rb st aL ab s = issued u := by
  have hinside : (some r).filter (fun r => (c.aVal ra).toNat % 128 == 0 && len % 128 == 0 && Nat.ble r.headVa (c.aVal ra).toNat
      && Nat.ble ((c.aVal ra).toNat + len) (r.headVa + r.extent)) = some r := by
    simp [hline, hlines, hhead, hend]
  have hpos : Nat.max 1 len = len := Nat.max_eq_right (Nat.pos_of_ne_zero hsome)
  have hhere : (if (some r).isSome = true then Nat.max 1 len else 1) = len := hpos
  subst hlen
  refine command_ok ht (ok_bind₄ (rdA_ok hra) (rdA_ok hrb) (rdA_ok haL) (rdA_ok hab) (ok_bind₂ (wantAddress_ok hdst) (wantAddress_ok hsrc) ?_))
  dsimp only
  rw [hrec, hinside, hhere, List.findSome?_eq_none_iff.mpr ?nowait]
  case nowait =>
    intro x hx
    split
    · next w hw => exact absurd hw (hwalks x hx w)
    · rfl
  exact ok_bind₂ (multiple4_ok hmult) (barrierAligned_ok hbar) (ok_bind (checkCommand_ok hranges) ((if_neg hsome).trans hqueue))

end

/-- Settles O24: each of the two queues its command without a number. -/
theorem tableLoadsAndFillsIssue : Obligations.TableLoadsAndFillsIssue := by
  refine ⟨fun s c t rb st slot sps ht hrb halign hsrc hfence hroom => ?ctbl, ?fill⟩
  case ctbl =>
    refine execCtbl_ok ht hrb halign hsrc ((queueUnnumbered_ok t none hfence hroom).trans ?_)
    rw [carriedBy_nothing, release_nil, unnumbered, List.append_nil]
    rfl
  case fill =>
    intro s c t ra rb aL ab st r spss ht hra hrb haL hab dst len runs rs hdst hsrc hmult hbar hrec hline hlines hsome hhead hend hwalks
      hranges hfence hroom
    exact execSuspFill_ok ht hra hrb haL hab rfl hdst hsrc hmult hbar hrec hline hlines hsome hhead hend hwalks hranges
      (queueUnnumbered_ok t _ hfence hroom)

end Sys2Proof.Proofs.CopyIssue
end

section
/-!
PROOFS. CH.FREE, CH.WIN and the STASH group at issue (O20).
-/

namespace Sys2Proof.Proofs.ChannelsStash

open Sys2Proof.Machine Sys2Proof.Claims Sys2Proof.Laws Sys2Proof.Proofs.Fences Sys2Proof.Proofs.Issue Sys2Proof.Proofs.CopyIssue

theorem modPart_some {s : State} {peer : Nat} {p : Partition} (f : Partition → Partition) (h : s.part? peer = some p) :
    s.modPart peer f = s.setPart peer (f p) := by
  simp only [State.modPart, h]

/-! ## The STASH group -/

section
variable {s : State} {c : Ctx} {t : Tok} {rb : BitVec 6} {st : BitVec 4} (hrb : readyA c rb) (hkey : (c.aVal rb).toNat / 2 ^ 44 = 0)
  (hfence : fenceFree c st)
include hrb hkey hfence

theorem stashCommand_ok {ab : BitVec 6} {bar : Option Span} (kind : Nat) (f : StashOp → StashOp) (hab : readyA c ab)
    (hbar : s.objectBarrier c 0x37 ab (c.aVal ab) = .ok bar) :
    let rs := s.carriedBy c st (namedBarrier ab (c.aVal ab)) []
    s.stashCommand t c kind rb st ab f =
      .ok (stashed s c t rs { f { stashOp s c kind (c.aVal rb) st bar rs with id := 0 } with id := s.nextStash }) := by
  have hhigh : ((c.aVal rb).extractLsb' 44 20 == 0) = true := by
    rw [extractLsb'_beq, decide_eq_true_iff, hkey]
    rfl
  simp only [stashOp, ← extractLsb'_eq_ofNat]
  exact ok_bind₄ (rdA_ok hrb) (rdA_ok hab) (check_ok hhigh _) hbar (ok_bind (fenceFree_ok hfence) rfl)

/-- DROP and FREE name no barrier, and carry no release. -/
theorem command_stashKey {t : Tok} (ht : s.ctx.tokens .A t = .ok c) (kind : Nat) :
    s.command t (fun c => s.stashCommand t c kind rb st 0 id) = issued (stashed s c t [] (stashOp s c kind (c.aVal rb) st none [])) := by
  have hnone : s.carriedBy c st (namedBarrier 0 (c.aVal 0)) [] = [] := carriedBy_nothing s c st
  refine command_ok ht ((stashCommand_ok hrb hkey hfence kind id (.inr (.inl rfl)) rfl).trans ?_)
  rw [hnone]
  rfl

end

/-- Settles O20: each instruction's effect answers where its checks hold. -/
theorem channelsAndStashIssue : Obligations.ChannelsAndStashIssue := by
  refine ⟨fun s c t ra rb st p e m ht hra hrb hpart hreach => ⟨?free, ?win⟩, ?stash⟩
  case free =>
    intro hch hentry r hfilled hfence
    have hpart' : (s.setCtx (c.postNow .A t)).part? c.peer = some p := hpart
    refine command_ok ht (ok_bind₄ (rdA_ok hra) (rdA_ok hrb) (channelNumber_ok hch) hentry ?_)
    rw [hpart]
    exact ok_bind₂ (check_ok (Nat.ble_eq.mpr hfilled) _) (check_ok hreach _) (ok_bind (fenceFree_ok hfence)
      (congrArg (fun u : State => Except.ok (u.giveWindow c.peer (c.aVal ra).toNat)) (modPart_some _ hpart')))
  case win =>
    intro f hch hentry hfabric hfence hroom
    refine command_ok ht (ok_bind₄ (rdA_ok hrb) (channelNumber_ok hch) hentry (check_ok hreach _) ?_)
    rw [hpart, Option.bind_some, hfabric]
    exact issueAccess_reg rfl hfence (channelFree_nil c) hroom
  case stash =>
    intro s c t ra rb ab st bar ht hra hrb hab hkey hfence hbar hregion
    refine ⟨fun aL aa policy tier place' haL haa => ?_, ?_, command_stashKey hrb hkey hfence ht 1, command_stashKey hrb hkey hfence ht 3⟩
    · exact command_ok ht (ok_bind₄ (rdA_ok hra) (rdA_ok haL) (rdA_ok haa) (wantAddress_ok hregion)
        (stashCommand_ok hrb hkey hfence 0 _ hab hbar))
    · refine command_ok ht (ok_bind₂ (rdA_ok hra) (wantAddress_ok hregion) ((stashCommand_ok hrb hkey hfence 2 _ hab hbar).trans ?_))
      have hother : (ra != 0) = decide (ra ≠ 0) := by rw [bne, beq_eq_decide, decide_not]
      rw [hother]
      rfl

end Sys2Proof.Proofs.ChannelsStash
end

section
/-!
PROOFS. O23 fails: nothing in it asks for room at the memory channels that SUSP.PEEK, SUSP.MK or an operation at a peer meets, and an access
that meets one with 64 requests of its context unanswered waits (R375).
-/

namespace Sys2Proof.Proofs.FullChannel

open Sys2Proof.Machine Sys2Proof.Claims Sys2Proof.Laws Sys2Proof.Proofs.Issue

/-- An access that meets a full channel or slice is held at issue (R375). -/
theorem issueAccess_waits {s : State} {t : Tok} {c : Ctx} {a : Access} {lat base : Nat} (hfence : fenceFree c a.stream)
    (hfull : ¬ channelFree c a.spans) : s.issueAccess t c a none lat base = .error (.wait .channel) := by
  have hroom : c.channelRoom a.spans = .error (.wait .channel) := by
    have hne := mt channelRoom_iff.mp hfull
    unfold Ctx.channelRoom at hne ⊢
    rw [check_eq_ok_iff, Bool.not_eq_true] at hne
    rw [hne]
    rfl
  simp only [State.issueAccess, fenceFree_ok hfence, hroom, Bind.bind, Except.bind]

theorem execSuspPeek_waits {s : State} {c : Ctx} {t : Tok} {ra rb : BitVec 6} {st : BitVec 4} {sps : List Span}
    (ht : s.ctx.tokens .A t = .ok c) (hrb : readyA c rb) (haddr : (c.aVal rb).toNat / 2 ^ 60 ≠ 15)
    (hplaced : placedOne s c .load 0x2F (c.aVal rb) 1 = some sps) (hfence : fenceFree c st) (hfull : ¬ channelFree c sps) :
    execSuspPeek t ra rb st s = .next { s with disp := .waits .channel } :=
  command_wait ht (ok_bind₂ (rdA_ok hrb) (wantAddress_ok haddr) (ok_bind (run_ok hplaced) (issueAccess_waits hfence hfull)))

theorem waits_ne_issued (s u : State) (w : Wait) : (.next { s with disp := .waits w } : Host.Outcome State Fault Refusal) ≠ issued u := by
  intro h
  have hdisp := congrArg State.disp (Host.Outcome.next.inj h)
  cases hdisp

/-! ## The counterexample

Its state is for the kernel alone to evaluate: no code is made of it. -/

/-- A store of the first 8 bytes of HBM that has not been performed. -/
noncomputable def pendingStore (id : Nat) : Access :=
  { id := id, kind := .store (leBytes 8 0) false, stream := 1, spans := [{ pa := 0, va := 0, len := 8, off := 0, attrs := 0x40 }],
    dest := .none, len := 8 }

/-- A context with 64 such stores, counted in STC. -/
noncomputable def storingCtx : Ctx :=
  { accs := (List.range 64).map pendingStore, outs := (List.range 64).map (fun i => { id := i, ctr := .stc, due := none }), nextId := 64 }

/-- A state whose loom 0 runs it, with the page of its stores in the translation buffer. -/
noncomputable def storing : State :=
  { looms := [(0, { pick := storingCtx })],
    bolts := [(0, { tlb := [{ peer := 0, va := 0, size := 65536, pa := 0, attrs := 0x40 }] })] }

/-- The byte that SUSP.PEEK asks about. -/
noncomputable def peeked : Span := { pa := 0, va := 0, len := 1, off := 0, attrs := 0x40 }

theorem storing_full : ¬ channelFree storingCtx [peeked] := by
  intro h
  exact absurd (h peeked (List.mem_singleton_self _) rfl) (by decide)

/-- Refutes O23: in `storing`, where the conditions of its last clause hold, SUSP.PEEK of address 0 waits for the channel. -/
theorem not_bobbinsAndSuspensionsIssue : ¬ Obligations.BobbinsAndSuspensionsIssue := by
  rintro ⟨-, -, -, hpeek⟩
  have ht : storing.ctx.tokens .A ⟨false, false⟩ = .ok storingCtx := rfl
  have hready : readyA storingCtx 0 := .inr (.inl rfl)
  have haddr : (storingCtx.aVal 0).toNat / 2 ^ 60 ≠ 15 := by decide
  have hplaced : placedOne storing storingCtx .load 0x2F (storingCtx.aVal 0) 1 = some [peeked] := rfl
  have hfence : fenceFree storingCtx 0 := nofun
  have hroom : dataRoom storingCtx (.reg 1) := ⟨by decide, by decide⟩
  have hissued := hpeek storing storingCtx ⟨false, false⟩ 1 0 0 [peeked] ht hready haddr hplaced hfence hroom
  exact waits_ne_issued _ _ _ ((execSuspPeek_waits ht hready haddr hplaced hfence storing_full).symm.trans hissued)

end Sys2Proof.Proofs.FullChannel
end

section
/-!
PROOFS. Spilled and held arrivals, congestion levels and the actions of bobbins (O39): what each event does where its clause's conditions
hold.
-/

namespace Sys2Proof.Proofs.ArrivalsMove

open Sys2Proof.Machine Sys2Proof.Claims Sys2Proof.Laws Sys2Proof.Proofs.Issue

theorem some_bind {α β : Type} {x : Option α} {a : α} {f : α → Option β} {r : Option β} (h : x = some a) (hf : f a = r) : x.bind f = r := by
  rw [h]
  exact hf

/-! ## Rings -/

/-- A ring has an arrival to return: it holds one, and its queue has room for it. -/
theorem ring_returns {r : Ring} {n : Nat} (hring : r.head < r.tail) (hfree : r.fenced = false) (hroom : n ≤ 56) :
    ¬ (r.count = 0 ∨ r.fenced = true ∨ 56 < n) :=
  not_or.mpr ⟨(Nat.sub_pos_of_lt hring).ne', not_or.mpr ⟨ne_of_eq_of_ne hfree Bool.false_ne_true, Nat.not_lt.mpr hroom⟩⟩

/-- A ring is translated again: at its tail, and at its head where it holds an arrival. -/
theorem ring_placed {r : Ring} {x y : Option Span} {w : Span} (htail : x = some w) (hhead : r.tail ≤ r.head ∨ y ≠ none) :
    (x.isSome && (r.count == 0 || y.isSome)) = true :=
  Bool.and_eq_true_iff.mpr ⟨Option.isSome_of_eq_some htail,
    Bool.or_eq_true_iff.mpr (hhead.imp (fun h => beq_iff_eq.mpr (Nat.sub_eq_zero_of_le h)) Option.isSome_iff_ne_none.mpr)⟩

/-! ## Actions of bobbins (R183) -/

section
variable {s : State} {k : Nat}

/-- A bobbin with an action to post, none of whose arrivals is held, goes by its action. -/
theorem not_waits {n : Nat} (hheld : n ≠ 0) (hfirst : ∀ x ∈ s.stages, ∀ l ∈ x.2.heldArr.toList, ∀ h ∈ l, h.src ≠ .bobbin k) :
    ¬ (n = 0 ∨ s.stages.any (fun x => x.2.heldArr.toList.any (fun l => l.any (fun h => h.src == .bobbin k))) = true) := by
  rintro (hnone | hwaits)
  · exact hheld hnone
  · obtain ⟨x, hx, hwaits⟩ := List.any_eq_true.mp hwaits
    obtain ⟨l, hl, hwaits⟩ := List.any_eq_true.mp hwaits
    obtain ⟨y, hy, hwaits⟩ := List.any_eq_true.mp hwaits
    exact hfirst x hx l hl y hy (beq_iff_eq.mp hwaits)

variable {p : Partition} {b : Bobbin} (hb : s.bobbin k = b) (hpart : s.part? b.peer = some p) (hheld : b.held ≠ 0)
  (hfirst : ∀ x ∈ s.stages, ∀ l ∈ x.2.heldArr.toList, ∀ h ∈ l, h.src ≠ .bobbin k)
include hb hpart hheld hfirst

theorem postAction_barrier {sp : Span} (haction : b.action = 0) (hbar : s.actionBarrier p k b.operand = some sp)
    (hline : s.meetBarrier sp = (s, none)) (hready : (s.barrier sp.pa).state = 1) :
    s.postAction k = some ((s.updateBarrier sp
      { s.barrier sp.pa with arrived := ((s.barrier sp.pa).arrived + 1) % 2 ^ 32 }).actionPosted k) := by
  simp only [State.postAction, hb, hpart, if_neg (not_waits hheld hfirst), haction, hbar, hline, hready, ne_eq, not_true_eq_false, if_false]

theorem postAction_tasks {u : State} {bs : List Byte} {bolt : Nat} (haction : b.action = 1)
    (hrecords : s.actionRecords p k b.operand = (u, some bs))
    (hbolt : bolt = if 65536 ≤ k then k % 65536 / 256 else b.operand.toNat / 2 ^ 48 % 64)
    (hroom : (s.bolt bolt).recs.length + b.operand.toNat / 2 ^ 56 % 32 + 1 ≤ 64) :
    s.postAction k = some ((u.deliverTasks b.peer bolt (handleOf b.peer b.gen k) bs).actionPosted k) := by
  have hkey : (if keyBolt k then keyUnit k else (b.operand.extractLsb' 48 6).toNat) = bolt := by
    rw [extractLsb'_toNat_div, hbolt]
    exact if_congr (Iff.of_eq Nat.ble_eq) rfl rfl
  have hcount : (b.operand.extractLsb' 56 5).toNat = b.operand.toNat / 2 ^ 56 % 32 := extractLsb'_toNat_div _ _ _
  simp only [State.postAction, hb, hpart, if_neg (not_waits hheld hfirst), haction, hkey, hcount, if_neg (Nat.not_lt.mpr hroom), hrecords]

theorem postAction_arrival {u : State} {panel stage tag' : Nat} {a : Arrival} (haction : b.action = 2)
    (harrival : arrivalOf (b.operand.setWidth 64) 0 = (panel, stage, a)) (hstage : p.hasStage panel stage = true)
    (htag : tag' = (b.operand.toNat / 2 ^ 53 + a.tag.toNat) % 2 ^ 32)
    (hpost : (s.setBobbin k { b with operand := (b.operand &&& 0x1FFFFFFF00000000) ||| BitVec.ofNat 61 tag' }).postArrival b.peer panel stage
      { a with fired := some b.extents } (.bobbin k) = (u, true)) :
    s.postAction k = some (u.actionPosted k) := by
  have hstep : ((b.operand.extractLsb' 53 8).toNat + a.tag.toNat) % 2 ^ 32 = tag' := by
    rw [extractLsb'_high b.operand rfl, htag]
  simp only [haction] at hpost
  simp only [State.postAction, hb, hpart, if_neg (not_waits hheld hfirst), haction, harrival, hstage, hstep, Bool.not_true,
    Bool.false_eq_true, if_false, hpost]

end

/-- Settles O39: each event is enabled by its clause's conditions, and has the effect that the clause writes. -/
theorem arrivalsMove : Obligations.ArrivalsMove := by
  refine ⟨fun s panel stage queue peer p ⟨hpanel, hpart, _⟩ => ⟨?ret, ?retry, ?held⟩, ?decay,
    fun s k p hpart hheld hfirst => ⟨?barrier, ?tasks, ?arrival⟩⟩
  case ret =>
    intro sp u bs hring hfree hroom hplace hread
    refine event_some (some_bind hpanel (some_bind hpart ((if_neg (ring_returns hring hfree hroom)).trans ?_)))
    simp only [hplace, hread]
  case retry =>
    intro w hfenced htail hhead
    refine event_some (some_bind hpanel (some_bind hpart ((if_neg ?_).trans (congrArg some (if_pos (ring_placed htail hhead))))))
    rw [hfenced]
    exact Bool.false_ne_true
  case held =>
    intro h rest u hheld hpost
    refine event_some (some_bind hpanel ?_)
    simp only [hheld, hpost]
  case decay =>
    intro s peer mem p hpart hlevel
    refine ⟨_, _, event_some (some_bind hpart (if_neg hlevel)), part_setPart s peer _, fun hhigh => ?_⟩
    rw [if_neg hhigh.ne']
    exact getD_set_self _ _ _ _
  case barrier => exact fun sp haction hbar hline hready => event_some (postAction_barrier rfl hpart hheld hfirst haction hbar hline hready)
  case tasks => exact fun u bs haction hrecords hroom => event_some (postAction_tasks rfl hpart hheld hfirst haction hrecords rfl hroom)
  case arrival =>
    exact fun u panel stage a haction harrival hstage hpost =>
      event_some (postAction_arrival rfl hpart hheld hfirst haction harrival hstage rfl hpost)

end Sys2Proof.Proofs.ArrivalsMove
end
